-- ==== Sys2Proof/Word.lean ====
section
/-! DEFINITION. The word types of the Kilne package (R5, R10, R62 of spec/). -/

namespace Sys2Proof

/-- One byte of memory (R5). -/
abbrev Byte := BitVec 8

/-- The 32 bits of one vector or scalar register, and of one instruction word (R10, R62). -/
abbrev Word := BitVec 32

/-- The 64 bits of an even/odd register pair (R10) and of a generic address (R25). -/
abbrev Dword := BitVec 64

/-- The 128 bits of a quad (R10). -/
abbrev Quad := BitVec 128

/-- One bit per lane of a strand, lane 0 in bit 0 (R13, R131). -/
abbrev LaneMask := BitVec 96

/-- A 7-bit register field of an instruction word (R11, R322). -/
abbrev Reg := BitVec 7

/-- A containment identifier: virtual device in bits 15 to 11, context in bits 10 to 0 (R366). -/
abbrev Cid := BitVec 16

end Sys2Proof
end

