-- ==== Sys2Proof/Machine/Float.lean ====
section
/-! DEFINITION. Numbers to the bit: the binary formats, exact values, the one rounding function with its flags and
stochastic draws, and the exact operations over them (R36 to R49, R58, R59). -/

namespace Sys2Proof.Machine

/-- The flag bits NV, DZ, OF, UF, NX of R47. -/
abbrev Flags := BitVec 5

/-- Invalid operation (R47). -/
def fNV : Flags := 0b10000
/-- Division by zero (R47). -/
def fDZ : Flags := 0b01000
/-- Overflow (R47). -/
def fOF : Flags := 0b00100
/-- Underflow (R47). -/
def fUF : Flags := 0b00010
/-- Inexact (R47). -/
def fNX : Flags := 0b00001

/-- The rounding modes of R41; the dynamic mode is resolved before rounding. -/
inductive RMode where
  | rn | rz | rd | ru | rna | sr
  deriving DecidableEq, Repr

/-- A binary floating-point format: exponent bits, fraction bits, and whether it is .e4m3, which has no
infinity and one NaN pattern per sign (R36, R37). -/
structure FFmt where
  ebits : Nat
  fbits : Nat
  e4m3 : Bool
  deriving DecidableEq, Repr

/-- .f32 (R36). -/
def f32 : FFmt := { ebits := 8, fbits := 23, e4m3 := false }
/-- .f64 (R36). -/
def f64 : FFmt := { ebits := 11, fbits := 52, e4m3 := false }
/-- .f16 (R36). -/
def f16 : FFmt := { ebits := 5, fbits := 10, e4m3 := false }
/-- .bf16 (R36). -/
def bf16 : FFmt := { ebits := 8, fbits := 7, e4m3 := false }
/-- .e4m3 (R36). -/
def e4m3 : FFmt := { ebits := 4, fbits := 3, e4m3 := true }
/-- .e5m2 (R36). -/
def e5m2 : FFmt := { ebits := 5, fbits := 2, e4m3 := false }

/-- The width in bits. -/
def FFmt.width (f : FFmt) : Nat := 1 + f.ebits + f.fbits
/-- The exponent bias (R36). -/
def FFmt.bias (f : FFmt) : Nat := 2 ^ (f.ebits - 1) - 1
/-- The exponent of the smallest normal (R36). -/
def FFmt.emin (f : FFmt) : Int := 1 - (f.bias : Int)
/-- The exponent of the smallest subnormal, which is the unit of the subnormal range (R36). -/
def FFmt.qmin (f : FFmt) : Int := f.emin - f.fbits
/-- The all-ones exponent field. -/
def FFmt.eOnes (f : FFmt) : Nat := 2 ^ f.ebits - 1
/-- The canonical NaN (R38). -/
def FFmt.canonNaN (f : FFmt) : Nat :=
  if f.e4m3 then 0x7F else f.eOnes * 2 ^ f.fbits + 2 ^ (f.fbits - 1)
/-- The magnitude pattern of the largest finite value (R36). -/
def FFmt.maxMag (f : FFmt) : Nat := if f.e4m3 then 0x7E else f.eOnes * 2 ^ f.fbits - 1
/-- The sign bit. -/
def FFmt.signBit (f : FFmt) (neg : Bool) : Nat := if neg then 2 ^ (f.ebits + f.fbits) else 0
/-- Infinity of a sign, or the canonical NaN in .e4m3 (R37, R43). -/
def FFmt.inf (f : FFmt) (neg : Bool) : Nat :=
  if f.e4m3 then 0x7F else f.signBit neg + f.eOnes * 2 ^ f.fbits
/-- The largest finite value of a sign. -/
def FFmt.max (f : FFmt) (neg : Bool) : Nat := f.signBit neg + f.maxMag

/-- What an encoding holds: a NaN (signalling or quiet), an infinity, or the exact value
(-1)^neg × m × 2^e, with m = 0 for the zeros (R36, R37). -/
inductive FV where
  | nan (signalling : Bool)
  | inf (neg : Bool)
  | fin (neg : Bool) (m : Nat) (e : Int)
  deriving DecidableEq, Repr

/-- The value of an encoding (R36 to R38). -/
def FFmt.unpack (f : FFmt) (bits : Nat) : FV :=
  let neg := bits / 2 ^ (f.ebits + f.fbits) % 2 == 1
  let e := bits / 2 ^ f.fbits % 2 ^ f.ebits
  let m := bits % 2 ^ f.fbits
  if e = f.eOnes ∧ (¬ f.e4m3 ∨ m = 2 ^ f.fbits - 1) then
    if f.e4m3 then .nan false
    else if m = 0 then .inf neg
    else .nan (decide (f.fbits > 2) && decide (m < 2 ^ (f.fbits - 1)))
  else if e = 0 then .fin neg m f.qmin
  else .fin neg (2 ^ f.fbits + m) ((e : Int) - f.bias - f.fbits)

/-- One step of a stochastic-rounding generator (R46). -/
def srStep (g : BitVec 24) : BitVec 24 :=
  let n := g.getLsbD 0 ^^ g.getLsbD 1 ^^ g.getLsbD 2 ^^ g.getLsbD 7
  (g >>> 1) ||| (BitVec.ofBool n).setWidth 24 <<< 23

/-- The generator after one draw: sixteen steps (R46). -/
def srAdvance : Nat → BitVec 24 → BitVec 24
  | 0, g => g
  | n + 1, g => srAdvance n (srStep g)

/-- The 16-bit draw that a generator's next sixteen steps give, first bit in r[0] (R46). -/
def srDraw (g : BitVec 24) : Nat := ((srAdvance 16 g).extractLsb' 8 16).toNat

/-- The seed of a lane's generator (R46). -/
def srSeed (srseed : Word) (lane : Nat) : BitVec 24 :=
  let v : BitVec 24 := srseed.setWidth 24 + BitVec.ofNat 24 (lane + 1) * 0x0B5A93
  if v = 0 then 1 else v

/-- A rounded result: the encoding, the flags it raised, and the generator after it (R45, R48). -/
structure FRes where
  bits : Nat
  flags : Flags
  g : BitVec 24
  deriving DecidableEq, Repr

/-- A positive value as a multiple of 2^q: the whole units, the rest as a fraction of 2^s, both exact. -/
structure Units where
  lo : Nat
  rem : Nat
  s : Nat
  deriving DecidableEq, Repr

/-- The value m × 2^e in units of 2^q. -/
def unitsOf (m : Nat) (e q : Int) : Units :=
  if q ≤ e then { lo := m * 2 ^ (e - q).toNat, rem := 0, s := 0 }
  else { lo := m / 2 ^ (q - e).toNat, rem := m % 2 ^ (q - e).toNat, s := (q - e).toNat }

/-- Whether the neighbour of larger magnitude is chosen for an inexact value (R41, R45). -/
def roundsUp (mode : RMode) (neg : Bool) (u : Units) (draw : Nat) : Bool :=
  match mode with
  | .rn => decide (2 * u.rem > 2 ^ u.s ∨ (2 * u.rem = 2 ^ u.s ∧ u.lo % 2 = 1))
  | .rna => decide (2 * u.rem ≥ 2 ^ u.s)
  | .rz => false
  | .rd => neg
  | .ru => !neg
  | .sr =>
    if neg then !decide (draw < (2 ^ u.s - u.rem) * 65536 / 2 ^ u.s)
    else decide (draw < u.rem * 65536 / 2 ^ u.s)

/-- The value in whole units after rounding. -/
def Units.pick (u : Units) (mode : RMode) (neg : Bool) (draw : Nat) : Nat :=
  if u.rem = 0 then u.lo else if roundsUp mode neg u draw then u.lo + 1 else u.lo

/-- The exponent of the leading bit of m × 2^e, m > 0. -/
def topExp (m : Nat) (e : Int) : Int := (Nat.log2 m : Int) + e

/-- The encoding of k × 2^q with k × 2^q on the format's grid and not above its largest finite value. -/
def FFmt.encode (f : FFmt) (neg : Bool) (k : Nat) (q : Int) : Nat :=
  if k = 0 then f.signBit neg
  else
    let t := topExp k q
    if t < f.emin then f.signBit neg + (unitsOf k q f.qmin).lo
    else f.signBit neg + (t + f.bias).toNat * 2 ^ f.fbits + ((unitsOf k q (t - f.fbits)).lo - 2 ^ f.fbits)

/-- Whether k × 2^q exceeds the largest finite value of the format (R43). -/
def FFmt.exceeds (f : FFmt) (k : Nat) (q : Int) : Bool :=
  let maxM := if f.e4m3 then 2 ^ f.fbits + (2 ^ f.fbits - 2) else 2 ^ (f.fbits + 1) - 1
  let maxE : Int := (if f.e4m3 then (8 : Int) else (f.bias : Int)) - f.fbits
  if q ≤ maxE then decide (k > maxM * 2 ^ (maxE - q).toNat) else decide (k * 2 ^ (q - maxE).toNat > maxM)

/-- Rounding of the exact non-zero value (-1)^neg × m × 2^e into a format (R39, R41, R43, R45). An exact value
that is no multiple of a power of two is passed with enough bits and its last bit standing for the rest. -/
def FFmt.roundFin (f : FFmt) (mode : RMode) (sat : Bool) (g : BitVec 24) (neg : Bool) (m : Nat) (e : Int) : FRes :=
  if m = 0 then { bits := f.signBit neg, flags := 0, g := g }
  else
    let t := topExp m e
    let q := if t - f.fbits < f.qmin then f.qmin else t - f.fbits
    let u := unitsOf m e q
    let big := f.exceeds u.lo q
    let inexact := decide (u.rem ≠ 0) || big
    let draws := decide (mode = .sr) && inexact
    let k := u.pick mode neg (if draws then srDraw g else 0)
    let g' := if draws then srAdvance 16 g else g
    if f.exceeds k q then
      let toInf : Bool := match mode with
        | .rn => true
        | .rna => true
        | .rz => false
        | .rd => neg
        | .ru => !neg
        | .sr => true
      { bits := if toInf && !sat then f.inf neg else f.max neg, flags := fOF ||| fNX, g := g' }
    else
      let uu := unitsOf m e (t - f.fbits)
      let tiny : Bool :=
        if mode = .sr then decide (k = 0) || decide (topExp k q < f.emin)
        else decide (topExp (uu.pick mode neg 0) (t - f.fbits) < f.emin)
      let flags := (if inexact then fNX else 0) ||| (if inexact && tiny then fUF else 0)
      { bits := f.encode neg k q, flags := flags, g := g' }

/-- A result that is an infinity; sat turns it into the largest value (R43). -/
def FFmt.infRes (f : FFmt) (sat neg : Bool) (flags : Flags) (g : BitVec 24) : FRes :=
  { bits := if sat then f.max neg else f.inf neg, flags := flags, g := g }

/-- The canonical NaN with the flags that go with it (R38). -/
def FFmt.nanRes (f : FFmt) (flags : Flags) (g : BitVec 24) : FRes := { bits := f.canonNaN, flags := flags, g := g }

/-- Exact values before rounding: what an operation yields (R38, R59, R154). -/
inductive XV where
  | nan
  | inf (neg : Bool)
  | zero (neg : Bool)
  | dy (m : Int) (e : Int)
  deriving DecidableEq, Repr

/-- The exact value of a finite or infinite operand. -/
def FV.toXV : FV → XV
  | .nan _ => .nan
  | .inf n => .inf n
  | .fin n m e => if m = 0 then .zero n else .dy (if n then -(m : Int) else m) e

/-- Whether a NaN is signalling, which raises NV (R38). -/
def FV.snan : FV → Bool
  | .nan s => s
  | _ => false

/-- Rounding of any exact value; an exact infinity in .e4m3 gives the canonical NaN, or the largest value with sat. -/
def FFmt.round (f : FFmt) (mode : RMode) (sat : Bool) (g : BitVec 24) (flags : Flags) : XV → FRes
  | .nan => f.nanRes flags g
  | .inf n => f.infRes sat n flags g
  | .zero n => { bits := f.signBit n, flags := flags, g := g }
  | .dy m e =>
    let r := f.roundFin mode sat g (decide (m < 0)) m.natAbs e
    { r with flags := r.flags ||| flags }

/-- The exact product of two values and the flags it raises: 0 × ∞ is invalid (R38). -/
def mulXV (a b : FV) : XV × Flags :=
  let fl := if a.snan || b.snan then fNV else 0
  match a, b with
  | .nan _, _ => (.nan, fl)
  | _, .nan _ => (.nan, fl)
  | .inf n, .inf n' => (.inf (n != n'), fl)
  | .inf n, .fin n' m _ => if m = 0 then (.nan, fl ||| fNV) else (.inf (n != n'), fl)
  | .fin n m _, .inf n' => if m = 0 then (.nan, fl ||| fNV) else (.inf (n != n'), fl)
  | .fin n m e, .fin n' m' e' =>
    if m * m' = 0 then (.zero (n != n'), fl)
    else (.dy (if n != n' then -((m * m' : Nat) : Int) else (m * m' : Nat)) (e + e'), fl)

/-- The exact sum of two dyadic values. -/
def addDy (m : Int) (e : Int) (m' : Int) (e' : Int) : Int × Int :=
  let q := min e e'
  (m * 2 ^ (e - q).toNat + m' * 2 ^ (e' - q).toNat, q)

/-- What a sum has met so far: NaN, the two infinities, whether every term was a zero of one sign, and the finite sum. -/
structure SumAcc where
  nan : Bool := false
  pinf : Bool := false
  ninf : Bool := false
  pzero : Bool := false
  nzero : Bool := false
  any : Bool := false
  m : Int := 0
  e : Int := 0
  deriving DecidableEq, Repr

/-- One more term of an exact sum. -/
def SumAcc.add (s : SumAcc) : XV → SumAcc
  | .nan => { s with nan := true }
  | .inf n => if n then { s with ninf := true } else { s with pinf := true }
  | .zero n => if n then { s with nzero := true } else { s with pzero := true }
  | .dy m e =>
    if s.any then
      let r := addDy s.m s.e m e
      { s with m := r.1, e := r.2 }
    else { s with any := true, m := m, e := e }

/-- The exact sum and the flag of ∞ - ∞. A zero sum of terms that are not all zeros of one sign is +0, or -0 under RD
(R59, R154). -/
def SumAcc.result (s : SumAcc) (mode : RMode) : XV × Flags :=
  if s.pinf && s.ninf then (.nan, fNV)
  else if s.nan then (.nan, 0)
  else if s.pinf then (.inf false, 0)
  else if s.ninf then (.inf true, 0)
  else if s.any then (if s.m = 0 then .zero (decide (mode = .rd)) else .dy s.m s.e, 0)
  else if s.nzero && !s.pzero then (.zero true, 0)
  else if s.nzero then (.zero (decide (mode = .rd)), 0)
  else (.zero false, 0)

/-- The exact sum of a list of terms (R59). -/
def sumXV (mode : RMode) (terms : List XV) : XV × Flags := (terms.foldl SumAcc.add {}).result mode

/-- a + b (R153, R154). -/
def FFmt.add (f : FFmt) (mode : RMode) (sat : Bool) (g : BitVec 24) (a b : FV) : FRes :=
  let fl := if a.snan || b.snan then fNV else 0
  let r := sumXV mode [a.toXV, b.toXV]
  f.round mode sat g (fl ||| r.2) r.1

/-- The value with its sign turned over. -/
def FV.negate : FV → FV
  | .nan s => .nan s
  | .inf n => .inf (!n)
  | .fin n m e => .fin (!n) m e

/-- a × b (R153). -/
def FFmt.mul (f : FFmt) (mode : RMode) (sat : Bool) (g : BitVec 24) (a b : FV) : FRes :=
  let r := mulXV a b
  f.round mode sat g r.2 r.1

/-- a × b + c with one rounding (R58). -/
def FFmt.fma (f : FFmt) (mode : RMode) (sat : Bool) (g : BitVec 24) (a b c : FV) : FRes :=
  let p := mulXV a b
  let fl := if c.snan then fNV else 0
  let r := sumXV mode [p.1, c.toXV]
  f.round mode sat g (p.2 ||| fl ||| r.2) r.1

/-- a0 × b0 + a1 × b1 + c with one rounding (R58). -/
def FFmt.dot2 (f : FFmt) (mode : RMode) (sat : Bool) (g : BitVec 24) (a0 b0 a1 b1 c : FV) : FRes :=
  let p := mulXV a0 b0
  let p' := mulXV a1 b1
  let fl := if c.snan then fNV else 0
  let r := sumXV mode [p.1, p'.1, c.toXV]
  f.round mode sat g (p.2 ||| p'.2 ||| fl ||| r.2) r.1

/-- The bits of working precision beyond the fraction that keep every rounding boundary of R41 and R45 exact. -/
def extraBits : Nat := 24

/-- n / d as a dyadic value whose last bit stands for a non-zero rest. -/
def quotDy (n : Nat) (d : Nat) (prec : Nat) : Nat × Int :=
  let k := prec + Nat.log2 d + 1
  let q := n * 2 ^ k / d
  let rest := n * 2 ^ k % d
  (2 * q + (if rest = 0 then 0 else 1), -(k : Int) - 1)

/-- a / b (R153, R154). -/
def FFmt.div (f : FFmt) (mode : RMode) (sat : Bool) (g : BitVec 24) (a b : FV) : FRes :=
  let fl := if a.snan || b.snan then fNV else 0
  match a, b with
  | .nan _, _ => f.nanRes fl g
  | _, .nan _ => f.nanRes fl g
  | .inf _, .inf _ => f.nanRes (fl ||| fNV) g
  | .inf n, .fin n' _ _ => f.infRes sat (n != n') fl g
  | .fin n _ _, .inf n' => { bits := f.signBit (n != n'), flags := fl, g := g }
  | .fin n m e, .fin n' m' e' =>
    if m' = 0 then
      if m = 0 then f.nanRes (fl ||| fNV) g else f.infRes sat (n != n') (fl ||| fDZ) g
    else if m = 0 then { bits := f.signBit (n != n'), flags := fl, g := g }
    else
      let q := quotDy m m' (f.fbits + extraBits)
      f.roundFin mode sat g (n != n') q.1 (q.2 + e - e')

/-- The integer square root of n by bits, from bit `k` down. -/
def isqrtBits : Nat → Nat → Nat → Nat
  | 0, r, n => if (r + 1) * (r + 1) ≤ n then r + 1 else r
  | k + 1, r, n => isqrtBits k (if (r + 2 ^ (k + 1)) * (r + 2 ^ (k + 1)) ≤ n then r + 2 ^ (k + 1) else r) n

/-- The largest r with r × r ≤ n. -/
def isqrt (n : Nat) : Nat := isqrtBits (Nat.log2 n / 2 + 1) 0 n

/-- √(m × 2^e) as a dyadic value whose last bit stands for a non-zero rest. -/
def sqrtDy (m : Nat) (e : Int) (prec : Nat) : Nat × Int :=
  let m1 := if e % 2 = 0 then m else 2 * m
  let e1 := if e % 2 = 0 then e else e - 1
  let n := m1 * 2 ^ (2 * prec)
  let r := isqrt n
  (2 * r + (if r * r = n then 0 else 1), e1 / 2 - prec - 1)

/-- √a (R153, R154). -/
def FFmt.sqrt (f : FFmt) (mode : RMode) (sat : Bool) (g : BitVec 24) (a : FV) : FRes :=
  match a with
  | .nan s => f.nanRes (if s then fNV else 0) g
  | .inf n => if n then f.nanRes fNV g else f.infRes sat false 0 g
  | .fin n m e =>
    if m = 0 then { bits := f.signBit n, flags := 0, g := g }
    else if n then f.nanRes fNV g
    else
      let r := sqrtDy m e (f.fbits + extraBits)
      f.roundFin mode sat g false r.1 r.2

/-- The value one. -/
def FV.one : FV := .fin false 1 0

/-- 1 / √a (R155). -/
def FFmt.rsqrt (f : FFmt) (mode : RMode) (sat : Bool) (g : BitVec 24) (a : FV) : FRes :=
  match a with
  | .nan s => f.nanRes (if s then fNV else 0) g
  | .inf n => if n then f.nanRes fNV g else { bits := 0, flags := 0, g := g }
  | .fin n m e =>
    if m = 0 then f.infRes sat n fDZ g
    else if n then f.nanRes fNV g
    else
      -- 1/√(m·2^e): with e even after a shift, √(2^(2k)/m) × 2^(-e/2)
      let m1 := if e % 2 = 0 then m else 2 * m
      let e1 := if e % 2 = 0 then e else e - 1
      let k := f.fbits + extraBits + Nat.log2 m1 / 2 + 1
      let r := isqrt (2 ^ (2 * k) / m1)
      let exact := r * r * m1 = 2 ^ (2 * k)
      f.roundFin mode sat g false (2 * r + (if exact then 0 else 1)) (-(k : Int) - 1 - e1 / 2)

/-- FDIVA: a times the rounded reciprocal of b, with the flags of both steps (R153, R154). -/
def FFmt.diva (f : FFmt) (mode : RMode) (sat : Bool) (g : BitVec 24) (a b : FV) : FRes :=
  let r := f.div .rn false g FV.one b
  let s := f.mul mode sat g a (f.unpack r.bits)
  { s with flags := s.flags ||| r.flags }

/-- The value as a whole number of units of 2^0, rounded (R44, R153). -/
def roundInt (mode : RMode) (g : BitVec 24) (neg : Bool) (m : Nat) (e : Int) : Nat × Bool × BitVec 24 :=
  let u := unitsOf m e 0
  let inexact := decide (u.rem ≠ 0)
  let draws := decide (mode = .sr) && inexact
  (u.pick mode neg (if draws then srDraw g else 0), inexact, if draws then srAdvance 16 g else g)

/-- FRND: a rounded to an integral value of its format; under SR a chosen 0 for a non-zero value is tiny and underflows
(R39, R45, R153, R154); sat clamps an infinity as R43 has it (log entry 70). -/
def FFmt.rnd (f : FFmt) (mode : RMode) (sat : Bool) (g : BitVec 24) (a : FV) : FRes :=
  match a with
  | .nan s => f.nanRes (if s then fNV else 0) g
  | .inf n => f.infRes sat n 0 g
  | .fin n m e =>
    let r := roundInt mode g n m e
    let v := f.roundFin .rn sat g n r.1 0
    let tiny := mode == .sr && r.2.1 && r.1 == 0
    { bits := v.bits, flags := (if r.2.1 then fNX else 0) ||| (if tiny then fUF else 0) ||| v.flags, g := r.2.2 }

/-- FSCALE: a × 2^b (R153, R154). -/
def FFmt.scale (f : FFmt) (mode : RMode) (sat : Bool) (g : BitVec 24) (a : FV) (b : Int) : FRes :=
  match a with
  | .nan s => f.nanRes (if s then fNV else 0) g
  | .inf n => f.infRes sat n 0 g
  | .fin n m e =>
    -- beyond these exponents every further factor gives the same rounded result
    let lim : Int := 20000
    let b' := if b > lim then lim else if b < -lim then -lim else b
    f.roundFin mode sat g n m (e + b')

/-- FFRC: a - trunc(a), exact, with the sign of a (R153, R154). -/
def FFmt.frc (f : FFmt) (g : BitVec 24) (a : FV) : FRes :=
  match a with
  | .nan s => f.nanRes (if s then fNV else 0) g
  | .inf _ => f.nanRes fNV g
  | .fin n m e =>
    let u := unitsOf m e 0
    if u.rem = 0 then { bits := f.signBit n, flags := 0, g := g }
    else f.roundFin .rn false g n u.rem e

/-- How two values compare: less, equal, greater, unordered (R156). -/
inductive Cmp where
  | lt | eq | gt | un
  deriving DecidableEq, Repr

/-- The sign and size of a finite value as an integer multiple of 2^q. -/
def signedUnits (neg : Bool) (m : Nat) (e q : Int) : Int :=
  let v : Int := m * 2 ^ (e - q).toNat
  if neg then -v else v

/-- Comparison of two values; -0 equals +0 (R37, R156). -/
def cmpFV (a b : FV) : Cmp :=
  match a, b with
  | .nan _, _ => .un
  | _, .nan _ => .un
  | .inf n, .inf n' => if n = n' then .eq else if n then .lt else .gt
  | .inf n, .fin _ _ _ => if n then .lt else .gt
  | .fin _ _ _, .inf n => if n then .gt else .lt
  | .fin n m e, .fin n' m' e' =>
    let q := min e e'
    let x := signedUnits n m e q
    let y := signedUnits n' m' e' q
    if x < y then .lt else if x = y then .eq else .gt

/-- FMIN (smaller) and FMAX of two encodings: -0 below +0, one NaN gives way, two give the canonical NaN (R156). -/
def FFmt.minmax (f : FFmt) (wantMax : Bool) (x y : Nat) : Nat × Flags :=
  let a := f.unpack x
  let b := f.unpack y
  let fl := if a.snan || b.snan then fNV else 0
  match a, b with
  | .nan _, .nan _ => (f.canonNaN, fl)
  | .nan _, _ => (y, fl)
  | _, .nan _ => (x, fl)
  | _, _ =>
    match cmpFV a b with
    | .lt => (if wantMax then y else x, fl)
    | .gt => (if wantMax then x else y, fl)
    | _ =>
      let xneg := x / 2 ^ (f.ebits + f.fbits) % 2 = 1
      (if xneg = wantMax then y else x, fl)

/-- FCLASS's 10-bit mask (R156). -/
def FFmt.classify (f : FFmt) (x : Nat) : Nat :=
  match f.unpack x with
  | .nan s => if s then 2 ^ 8 else 2 ^ 9
  | .inf n => if n then 2 ^ 0 else 2 ^ 7
  | .fin n m e =>
    if m = 0 then (if n then 2 ^ 3 else 2 ^ 4)
    else if topExp m e < f.emin then (if n then 2 ^ 2 else 2 ^ 5)
    else if n then 2 ^ 1 else 2 ^ 6

/-- Conversion between float formats; the same format returns the operand, with a NaN made canonical (R44, R157) and, under
sat, an infinity clamped as R43 has it (log entry 70). -/
def convertF (src dst : FFmt) (mode : RMode) (sat : Bool) (g : BitVec 24) (x : Nat) : FRes :=
  match src.unpack x with
  | .nan s => dst.nanRes (if s then fNV else 0) g
  | .inf n => dst.infRes sat n 0 g
  | v => if src = dst then { bits := x, flags := 0, g := g } else dst.round mode sat g 0 v.toXV

/-- Conversion of an exact integer (R44). -/
def FFmt.ofInt (f : FFmt) (mode : RMode) (sat : Bool) (g : BitVec 24) (n : Int) : FRes :=
  f.roundFin mode sat g (decide (n < 0)) n.natAbs 0

/-- Conversion of a value to an integer in [lo, hi] (R44). -/
def toIntRange (mode : RMode) (g : BitVec 24) (lo hi : Int) (v : FV) : Int × Flags × BitVec 24 :=
  match v with
  | .nan _ => (0, fNV, g)
  | .inf n => (if n then lo else hi, fNV, g)
  | .fin n m e =>
    let r := roundInt mode g n m e
    let x : Int := if n then -(r.1 : Int) else r.1
    if x < lo then (lo, fNV, r.2.2)
    else if x > hi then (hi, fNV, r.2.2)
    else (x, if r.2.1 then fNX else 0, r.2.2)

/-- The prefix's sign modifiers on an encoding: absolute value, then negation (R38, R69). -/
def FFmt.modify (f : FFmt) (abs neg : Bool) (x : Nat) : Nat :=
  let s := 2 ^ (f.ebits + f.fbits)
  let x1 := if abs then x % s else x
  if neg then (if x1 / s % 2 = 1 then x1 - s else x1 + s) else x1

/-- FSGN: the magnitude of a with the sign of b, a NaN bit for bit (R154). -/
def FFmt.sgn (f : FFmt) (x y : Nat) : Nat :=
  let s := 2 ^ (f.ebits + f.fbits)
  x % s + (y / s % 2) * s

end Sys2Proof.Machine
end

