-- ==== Sys2Proof/Syntax.lean ====
section
/-! DEFINITION. The instructions and the device steps of the Kilne package: one constructor of `Instr` per row of
spec/opcode_table.json. A strand instruction carries the prefix word before it, if there is one (R70). -/

namespace Sys2Proof

/-- The fields of a prefix word (R69). -/
structure Pfx where
  mask : BitVec 5
  rm : BitVec 3
  c : Reg
  z : Bool
  sat : Bool
  mod : BitVec 3
  xl : BitVec 4
  deriving DecidableEq, Repr

/-- Format A below the opcode (R63). -/
structure FmtA where
  fn : BitVec 3
  d : Reg
  a : Reg
  b : Reg
  deriving DecidableEq, Repr

/-- Format B below the opcode (R63). -/
structure FmtB where
  d : Reg
  a : Reg
  imm : BitVec 10
  deriving DecidableEq, Repr

/-- Format BC of CMPI and SETCCI (R63). -/
structure FmtBC where
  d : Reg
  a : Reg
  cond : BitVec 3
  imm : BitVec 7
  deriving DecidableEq, Repr

/-- Format BC of BFEI and BFII (R63). -/
structure FmtBF where
  d : Reg
  a : Reg
  pos : BitVec 5
  len : BitVec 5
  deriving DecidableEq, Repr

/-- Format U below the opcode (R63). -/
structure FmtU where
  d : Reg
  imm : BitVec 17
  deriving DecidableEq, Repr

/-- Format J below the opcode (R63). -/
structure FmtJ where
  fn : BitVec 3
  a : Reg
  off : BitVec 14
  deriving DecidableEq, Repr

/-- Format L below the opcode (R63). -/
structure FmtL where
  off : BitVec 24
  deriving DecidableEq, Repr

/-- Format M below the opcode (R63). -/
structure FmtM where
  w : BitVec 3
  d : Reg
  a : Reg
  off : BitVec 7
  deriving DecidableEq, Repr

/-- A cluster by die and logical number (R123, R189). -/
structure ClusterRef where
  die : Nat
  cluster : Nat
  deriving DecidableEq, Repr

/-- A quadrant of a cluster (R2, R424). -/
structure QuadRef where
  die : Nat
  cluster : Nat
  quad : Nat
  deriving DecidableEq, Repr

/-- A function of the package's PCIe ports: the physical one or a virtual device's (R383). -/
inductive Func where
  | pf
  | vf (vd : Nat)
  deriving DecidableEq, Repr

/-- The page of a ring's tail in a function's address range (R183, R419). -/
structure NotifyPage where
  func : Func
  ring : Nat
  deriving DecidableEq, Repr

/-- A queue block of the register maps (R423, R424). -/
inductive QueueRef where
  | errq (vd : Nat)
  | faultq (vd : Nat)
  | s2faultq
  | syslog
  deriving DecidableEq, Repr

/-- What an access wants of a translation (R216, R369). -/
inductive Access where
  | read
  | write
  | fetch
  deriving DecidableEq, Repr

/-- A ring descriptor as the host driver writes it (R181). -/
structure RingDesc where
  base : Dword
  logsize : BitVec 8
  prio : BitVec 8
  ctx : BitVec 16
  ctl : BitVec 8
  rsv : BitVec 152
  deriving DecidableEq, Repr

/-- A page-table walk that ends: whose translation, of which address, for which access (R214). -/
structure WalkReq where
  cl : ClusterRef
  cid : Cid
  va : Dword
  access : Access
  deriving DecidableEq, Repr

/-- An ATS Translation Completion (R221). -/
structure AtsReply where
  die : Nat
  vd : Nat
  pasid : BitVec 20
  page : Dword
  frame : Dword
  r : Bool
  w : Bool
  x : Bool
  deriving DecidableEq, Repr

/-- A PRI Page Request Group response (R222, R223). -/
inductive PriResult where
  | success
  | invalidRequest
  | failure
  deriving DecidableEq, Repr

/-- A PRI response for one page, PASID and access kind (R406). -/
structure PriReply where
  vd : Nat
  pasid : BitVec 20
  page : Dword
  access : Access
  result : PriResult
  deriving DecidableEq, Repr

/-- An invalidation command (R215). -/
structure InvCmd where
  addr : Dword
  pages : BitVec 32
  ctx : BitVec 16
  stage : BitVec 8
  rsv : BitVec 8
  deriving DecidableEq, Repr

/-- A host access of the coherent window through BAR2 of a function (R225). -/
structure WindowAccess where
  func : Func
  offset : Nat
  size : Nat
  write : Option Dword
  deriving DecidableEq, Repr

/-- Where data enters the package (R281). -/
inductive IngressPort where
  | pcie
  | cxl
  | link
  deriving DecidableEq, Repr

/-- The store that ingress data is for (R281). -/
inductive Space where
  | device
  | tier2
  | host
  | window
  deriving DecidableEq, Repr

/-- Data arriving at an ingress port; a line from a link may carry its sender's check value, and a
second delivery stands ready if the first fails its check (R281, R282). A migration or a restoration
that rewrites a frame from an image says so: its whole lines overwrite poison (R286). -/
structure Ingress where
  port : IngressPort
  space : Space
  cid : Cid
  addr : Nat
  bytes : List Byte
  poisoned : Bool
  check : Option Word
  again : List Byte
  rewrite : Bool
  deriving DecidableEq, Repr

/-- The fields of a context command below its op (R425). -/
structure CtxCmd where
  ctx : BitVec 11
  motif : Word
  strand : Word
  rsv : Bool
  deriving DecidableEq, Repr

/-- A Feltor packet: the header flit of R411 and its payload bytes. -/
structure Packet where
  cid : Cid
  dest : BitVec 12
  vc : BitVec 2
  cls : Bool
  destRsv : Bool
  src : BitVec 12
  srcRsv : BitVec 4
  op : BitVec 8
  nlines : BitVec 4
  size : BitVec 4
  addr : Dword
  rtag : Word
  tags : BitVec 32
  checks : List Word
  cut : BitVec 8
  aop : BitVec 8
  status : BitVec 16
  hcrc : Word
  payload : List Byte
  deriving DecidableEq, Repr

/-- The restore command of a virtual device (R423, R459). -/
structure RestoreCmd where
  img : Dword
  imgkind : BitVec 8
  ctx : BitVec 11
  cutid : Word
  rsv : Bool
  deriving DecidableEq, Repr

/-- What another chip confirms of its restore command (R459). -/
structure ConfirmOne where
  vchip : Nat
  cutid : Nat
  present : Bool
  deriving DecidableEq, Repr

/-- The CTRL packets that end rststat state 1: one confirmation per other chip (R459). -/
structure Confirm where
  chips : List ConfirmOne
  deriving DecidableEq, Repr

/-- A firmware image as each die controller finds it: the header fields of R427 and the results of
the external algorithms (ECDSA P-384, SHA-384, LMS), one entry of the three lists per die. -/
structure FwVerdict where
  magic : Word
  svn : Word
  length : Word
  slot : BitVec 8
  rsvZero : Bool
  keyDigest : BitVec 384
  ecdsaOk : List Bool
  lmsOk : List Bool
  bodyOk : List Bool
  deriving DecidableEq, Repr

/-- Words that are no instruction of their stream, with the prefix that precedes them (R77 to R79). -/
structure BadWord where
  sequencer : Bool
  pre : Option Word
  word : Word
  deriving DecidableEq, Repr

/-- One request waiting at an arbiter: its device and its cost in units (R388). -/
structure ArbReq where
  vd : Nat
  units : Nat
  deriving DecidableEq, Repr

/-- One constructor per row of the opcode table (R62 to R79 for the words; the 98 device steps by the rule each names). -/
inductive Instr where
  /-- ADD (R93): Integer add of a and b, per element, wrapping or saturating by type. -/
  | add (p : Option Pfx) (w : FmtA)
  /-- SUB (R93): Integer subtract b from a, per element. -/
  | sub (p : Option Pfx) (w : FmtA)
  /-- MUL (R93): Low bits of the integer product a × b. -/
  | mul (p : Option Pfx) (w : FmtA)
  /-- MULH (R93): High bits of the exact 2n-bit product. -/
  | mulh (p : Option Pfx) (w : FmtA)
  /-- MAD (R93): Low bits of a × b + c. -/
  | mad (p : Option Pfx) (w : FmtA)
  /-- DIV (R93): Integer division truncated toward zero, with fixed results for zero and overflow. -/
  | div (p : Option Pfx) (w : FmtA)
  /-- REM (R93): Integer remainder with the sign of a. -/
  | rem (p : Option Pfx) (w : FmtA)
  /-- MIN (R93): Smaller of a and b by the type. -/
  | min (p : Option Pfx) (w : FmtA)
  /-- MAX (R93): Larger of a and b by the type. -/
  | max (p : Option Pfx) (w : FmtA)
  /-- ABSD (R93): Absolute difference of a and b as an unsigned value. -/
  | absd (p : Option Pfx) (w : FmtA)
  /-- AND (R93): Bitwise AND. -/
  | and (p : Option Pfx) (w : FmtA)
  /-- OR (R93): Bitwise OR. -/
  | or (p : Option Pfx) (w : FmtA)
  /-- XOR (R93): Bitwise XOR. -/
  | xor (p : Option Pfx) (w : FmtA)
  /-- ANDN (R93): a AND NOT b. -/
  | andn (p : Option Pfx) (w : FmtA)
  /-- SHL (R93): Shift left by the whole unsigned count. -/
  | shl (p : Option Pfx) (w : FmtA)
  /-- SHR (R93): Shift right with zero fill. -/
  | shr (p : Option Pfx) (w : FmtA)
  /-- SRA (R93): Shift right with sign fill. -/
  | sra (p : Option Pfx) (w : FmtA)
  /-- ROTL (R93): Rotate left by b mod n. -/
  | rotl (p : Option Pfx) (w : FmtA)
  /-- CLZ (R94): Count leading zero bits. -/
  | clz (p : Option Pfx) (w : FmtA)
  /-- POPC (R94): Count one bits. -/
  | popc (p : Option Pfx) (w : FmtA)
  /-- BREV (R94): Reverse the bit order. -/
  | brev (p : Option Pfx) (w : FmtA)
  /-- BFE (R95): Extract a bit field with position and length from b. -/
  | bfe (p : Option Pfx) (w : FmtA)
  /-- BFI (R96): Insert low bits of b into a at position and length from c. -/
  | bfi (p : Option Pfx) (w : FmtA)
  /-- SEL (R97): Select a when c is non-zero, else b. -/
  | sel (p : Option Pfx) (w : FmtA)
  /-- CMP (R98): Three-way compare writing −1, 0 or +1. -/
  | cmp (p : Option Pfx) (w : FmtA)
  /-- SETCC (R99): Write 1 when the condition between a and b holds, else 0. -/
  | setcc (p : Option Pfx) (w : FmtA)
  /-- LEA (R100): Form a scaled 64-bit address a + (b << fn). -/
  | lea (p : Option Pfx) (w : FmtA)
  /-- MOV (R101): Copy a register or pair, broadcasting a scalar to active lanes. -/
  | mov (p : Option Pfx) (w : FmtA)
  /-- READLANE (R102): Read one lane's vector register into a scalar. -/
  | readlane (p : Option Pfx) (w : FmtA)
  /-- WRITELANE (R102): Write a scalar into one lane's vector register. -/
  | writelane (p : Option Pfx) (w : FmtA)
  /-- PRMT (R103): Build d byte by byte from the bytes of a and b under selector c. -/
  | prmt (p : Option Pfx) (w : FmtA)
  /-- DOT4 (R104): Packed integer dot product plus c. -/
  | dot4 (p : Option Pfx) (w : FmtA)
  /-- ADDI (R105): Add a signed immediate. -/
  | addi (p : Option Pfx) (w : FmtB)
  /-- MULI (R105): Multiply by a signed immediate. -/
  | muli (p : Option Pfx) (w : FmtB)
  /-- ANDI (R105): AND with a sign-extended immediate. -/
  | andi (p : Option Pfx) (w : FmtB)
  /-- ORI (R105): OR with a sign-extended immediate. -/
  | ori (p : Option Pfx) (w : FmtB)
  /-- XORI (R105): XOR with a sign-extended immediate. -/
  | xori (p : Option Pfx) (w : FmtB)
  /-- SHLI (R105): Shift left by an unsigned immediate. -/
  | shli (p : Option Pfx) (w : FmtB)
  /-- SHRI (R105): Shift right with zero fill by an immediate. -/
  | shri (p : Option Pfx) (w : FmtB)
  /-- SRAI (R105): Shift right with sign fill by an immediate. -/
  | srai (p : Option Pfx) (w : FmtB)
  /-- CMPI (R106): Compare with imm7 under cond, writing all ones or 0. -/
  | cmpi (p : Option Pfx) (w : FmtBC)
  /-- MINI (R105): Signed minimum with an immediate. -/
  | mini (p : Option Pfx) (w : FmtB)
  /-- MAXI (R105): Signed maximum with an immediate. -/
  | maxi (p : Option Pfx) (w : FmtB)
  /-- LUI (R108): Load imm17 << 15 into d. -/
  | lui (p : Option Pfx) (w : FmtU)
  /-- LLO (R108): Replace the low 15 bits of d with the immediate. -/
  | llo (p : Option Pfx) (w : FmtU)
  /-- LUIH (R108): Load imm17 << 15 into the odd register of pair d. -/
  | luih (p : Option Pfx) (w : FmtU)
  /-- MOVS (R122): Read a special register. -/
  | movs (p : Option Pfx) (w : FmtU)
  /-- MOVSW (R122): Write a special register from a scalar. -/
  | movsw (p : Option Pfx) (w : FmtU)
  /-- WINDOW (R19): Set the strand's vector register window base. -/
  | window (p : Option Pfx) (w : FmtB)
  /-- FLI (R108): Load a binary16 immediate converted exactly to .f32 or .f64. -/
  | fli (p : Option Pfx) (w : FmtU)
  /-- MOVI (R108): Load a sign-extended 17-bit immediate. -/
  | movi (p : Option Pfx) (w : FmtU)
  /-- BFEI (R107): Extract a bit field at immediate position and length. -/
  | bfei (p : Option Pfx) (w : FmtBF)
  /-- BFII (R107): Insert low bits of a into d at immediate position and length. -/
  | bfii (p : Option Pfx) (w : FmtBF)
  /-- ROTLI (R105): Rotate left by an immediate mod 32. -/
  | rotli (p : Option Pfx) (w : FmtB)
  /-- ADDIP (R105): Add a signed immediate to a pair modulo 2^64. -/
  | addip (p : Option Pfx) (w : FmtB)
  /-- SETCCI (R106): Compare with imm7 under cond, writing 1 or 0. -/
  | setcci (p : Option Pfx) (w : FmtBC)
  /-- MULW (R109): Exact 64-bit product of two 32-bit registers. -/
  | mulw (p : Option Pfx) (w : FmtA)
  /-- MADW (R109): 64-bit a × b plus pair c. -/
  | madw (p : Option Pfx) (w : FmtA)
  /-- ADDP (R109): Add an extended 32-bit value to a pair. -/
  | addp (p : Option Pfx) (w : FmtA)
  /-- SHLP (R105): Shift a pair left by an immediate. -/
  | shlp (p : Option Pfx) (w : FmtB)
  /-- SHRP (R105): Shift a pair right with zero fill by an immediate. -/
  | shrp (p : Option Pfx) (w : FmtB)
  /-- BRA (R112): Uniform branch of the whole slot on a scalar condition. -/
  | bra (p : Option Pfx) (w : FmtJ)
  /-- BDIV (R169): Divergent branch splitting the slot by a per-lane condition. -/
  | bdiv (p : Option Pfx) (w : FmtJ)
  /-- JOIN (R136): Wait at a join word and merge slots once the rejoin triple is covered. -/
  | join (p : Option Pfx) (w : FmtA)
  /-- CALL (R114): Write the link pair and branch to a PC-relative target. -/
  | call (p : Option Pfx) (w : FmtL)
  /-- CALLI (R114): Write the named link pair and jump to a register target. -/
  | calli (p : Option Pfx) (w : FmtA)
  /-- RET (R114): Jump to the address in a pair. -/
  | ret (p : Option Pfx) (w : FmtA)
  /-- JMPI (R114): Indirect jump; with a vector pair it splits the slot per distinct target (R170). -/
  | jmpi (p : Option Pfx) (w : FmtA)
  /-- EXIT (R115): End every active lane. -/
  | exit (p : Option Pfx) (w : FmtA)
  /-- YIELD (R116): Move the strand to the back of its quadrant's order list. -/
  | yield (p : Option Pfx) (w : FmtA)
  /-- NOP (R116): Advance the PC only. -/
  | nop (p : Option Pfx) (w : FmtA)
  /-- BAR (R173): Arrive at a numbered barrier, waiting for phase completion in the sync form. -/
  | bar (p : Option Pfx) (w : FmtB)
  /-- BOARR (R176): Arrive on a scratchpad barrier object, returning its phase. -/
  | boarr (p : Option Pfx) (w : FmtA)
  /-- BOWAIT (R176): Wait on a barrier object until its phase differs from the token. -/
  | bowait (p : Option Pfx) (w : FmtA)
  /-- TLWAIT (R315): Wait until a timeline counter's done reaches a value, then acquire. -/
  | tlwait (p : Option Pfx) (w : FmtA)
  /-- TRAP (R118): Enter the handler with cause 5. -/
  | trap (p : Option Pfx) (w : FmtU)
  /-- BRK (R118): Enter the handler with cause 8, or halt for the debugger under interception. -/
  | brk (p : Option Pfx) (w : FmtU)
  /-- RFT (R33): Return from the handler to trappc in user mode. -/
  | rft (p : Option Pfx) (w : FmtA)
  /-- QCLOSE (R178): Close the queue bound to an output queue register. -/
  | qclose (p : Option Pfx) (w : FmtA)
  /-- QSTAT (R179): Read last-pop count or queue state into a scalar. -/
  | qstat (p : Option Pfx) (w : FmtA)
  /-- GETPC (R117): Write a PC-relative address into a pair. -/
  | getpc (p : Option Pfx) (w : FmtB)
  /-- LOOP (R113): Decrement a count scalar and branch while non-zero. -/
  | loop (p : Option Pfx) (w : FmtJ)
  /-- SVC (R118): Enter the handler with cause 6. -/
  | svc (p : Option Pfx) (w : FmtU)
  /-- EVWAIT (R121): Wait for or poll pending events and clear those returned. -/
  | evwait (p : Option Pfx) (w : FmtA)
  /-- QTRY (R180): Pop from an input queue without waiting. -/
  | qtry (p : Option Pfx) (w : FmtA)
  /-- BOINIT (R176): Initialise a barrier object and wake its waiters. -/
  | boinit (p : Option Pfx) (w : FmtA)
  /-- FADD (R153): Floating add. -/
  | fadd (p : Option Pfx) (w : FmtA)
  /-- FSUB (R153): Floating subtract. -/
  | fsub (p : Option Pfx) (w : FmtA)
  /-- FMUL (R153): Floating multiply. -/
  | fmul (p : Option Pfx) (w : FmtA)
  /-- FFMA (R153): Fused multiply-add with one rounding. -/
  | ffma (p : Option Pfx) (w : FmtA)
  /-- FMIN (R156): Floating minimum. -/
  | fmin (p : Option Pfx) (w : FmtA)
  /-- FMAX (R156): Floating maximum. -/
  | fmax (p : Option Pfx) (w : FmtA)
  /-- FCMP (R156): Floating three-way compare with unordered code. -/
  | fcmp (p : Option Pfx) (w : FmtA)
  /-- FSETCC (R156): Floating condition test writing all ones or 0. -/
  | fsetcc (p : Option Pfx) (w : FmtA)
  /-- FDIV (R153): Floating divide. -/
  | fdiv (p : Option Pfx) (w : FmtA)
  /-- FSQRT (R153): Floating square root. -/
  | fsqrt (p : Option Pfx) (w : FmtA)
  /-- FRCP (R155): Correctly rounded reciprocal. -/
  | frcp (p : Option Pfx) (w : FmtA)
  /-- FRSQ (R155): Correctly rounded reciprocal square root. -/
  | frsq (p : Option Pfx) (w : FmtA)
  /-- FEXP2 (R155): Correctly rounded 2^a. -/
  | fexp2 (p : Option Pfx) (w : FmtA)
  /-- FLOG2 (R155): Correctly rounded log2 a. -/
  | flog2 (p : Option Pfx) (w : FmtA)
  /-- FSIN (R155): Correctly rounded sin(π a). -/
  | fsin (p : Option Pfx) (w : FmtA)
  /-- FCOS (R155): Correctly rounded cos(π a). -/
  | fcos (p : Option Pfx) (w : FmtA)
  /-- FTANH (R155): Correctly rounded tanh a. -/
  | ftanh (p : Option Pfx) (w : FmtA)
  /-- FCLASS (R156): Write a one-hot class mask of a. -/
  | fclass (p : Option Pfx) (w : FmtA)
  /-- FCVT (R157): Convert one element between float formats. -/
  | fcvt (p : Option Pfx) (w : FmtA)
  /-- ICVT (R158): Convert between integer and float formats. -/
  | icvt (p : Option Pfx) (w : FmtA)
  /-- FPACK (R159): Narrow two sources into one packed register. -/
  | fpack (p : Option Pfx) (w : FmtA)
  /-- FUNPK (R160): Widen packed elements into a pair. -/
  | funpk (p : Option Pfx) (w : FmtA)
  /-- QNT (R161): Quantise each beat as one block under the native scale rule. -/
  | qnt (p : Option Pfx) (w : FmtA)
  /-- QNTC (R161): Quantise each beat as one block under the compatibility scale rule. -/
  | qntc (p : Option Pfx) (w : FmtA)
  /-- DQNT (R162): Decode a code and scale byte per lane. -/
  | dqnt (p : Option Pfx) (w : FmtA)
  /-- FDOT2 (R153): Two-element dot product plus c into .f32 with one rounding. -/
  | fdot2 (p : Option Pfx) (w : FmtA)
  /-- FRND (R153): Round to an integral value under rm. -/
  | frnd (p : Option Pfx) (w : FmtA)
  /-- FSCALE (R153): Multiply by 2^b. -/
  | fscale (p : Option Pfx) (w : FmtA)
  /-- FSGN (R153): Magnitude of a with the sign of b. -/
  | fsgn (p : Option Pfx) (w : FmtA)
  /-- FFRC (R153): Fractional part a − trunc(a). -/
  | ffrc (p : Option Pfx) (w : FmtA)
  /-- FDIVA (R153): Approximate divide via a rounded reciprocal. -/
  | fdiva (p : Option Pfx) (w : FmtA)
  /-- SHFL (R164): Move 32-bit values between lanes. -/
  | shfl (p : Option Pfx) (w : FmtA)
  /-- VOTE (R165): Test a over the active lanes. -/
  | vote (p : Option Pfx) (w : FmtA)
  /-- BALLOT (R166): Write a 96-bit image of active lanes with a non-zero into a triple. -/
  | ballot (p : Option Pfx) (w : FmtA)
  /-- REDUX (R167): Combine a over the active lanes. -/
  | redux (p : Option Pfx) (w : FmtA)
  /-- SCAN (R167): Prefix combination of a over active lanes. -/
  | scan (p : Option Pfx) (w : FmtA)
  /-- MATCH (R168): Group active lanes by equal value. -/
  | match (p : Option Pfx) (w : FmtA)
  /-- LD (R259): Load from a generic address. -/
  | ld (p : Option Pfx) (w : FmtM)
  /-- ST (R259): Store to a generic address. -/
  | st (p : Option Pfx) (w : FmtM)
  /-- LDS (R258): Load from the motif's scratchpad. -/
  | lds (p : Option Pfx) (w : FmtM)
  /-- STS (R258): Store to the motif's scratchpad. -/
  | sts (p : Option Pfx) (w : FmtM)
  /-- LDP (R260): Load from the lane's private memory. -/
  | ldp (p : Option Pfx) (w : FmtM)
  /-- STP (R260): Store to the lane's private memory. -/
  | stp (p : Option Pfx) (w : FmtM)
  /-- ATOM (R265): 32-bit atomic at a generic address returning the old value. -/
  | atom (p : Option Pfx) (w : FmtA)
  /-- ATOM64 (R265): 64-bit atomic at a generic address. -/
  | atom64 (p : Option Pfx) (w : FmtA)
  /-- RED (R264): Atomic reduction with no return value. -/
  | red (p : Option Pfx) (w : FmtA)
  /-- ATOMS (R265): 32-bit atomic in the scratchpad. -/
  | atoms (p : Option Pfx) (w : FmtA)
  /-- FENCE (R266): Order accesses at a scope; always carries a prefix. -/
  | fence (p : Option Pfx) (w : FmtA)
  /-- HFLUSH (R267): Write back device-changed host lines of a range. -/
  | hflush (p : Option Pfx) (w : FmtA)
  /-- CINV (R267): Write back and drop device copies of host lines of a range. -/
  | cinv (p : Option Pfx) (w : FmtA)
  /-- PREF (R268): Prefetch a line into L1 or L2. -/
  | pref (p : Option Pfx) (w : FmtM)
  /-- PRIVADDR (R269): Return the global alias of a private offset. -/
  | privaddr (p : Option Pfx) (w : FmtA)
  /-- CCONV (R288): Query, pack, unpack or clear the stored form of lines. -/
  | cconv (p : Option Pfx) (w : FmtA)
  /-- LDT (R262): Load one element through a tensor handle. -/
  | ldt (p : Option Pfx) (w : FmtA)
  /-- STT (R262): Store one element through a tensor handle with bound checking. -/
  | stt (p : Option Pfx) (w : FmtA)
  /-- ATOMS64 (R265): 64-bit atomic in the scratchpad. -/
  | atoms64 (p : Option Pfx) (w : FmtA)
  /-- LDK (R261): Read the record's parameter block. -/
  | ldk (p : Option Pfx) (w : FmtM)
  /-- XCOPY (R305): Streamer command copying raw bytes between handle bases. -/
  | xcopy (p : Option Pfx) (w : FmtA)
  /-- XTILE (R306): Streamer command copying a box element for element. -/
  | xtile (p : Option Pfx) (w : FmtA)
  /-- XFORM (R312): Transform-unit command applying the transform named by fn. -/
  | xform (p : Option Pfx) (w : FmtA)
  /-- XYIELD (R316): Hand the slot to a continuation once a status register is written. -/
  | xyield (p : Option Pfx) (w : FmtA)
  /-- TLREAD (R315): Read a sample of a timeline counter. -/
  | tlread (p : Option Pfx) (w : FmtA)
  /-- TLINC (R315): Number an empty command on a timeline counter. -/
  | tlinc (p : Option Pfx) (w : FmtA)
  /-- TDEF (R295): Fetch a handle entry into the cluster's handle cache. -/
  | tdef (p : Option Pfx) (w : FmtA)
  /-- TINV (R295): Drop the cached copy of one handle. -/
  | tinv (p : Option Pfx) (w : FmtA)
  /-- TINV_ALL (R295): Drop every cached handle copy of the context in this cluster. -/
  | tinvAll (p : Option Pfx) (w : FmtA)
  /-- TBND (R296): Set a handle's bounds and bound action. -/
  | tbnd (p : Option Pfx) (w : FmtA)
  /-- TSEAL (R350): Seal a handle's tensor and its leaves read-only. -/
  | tseal (p : Option Pfx) (w : FmtA)
  /-- TSTAT (R297): Read, and optionally clear, a handle's sticky state. -/
  | tstat (p : Option Pfx) (w : FmtA)
  /-- SEEDSCAN (R353): Seed-generator command searching seeds for seeded records. -/
  | seedscan (p : Option Pfx) (w : FmtA)
  /-- SEEDEXP (R355): Expand a seeded record into per-lane weights. -/
  | seedexp (p : Option Pfx) (w : FmtA)
  /-- SNAP (R455): Request a consistent cut from the coordinator. -/
  | snap (p : Option Pfx) (w : FmtA)
  /-- SNAPWAIT (R456): Wait until a cut ends on this chip and return its state. -/
  | snapwait (p : Option Pfx) (w : FmtA)
  /-- SNAPSTAT (R457): Sample a cut's state or progress. -/
  | snapstat (p : Option Pfx) (w : FmtA)
  /-- XGATH (R307): Streamer command gathering rows by an index tensor. -/
  | xgath (p : Option Pfx) (w : FmtA)
  /-- XSCAT (R307): Streamer command scattering rows by an index tensor. -/
  | xscat (p : Option Pfx) (w : FmtA)
  /-- XFILL (R308): Streamer command filling a box with one value. -/
  | xfill (p : Option Pfx) (w : FmtA)
  /-- XCANCEL (R310): Cancel uncompleted streamer commands from a number on. -/
  | xcancel (p : Option Pfx) (w : FmtA)
  /-- XSTAT (R311): Read a streamer command's progress or status. -/
  | xstat (p : Option Pfx) (w : FmtA)
  /-- MZERO (R337): Zero an accumulator tile or .f64 pair and set its mode. -/
  | mzero (w : FmtA)
  /-- MMA (R338): Accumulate K-steps of A × B into a tile. -/
  | mma (w : FmtA)
  /-- MMAS (R352): Accumulate A × seeded B into a tile. -/
  | mmas (w : FmtA)
  /-- MSTORE (R342): Store a tile through a handle, numbered on tl3. -/
  | mstore (w : FmtA)
  /-- MEPI (R341): Set the epilogue scale, bias and activation. -/
  | mepi (w : FmtA)
  /-- MLDACC (R339): Load a tile from memory through a handle. -/
  | mldacc (w : FmtA)
  /-- MSIG (R330): Sequencer arrival at a numbered barrier. -/
  | msig (w : FmtA)
  /-- MWAIT (R330): Sequencer wait for its arrival's barrier phase to complete. -/
  | mwait (w : FmtA)
  /-- KADD (R326): Add k registers. -/
  | kadd (w : FmtA)
  /-- KADDI (R326): Add a signed immediate to a k register. -/
  | kaddi (w : FmtB)
  /-- KLI (R326): Load a sign-extended immediate into a k register. -/
  | kli (w : FmtU)
  /-- KLD (R328): Sequencer load into a k register. -/
  | kld (w : FmtM)
  /-- KST (R328): Sequencer store from a k register. -/
  | kst (w : FmtM)
  /-- KBRA (R327): Branch in the sequencer stream. -/
  | kbra (w : FmtJ)
  /-- KEND (R329): End the sequencer stream. -/
  | kend (w : FmtA)
  /-- MFETCH (R336): Bring an MMA's operand lines into L2. -/
  | mfetch (w : FmtA)
  /-- MROWMAX (R340): Row maximum of a tile into one column. -/
  | mrowmax (w : FmtA)
  /-- MROWSUM (R340): Row sum of a tile into one column by a fixed tree. -/
  | mrowsum (w : FmtA)
  /-- MSCALE (R340): Scale tile rows by a column or by a uniform factor. -/
  | mscale (w : FmtA)
  /-- MCOPY (R340): Copy one tile to another. -/
  | mcopy (w : FmtA)
  /-- KSUB (R326): Subtract k registers. -/
  | ksub (w : FmtA)
  /-- KSHL (R326): Shift a k register left. -/
  | kshl (w : FmtA)
  /-- KAND (R326): AND k registers. -/
  | kand (w : FmtA)
  /-- KMUL (R326): Multiply k registers. -/
  | kmul (w : FmtA)
  /-- MWAITT (R331): Sequencer wait on a timeline counter, then acquire. -/
  | mwaitt (w : FmtA)
  /-- KOR (R326): OR k registers. -/
  | kor (w : FmtA)
  /-- MYIELD (R329): Let a pending pre-emption save the sequencer here. -/
  | myield (w : FmtA)
  /-- UNASSIGNED_OPCODE (R79): A strand-stream word that is unassigned, feature-refused, sequencer-only or a prefix followed by a prefix raises the illegal-instruction trap, and such a word in the sequencer stream raises sequencer fault 1. -/
  | unassignedOpcode (b : BadWord)
  /-- K_STEP (R338): One K-step of a queued MMA or MMAS completes in the engines, updating the tile and its flags and releasing its pinned lines. -/
  | kStep (uid : Nat)
  /-- ACCESS_PERFORMED (R228): A lane's or sequencer's load, store, atomic, HFLUSH or CINV is performed at its point of performance some time after issue, within the bound of R243. -/
  | accessPerformed (index : Nat)
  /-- TRANSLATION_WALK (R214): A page-table walk completes and the translation is cached or a fault reported. -/
  | translationWalk (w : WalkReq)
  /-- L1_REFILL (R243): An L1 copy is refilled from its home no later than 4096 cycles after fill. -/
  | l1Refill (q : QuadRef) (line : Nat)
  /-- TAIL_WRITE (R183): Host write of a ring's tail, ignored or stopping the ring when out of range. -/
  | tailWrite (page : NotifyPage) (tail : BitVec 64)
  /-- RING_ENABLE (R181): Setting a ring's enable bit, checked against the descriptor. -/
  | ringEnable (vd ring : Nat) (d : RingDesc)
  /-- RING_RESUME (R185): Writing resume restarts a stopped ring after its failed record. -/
  | ringResume (vd ring : Nat)
  /-- RECORD_CHECK (R185): The front end reads and checks a record at the ring's head, rejecting it with an error code. -/
  | recordCheck (ring : Nat)
  /-- RECORD_BEGIN (R186): A record whose waits are met begins its pattern or marker. -/
  | recordBegin (ring : Nat)
  /-- RECORD_COMPLETE (R187): A record completes, its host lines are written back and the completion value advances. -/
  | recordComplete (ring number : Nat)
  /-- HOOP_EVALUATION (R186): Every 65,536 cycles the hoop reassigns its 32 slots to pending rings. -/
  | hoopEvaluation
  /-- MOTIF_PLACEMENT (R189): The dispatcher creates a motif instance and places it on a cluster. -/
  | motifPlacement (ring number stage : Nat)
  /-- MOTIF_RETIRE (R142): A motif whose strands, stream and counters have ended releases its resources. -/
  | motifRetire (uid : Nat)
  /-- CLUSTER_SWITCH (R190): A cluster drains and loads the incoming context's state. -/
  | clusterSwitch (cl : ClusterRef) (cid : Cid)
  /-- CHUNK_PERFORMED (R303): An engine chunk's writes are performed and the committed prefix advances. -/
  | chunkPerformed (uid tl number chunk : Nat)
  /-- COMMAND_COMPLETE (R301): An engine command completes: flags merged, done updated, barrier arrival, status written. -/
  | commandComplete (uid tl number : Nat)
  /-- ATS_RESPONSE (R221): An ATS Translation Completion arrives and is cached, or triggers a PRI request. -/
  | atsResponse (r : AtsReply)
  /-- PRI_RESPONSE (R406): A PRI response ends a page-request wait with re-translation or a refused fault. -/
  | priResponse (r : PriReply)
  /-- ATS_INVALIDATION (R224): A host ATS invalidation request drops translations and host lines, then is answered. -/
  | atsInvalidation (vd : Nat) (pasid : Option (BitVec 20)) (base : BitVec 64) (size : Nat)
  /-- INVALIDATE (R215): Stage-one invalidation command written to the device's invalidation register. -/
  | invalidate (vd : Nat) (c : InvCmd)
  /-- S2_INVALIDATE (R215): Stage-two invalidation command written by the hypervisor. -/
  | s2Invalidate (vd : Nat) (c : InvCmd)
  /-- INVALIDATION_COMPLETE (R215): Once started accesses end, the invalidation count increments. -/
  | invalidationComplete (vd stage : Nat)
  /-- RESOLVE_RETRY (R370): Resolve with retry re-executes every access waiting on the faulting page. -/
  | resolveRetry (vd tag : Nat)
  /-- RESOLVE_FAIL (R370): Resolve with fail gives the context a context error with code 22. -/
  | resolveFail (vd tag : Nat)
  /-- S2_RESOLVE_RETRY (R370): Stage-two resolve with retry re-executes the waiting accesses. -/
  | s2ResolveRetry (tag : Nat)
  /-- S2_RESOLVE_FAIL (R370): Stage-two resolve with fail stops the context. -/
  | s2ResolveFail (tag : Nat)
  /-- FRAME_FORMAT (R219): fmtcmd starts reformatting a device frame to an ECC mode. -/
  | frameFormat (vd : Nat) (cmd : BitVec 64)
  /-- FRAME_FORMAT_COMPLETE (R219): The format finishes, records the mode and releases waiting accesses. -/
  | frameFormatComplete (vd : Nat)
  /-- HOST_WINDOW_ACCESS (R225): A host read or write of the coherent window SRAM. -/
  | hostWindowAccess (a : WindowAccess)
  /-- INGRESS_DATA (R281): Data arriving from PCIe, CXL or a link gets its check value formed at ingress. -/
  | ingressData (d : Ingress)
  /-- EVTIMER_EXPIRY (R120): wallclock reaches a strand's evtimer and sets TMR. -/
  | evtimerExpiry (uid strand : Nat)
  /-- SIGNAL (R423): Writing the signal register sets HSIG in every strand of a context. -/
  | signal (vd : Nat) (v : BitVec 32)
  /-- CTX_HALT (R425): Context command halting named strands for the debugger. -/
  | ctxHalt (vd : Nat) (c : CtxCmd)
  /-- CTX_RESUME (R425): Context command resuming halted strands. -/
  | ctxResume (vd : Nat) (c : CtxCmd)
  /-- CTX_PREEMPT (R425): Context command pre-empting the motifs of named strands. -/
  | ctxPreempt (vd : Nat) (c : CtxCmd)
  /-- CTX_TEARDOWN (R425): Context command stopping and freeing a context. -/
  | ctxTeardown (vd : Nat) (c : CtxCmd)
  /-- STOP_DEADLINE_EXPIRY (R374): A strand not at a blocking point by the deadline is stopped at the next boundary. -/
  | stopDeadlineExpiry (uid strand : Nat)
  /-- DRAIN_LIMIT_EXPIRY (R376): At drainlim the motif's remaining engine commands are squashed. -/
  | drainLimitExpiry (uid : Nat)
  /-- MOTIF_SAVE (R378): A stopped and drained motif is written to its save slot and freed. -/
  | motifSave (uid : Nat)
  /-- MOTIF_RESTORE (R381): A saved motif is placed, loaded, its faults retried and commands reissued. -/
  | motifRestore (vd ctx slot : Nat)
  /-- SLICE_EXPIRY (R399): A cluster's slice counter reaches vslice and the cluster may switch context. -/
  | sliceExpiry (cl : ClusterRef)
  /-- ENERGY_TICK (R396): Each 1 µs tick charges energy and refills each device's bucket. -/
  | energyTick
  /-- SHARE_COMMIT (R384): Commit of a staged share block, checked and applied at the next tick. -/
  | shareCommit (v : BitVec 32)
  /-- THERMAL_EVENT (R430): Junction temperature at 95 °C throttles, at 105 °C holds reset. -/
  | thermalEvent (die : Nat) (celsius : Int)
  /-- UNIT_RETIRE (R392): A failed cluster is replaced by a spare or becomes absent. -/
  | unitRetire (cl : ClusterRef)
  /-- LINK_DEGRADE (R393): A channel, port or link loses lanes or fails and offers fewer slots. -/
  | linkDegrade (kind unit lanes : Nat)
  /-- INFIELD_TEST (R403): At each interval one cluster per die is moved to a spare and scan-tested. -/
  | infieldTest (die : Nat)
  /-- SCAN_TEST_COMPLETE (R403): A tested cluster becomes a spare or is retired. -/
  | scanTestComplete (die : Nat) (pass : Bool)
  /-- MIGRATE_OUT (R400): Hypervisor command quiescing a virtual device for migration. -/
  | migrateOut (vd : Nat)
  /-- MIGRATE_IN (R400): Hypervisor command restoring a migrated virtual device. -/
  | migrateIn (vd : Nat)
  /-- RDREQ (R412): Read request packet received at its target chip. -/
  | rdreq (link : Nat) (p : Packet)
  /-- RDRSP (R412): Read response packet completing a waiting aperture load. -/
  | rdrsp (link : Nat) (p : Packet)
  /-- PUT (R412): Put packet applied at the target's L2 home. -/
  | putPacket (link : Nat) (p : Packet)
  /-- PUTACK (R412): Put acknowledgement received by the sender. -/
  | putack (link : Nat) (p : Packet)
  /-- ATOM_PACKET (R412): Atomic request packet performed at the target's home. -/
  | atomPacket (link : Nat) (p : Packet)
  /-- ATOMRSP (R412): Atomic response packet returning the old value. -/
  | atomrsp (link : Nat) (p : Packet)
  /-- RED_PACKET (R412): Reduction packet performed at the target's home. -/
  | redPacket (link : Nat) (p : Packet)
  /-- MARKER (R448): A cut marker arrives on a channel, recording the cut if not yet recorded. -/
  | marker (link : Nat) (p : Packet)
  /-- DONE (R452): CTRL DONE counted at the coordinator. -/
  | doneCtrl (link : Nat) (p : Packet)
  /-- COMPLETE (R452): CTRL COMPLETE marks the cut complete and frees its colour. -/
  | completeCtrl (link : Nat) (p : Packet)
  /-- FAIL (R453): CTRL FAIL ends a cut's logging and images. -/
  | failCtrl (link : Nat) (p : Packet)
  /-- SNAPREQ (R455): CTRL SNAPREQ at the coordinator starts a cut or answers busy. -/
  | snapreq (link : Nat) (p : Packet)
  /-- SNAPANS (R455): CTRL SNAPANS delivers the cutid to the waiting SNAP. -/
  | snapans (link : Nat) (p : Packet)
  /-- PACKET_FORWARD (R415): A packet for another chip is queued on its outgoing link by the route table. -/
  | packetForward (link : Nat) (p : Packet)
  /-- REQUEST_TIMEOUT (R412): A request unanswered for 2^26 cycles fails with the aperture fault. -/
  | requestTimeout (rtag : Nat)
  /-- QUEUE_STALL_REPORT (R415): A router queue that moves nothing for 2^24 cycles is logged. -/
  | queueStallReport (link vc cls : Nat)
  /-- LINK_FAIL (R416): A failed link's queues move to alternate links. -/
  | linkFail (link : Nat)
  /-- LINK_TRAINING (R410): A link trains its width, FEC and stored-form acceptance. -/
  | linkTraining (link lanes : Nat) (fec stored : Bool)
  /-- FUMAROLE_STREAM (R445): The Fumarole engine writes preserved units, logs and untouched units to the image. -/
  | fumaroleStream (cid : Cid) (die : Nat)
  /-- CHIP_DONE (R451): A chip finished with a cut sends DONE to the coordinator. -/
  | chipDone (cid : Cid) (cutid : Nat)
  /-- COLOUR_FREE (R442): A cut's colour is freed once its visit and pre-cut transactions end. -/
  | colourFree (cid : Cid) (colour : Nat)
  /-- CUT_ABORT (R453): Host cut-abort command fails a cut with cause 4. -/
  | cutAbort (vd : Nat) (v : BitVec 64)
  /-- RESTORE (R459): Restore command naming an image, checked and awaiting the job's others. -/
  | restore (vd : Nat) (c : RestoreCmd)
  /-- RESTORE_CHIP (R460): Die controllers restore memory, motifs, queues and replay channel logs. -/
  | restoreChip (vd : Nat)
  /-- POWER_ON_RESET (R426): Power-on or PERST# of port 0 resets the package. -/
  | powerOnReset (v : FwVerdict)
  /-- PERST_PORT1 (R426): PERST# of port 1 resets its link and its functions. -/
  | perstPort1
  /-- PF_FLR (R426): Function-level reset of the physical function. -/
  | pfFlr
  /-- VF_FLR (R426): Function-level reset of one virtual device. -/
  | vfFlr (vd : Nat)
  /-- RECOVERY_LOAD (R427): Recovery-mode command to load and verify a firmware image. -/
  | recoveryLoad (v : FwVerdict)
  /-- FLOOR_ADVANCE (R424): floorcmd advances the fused svn floor. -/
  | floorAdvance (v : BitVec 32)
  /-- GET_MEASUREMENTS (R428): SPDM measurement request signed with ECDSA P-384. -/
  | getMeasurements (nonce : Nat)
  /-- LMS_SIGNATURE_REQUEST (R428): Vendor request returning the LMS signature of the transcript. -/
  | lmsSignatureRequest (nonce : Nat)
  /-- FEATURE_ACCEPT (R421): Write of the accepted feature vector, masked by published and allowed. -/
  | featureAccept (func : Func) (written : BitVec 256)
  /-- QUEUE_ENABLE (R423): Setting a queue block's enable zeroes head, tail and lost. -/
  | queueEnable (q : QueueRef) (ctl : BitVec 32)
  /-- WINSLICE_WRITE (R424): Assign a coherent-window slice, ignored if held by another device. -/
  | winsliceWrite (vd : Nat) (v : BitVec 32)
  /-- QUADCAP_WRITE (R424): Set a quadrant's issue cap, ignored below 8. -/
  | quadcapWrite (q : QuadRef) (v : BitVec 8)
  /-- RINGOWN_WRITE (R424): Assign a ring to a virtual device while its enable is 0. -/
  | ringownWrite (ring : Nat) (v : BitVec 8)
  /-- WAYMASK_WRITE (R205): Set a device's L2 way mask for later allocations. -/
  | waymaskWrite (vd : Nat) (v : BitVec 32)
  /-- INVCOUNT_READ (R423): Read of the invalidation count clears its ignored-command bit. -/
  | invcountRead (func : Func) (vd : Nat)
  /-- CTXSTAT_READ (R423): Read of context command status clears its error bit. -/
  | ctxstatRead (vd : Nat)
  /-- REGISTER_WRITE (R423): Write to a device or package register with no behaviour of its own. -/
  | registerWrite (func : Func) (offset : Nat) (size : Nat) (v : BitVec 64)
  /-- ARBITER_SLOT (R388): Each slot offered by an arbiter instance adds tokens to every device's share bucket, overflows excess into the lend pool and grants one funded request. -/
  | arbiterSlot (kind inst : Nat) (reqs : List ArbReq)
  /-- QUEUE_HEAD_WRITE (R369): The host driver advances a fault or error queue's head, freeing space so that faults waiting inside the device are reported. -/
  | queueHeadWrite (q : QueueRef) (head : BitVec 32)
  /-- PACKET_DROPPED (R412): A received Feltor header whose hcrc fails, or that holds a reserved op or other reserved value, is discarded with its payload and logged. -/
  | packetDropped (link : Nat) (p : Packet)
  /-- FLIT_REPLAY (R410): A flit that fails the link CRC is sent again from the sender's replay buffer so that the router receives it exactly once. -/
  | flitReplay (link : Nat)
  /-- RESTORE_CONFIRMATION (R459): CTRL packets by which the chips of a job confirm to one another that all nchips restore commands are written, ending rststat state 1. -/
  | restoreConfirmation (vd : Nat) (c : Confirm)
  deriving DecidableEq, Repr

end Sys2Proof
end

