-- ==== Sys2Proof/Machine/State.lean ====
section
/-! DEFINITION. The state of one Kilne package as plain data, the reasons a step can stop, and the state after reset.
Every register and every unit the spec names has a field here; INVENTORY.md lists them with their rules. -/

namespace Sys2Proof.Machine

/-- A sparse table: keys strictly rising, no entry equal to what an unlisted key reads as. -/
abbrev Table (α : Type) := List (Nat × α)

/-- A byte memory in the same form; an unlisted byte reads 0 (log entry 7). -/
abbrev Memory := List Host.Cell

/-- What a waiting slot, chunk or sequencer access waits for: the resolution of a reported fault, an ATS answer for
a page and PASID, or a PRI answer for a page, PASID and access (R216, R221, R222, R406). -/
inductive PageWait where
  | fault (tag : Nat)
  | ats (vd pasid page : Nat) (a : Access)
  | pri (vd pasid page : Nat) (a : Access)
  deriving DecidableEq, Repr

/-- Why a PC slot does not issue (R137). -/
inductive Wait where
  | ready
  | join (triple : Nat) (t : LaneMask) (size : Nat)
  | barrier (n : Nat)
  | object (off : Nat)
  | queue (q : Nat)
  | timeline (tl : Nat)
  | event
  | status (reg : Nat)
  | aperture
  | pages (ws : List PageWait)
  | sealing
  | snap (reg size : Nat)
  | cut (cutid : Word)
  deriving DecidableEq, Repr

/-- A PC slot: live or spilled (R131, R133); held while another slot is in the handler (R364); `released` names the
numbered barrier whose phase has ended while the slot waited there, until its BAR goes on (R173). -/
structure Slot where
  pc : Dword
  members : LaneMask
  wait : Wait
  held : Bool
  released : Option Nat := none
  deriving DecidableEq, Repr

/-- A status register that an engine command will write (R301), or the count of an XCANCEL (R310). -/
structure PendStatus where
  reg : Nat
  tl : Nat
  number : Nat
  cancel : List Nat
  deriving DecidableEq, Repr

/-- A strand (R125, R131, R379). -/
structure Strand where
  index : Nat
  place : Nat
  live : List Slot
  stack : List Slot
  turn : Nat
  sregs : Table Word
  vregs : Table Word
  mask : LaneMask
  launched : LaneMask
  ended : LaneMask
  wb : Nat
  handler : Bool
  trappc : Dword
  trapcause : Word
  trapval : Word
  frm : Word
  fflags : Word
  fexc : Word
  srseed : Word
  gens : Table (BitVec 24)
  evpend : Word
  evtimer : Dword
  armed : Bool
  lastPop : Word
  pending : List PendStatus
  halted : Bool
  stopped : Bool
  deriving DecidableEq, Repr

/-- A numbered barrier (R172): the phase counted from 0 (its bit is the phase bit), the arrivals, the expected count
once the phase has one, the strands that have arrived, and whether the sequencer has. -/
structure Barrier where
  phase : Nat
  arrivals : Nat
  expected : Option Nat
  marked : List Nat
  seqIn : Bool
  deriving DecidableEq, Repr

/-- A timeline counter (R298): done is kept as the numbers completed. -/
structure Timeline where
  issued : Nat
  done : Nat
  deriving DecidableEq, Repr

/-- The operation of an engine command (R299, R315, R353, R342). -/
inductive CmdOp where
  | xcopy | xtile | xgath | xscat | xfill
  | xform (fn : Nat)
  | tlinc
  | seedscan
  | mstore
  deriving DecidableEq, Repr

/-- One row that an MSTORE has converted and still writes (R342): pairs of address and byte. -/
structure StoreRow where
  row : Nat
  bytes : List (Dword × Byte)
  deriving DecidableEq, Repr

/-- An engine command in flight (R298 to R303): its quad, box descriptor and handle entries as read at issue, the index
elements once read, its chunks and those performed, the chunk from which none is started any more, the fault kind and
the virtual address of its error; `begun` holds the epochs in which chunks started that wait for another chip's lines
(R435). -/
structure Command where
  tl : Nat
  number : Nat
  op : CmdOp
  strand : Nat
  status : Option Nat
  object : Option Nat
  quad : List Word
  box : List Word
  handles : List (Nat × List Byte)
  rows : List StoreRow
  behind : Nat
  index : Option (List Int)
  chunks : Nat
  done : List Nat
  limit : Nat
  code : Nat
  sticky : Byte
  kind : Nat
  addr : Nat
  waits : List PageWait
  begun : List (Nat × Nat)
  cancelled : Bool
  complete : Bool
  deriving DecidableEq, Repr

/-- An accumulator tile (R319): its cells, its mode (true for half of an .f64 pair) and its flags NV, OF, UF, NX
as the five flag bits of R47. Rows and cells beyond those listed read 0. -/
structure Tile where
  rows : List (List Word)
  f64 : Bool
  flags : BitVec 5
  deriving DecidableEq, Repr

/-- Engine work that the sequencer has issued and the engines have not finished (R323): a word's operation with what
it read at issue. -/
inductive EngineOp where
  | mma (tile : Nat) (a b : Dword) (n : Nat) (step : Nat) (ea eb : List Byte) (seeded : Bool) (off : Nat)
  | mzero (tile : Nat) (pair : Bool)
  | mldacc (tile : Nat) (desc : Dword) (e : List Byte) (off : Nat)
  | rowmax (d a : Nat) (col : Nat)
  | rowsum (d a : Nat) (col : Nat)
  | scale (d a t : Nat) (col : Nat) (f : Option Word)
  | copy (d a : Nat)
  deriving DecidableEq, Repr

/-- The fault record of the sequencer (R324). -/
structure SeqFault where
  offset : Nat
  code : Nat
  detail : Word
  rows : List Nat
  deriving DecidableEq, Repr

/-- The matrix sequencer of a motif (R321), its tiles and its queued work. -/
structure Sequencer where
  pc : Nat
  k : Table Dword
  scale : Word
  act : Nat
  biasOn : Bool
  biasHandle : Nat
  borg : Nat
  tiles : List Tile
  work : List EngineOp
  opWaits : List PageWait
  arrived : List (Nat × Nat)
  wait : Bool
  waits : List PageWait
  ended : Bool
  fault : Option SeqFault
  recorded : Bool
  queued : Nat
  saveHere : Bool
  deriving DecidableEq, Repr

/-- The kernel header (R149). -/
structure Header where
  features : Nat
  allot : Nat
  strands : Nat
  producer : Nat
  scratch : Nat
  divstack : Nat
  fused : Bool
  cut : Bool
  seq : Bool
  priv : Nat
  barriers : BitVec 16
  acctiles : BitVec 4
  mstream : Nat
  mlength : Nat
  trap : Nat
  param : Nat
  seqbar : BitVec 16
  qbind : List Byte
  deriving DecidableEq, Repr

/-- A context descriptor (R208, R367). -/
structure Desc where
  sroot : Nat
  podroot : Nat
  pbase : Nat
  pslots : Nat
  pasid : Nat
  htbase : Nat
  hcount : Nat
  intercept : Bool
  cutRight : Bool
  deadline : Nat
  drainlim : Nat
  mslots : Nat
  msave : Nat
  deriving DecidableEq, Repr

/-- A pending fault that a restored motif retries before its issue resumes: of a strand, or of a command by counter and number
(R376, R381). -/
inductive Retry where
  | strand (index : Nat)
  | command (tl number : Nat)
  deriving DecidableEq, Repr

/-- A motif (R125, R140); `vdie` and `vcluster` are the identifiers that its programs read (R123, R401). -/
structure Motif where
  uid : Nat
  cid : Cid
  ring : Nat
  record : Nat
  stage : Nat
  motifid : Word
  image : Dword
  header : Header
  desc : Desc
  die : Nat
  cluster : Nat
  vdie : Nat
  vcluster : Nat
  lanes : Nat
  strands : List Strand
  scratch : Memory
  barriers : Table Barrier
  timelines : List Timeline
  commands : List Command
  statuses : Table Word
  seq : Option Sequencer
  param : List Byte
  preempt : Option Nat
  drained : Bool
  retries : List Retry := []
  deriving DecidableEq, Repr

/-- A saved motif in its save slot (R378): the motif as the save path recorded it. -/
structure Saved where
  slot : Nat
  motif : Motif
  tags : List (Nat × Nat × Nat)
  haltOnRestore : List Nat
  /-- From the image of a restored job: its programs read the cluster and the die as recorded (R460). -/
  recorded : Bool
  /-- The motif as its image in memory was written; none where a restored job's motif waits without one (R379, R460). -/
  written : Option Motif := none
  deriving DecidableEq, Repr

/-- A handle entry in a cluster's cache (R294): the 64 bytes of the entry and the sticky byte gathered since. -/
structure CachedHandle where
  cid : Cid
  handle : Nat
  bytes : List Byte
  sticky : Byte
  deriving DecidableEq, Repr

/-- A cached translation (R214): the virtual range, the physical base and the combined attributes (R213). -/
structure TlbEntry where
  cid : Cid
  pod : Bool
  vbase : Nat
  size : Nat
  pbase : Nat
  r : Bool
  w : Bool
  w1 : Bool
  x : Bool
  x1 : Bool
  sealed : Bool
  snap : Bool
  comp : Bool
  ord : Nat
  ecc : Nat
  tier : Bool
  host : Bool
  gpbase : Nat
  via : Nat
  deriving DecidableEq, Repr

/-- A table entry in a die's walk cache (R214): of which stage and root, its level, the first address it covers. A
stage-two entry carries context 0 of its device. -/
structure WalkEntry where
  cid : Cid
  stage2 : Bool
  pod : Bool
  level : Nat
  base : Nat
  e : Nat
  deriving DecidableEq, Repr

/-- A translation that the host's IOMMU granted, in a cluster's address translation cache (R221). -/
structure AtcEntry where
  cid : Cid
  pasid : Nat
  page : Nat
  frame : Nat
  r : Bool
  w : Bool
  x : Bool
  deriving DecidableEq, Repr

/-- An ATS Translation Request outstanding on a die: under which identifier it went out, for which PASID and page, a mask of
the access kinds that wait on it, and whether a command front end does (R221, R366, R406). -/
structure AtsAsk where
  die : Nat
  cid : Cid
  pasid : Nat
  page : Nat
  mask : Nat
  front : Bool
  deriving DecidableEq, Repr

/-- A PRI page request outstanding: under which identifier it goes out, for which PASID, page and access, and whether a command
front end waits on it (R222, R366, R406). -/
structure PriAsk where
  cid : Cid
  pasid : Nat
  page : Nat
  access : Access
  front : Bool
  deriving DecidableEq, Repr

/-- A store and an address within it: device frames, tier two, the coherent window, host memory (R228). -/
structure PAddr where
  space : Space
  addr : Nat
  deriving DecidableEq, Repr

/-- An L1 copy of a line (R202): whose quadrant, of which line, under an unordered page or not, when filled, its bytes. -/
structure L1Line where
  quad : Nat
  line : PAddr
  uo : Bool
  filled : Nat
  bytes : List Byte
  deriving DecidableEq, Repr

/-- Sticky bits of a handle that wait for the fault on the entry's page to be resolved (R294). -/
structure PendSticky where
  cid : Cid
  desc : Desc
  handle : Nat
  bits : Byte
  epoch : Nat
  waits : List PageWait
  deriving DecidableEq, Repr

/-- A cluster (R2, R203, R191); `qtlb` holds the quadrants' TLBs, each entry with its quadrant (R214); `loading` tells when
the load of the context began whose first grant is still to come (R190). -/
structure Cluster where
  fused : Bool
  ctx : Option Cid
  handles : List CachedHandle
  stickyPend : List PendSticky
  tlb : List TlbEntry
  qtlb : List (Nat × TlbEntry)
  atc : List AtcEntry
  l1 : List L1Line
  order : List (Nat × Nat)
  waited : List (Nat × Nat × Nat)
  slice : Nat
  loading : Option Nat
  frozen : Bool
  absent : Bool
  draining : Bool
  deriving DecidableEq, Repr

/-- A ring (R181, R182); `failed` lists the records whose checks stopped it since it last went on (R185). -/
structure Ring where
  owner : Option Nat
  base : Dword
  logsize : Nat
  prio : Nat
  ctx : Nat
  enable : Bool
  tail : Nat
  fetched : Nat
  begun : Nat
  completed : Nat
  stopped : Bool
  code : Nat
  served : Nat
  failed : List Nat
  doneList : List Nat
  deriving DecidableEq, Repr

/-- A queue block (R423). -/
structure QBlock where
  base : Dword
  ctl : Word
  head : Word
  tail : Word
  lost : Word
  lostSince : Nat
  deriving DecidableEq, Repr

/-- A pattern queue (R143). -/
structure PQueue where
  items : List Word
  capacity : Nat
  low : Nat
  high : Nat
  storage : Dword
  closed : Bool
  deriving DecidableEq, Repr

/-- A stage of a record (R143, R184). -/
structure Stage where
  image : Dword
  header : Header
  grid : Nat
  input : Option Nat
  created : Nat
  retired : Nat
  deriving DecidableEq, Repr

/-- A launch record that the front end has read (R184, R185). -/
structure Record where
  ring : Nat
  number : Nat
  cid : Cid
  kind : Nat
  flags : BitVec 8
  wait0 : BitVec 16
  wait1 : BitVec 16
  value0 : Nat
  value1 : Nat
  paramAddr : Dword
  lanes : Nat
  stages : List Stage
  queues : List PQueue
  param : List Byte
  begun : Bool
  done : Bool
  /-- Its motifs that have retired: their writes to other chips belong to the record's completion (R187, R239). -/
  writers : List Nat := []
  deriving DecidableEq, Repr

/-- A share block in force or staged (R384). -/
structure Share where
  rate : List Nat
  depth : List Nat
  borrow : BitVec 6
  hard : Bool
  mode : Bool
  pvdid : Nat
  erate : Nat
  edepth : Nat
  vslice : Nat
  ranges : List (Option (Nat × Nat))
  deriving DecidableEq, Repr

/-- A page fault reported or to be reported (R369); a resolve with fail that arrived while its strand is halted is held
(R373). -/
structure PFault where
  tag : Nat
  stage2 : Bool
  cid : Cid
  page : Nat
  kind : Nat
  access : BitVec 8
  reported : Bool
  failHeld : Bool
  deriving DecidableEq, Repr

/-- A register command waiting for its three steps (R215, R219). -/
structure InvPending where
  vd : Nat
  stage : Nat
  deriving DecidableEq, Repr

/-- A virtual device (R383, R423, R424); `chip` is the package's virtual chip number in its job (R200, R417). -/
structure VDev where
  port : Nat
  enabled : Bool
  ctxbase : Nat
  ctxcount : Nat
  vroot : Nat
  s2on : Bool
  waymask : BitVec 16
  winslice : Option Nat
  wcoff : Dword
  allowed : BitVec 256
  accepted : BitVec 256
  cutbase : Nat
  errq : QBlock
  faultq : QBlock
  invcount : Word
  s2invcount : Word
  fmtaddr : Nat
  fmtBusy : Option (Nat × Nat)
  fmtError : Bool
  ctxPend : List Nat
  ctxError : Bool
  rststate : Nat
  rstcause : Nat
  staging : List Byte
  share : Share
  newShare : Option Share
  bucket : Int
  charge : Nat
  hold : Bool
  degraded : Bool
  empty : BitVec 6
  lent : BitVec 6
  emptyNow : BitVec 6
  lentNow : BitVec 6
  lastDie : Option Nat
  clockOff : Int
  wallOff : Int
  savedClock : Nat
  savedWall : Nat
  migrating : Nat
  /-- The words of the MSI-X table (R423). -/
  msix : Table Word := []
  /-- What has been staged of a context command (R423, R425). -/
  ctxStage : Nat := 0
  /-- The guest-switch record of R402: motifs that the guest's own command was pre-empting, and the cycles it had waited. -/
  switchRec : List (Nat × Nat)
  route : Table (BitVec 16)
  chip : Nat
  deriving DecidableEq, Repr

/-- A request that this chip sent through the aperture (R412, R437): the operation, who waits, the answer, and whether
a failed check made it ask again (R282). -/
structure Request where
  rtag : Nat
  op : Nat
  cid : Cid
  uid : Nat
  strand : Nat
  lanes : LaneMask
  slotPc : Dword
  index : Nat
  again : Bool
  link : Nat
  answer : Option (Nat × List Byte)
  sent : Nat
  deriving DecidableEq, Repr

/-- A memory granule as a cut records it (R439, R440): its physical number, the virtual address it was reached by, whether
the write that preserved it showed that the cut records it, its listed bytes by offset and the tags of its lines. -/
structure Granule where
  unit : PAddr
  va : Nat
  sure : Bool
  cells : Memory
  tags : Table (BitVec 4)
  mode : Nat
  deriving DecidableEq, Repr

/-- The state of one cut on this chip (R433, R442, R451, R457, R458); `units` are the motifs whose scratchpad, registers and
rows its engine has not streamed yet (R440, R446), `desc` is the context's descriptor at the pulse. -/
structure Cut where
  cutid : Nat
  desc : Option Desc
  state : Nat
  cause : Nat
  markers : List Nat
  doneFrom : List Nat
  doneSent : Bool
  bytes : Nat
  live : Bool
  freed : Bool
  visited : List PAddr
  units : List Nat
  preserved : List Granule
  streamed : List Granule
  motifs : List Motif
  saved : List Saved
  records : List Record
  rings : List (Nat × Ring)
  requests : List Request
  logs : List (Nat × Packet)
  headerWritten : Bool
  coord : Nat
  nchips : Nat
  links : Nat
  sticky : List (Nat × Byte)
  deriving DecidableEq, Repr

/-- A job on this chip (R431, R434). -/
structure Job where
  cid : Cid
  epoch : Nat
  latest : Nat
  colours : List (Option Cut)
  asked : List (Nat × Nat × Nat)
  deriving DecidableEq, Repr

/-- An image that a host driver can name in a restore command (R439). -/
structure Image where
  kind : Nat
  addr : Nat
  cid : Cid
  vchip : Nat
  cutid : Nat
  cut : Cut
  deriving DecidableEq, Repr

/-- A restore command that awaits the job's others (R459). -/
structure Restore where
  vd : Nat
  ctx : Nat
  cutid : Nat
  image : Image
  deriving DecidableEq, Repr

/-- A context that has been used: whether it is stopped, and what it has saved (R365, R378, R425). -/
structure Ctx where
  cid : Cid
  stopped : Bool
  saved : List Saved
  deriving DecidableEq, Repr

/-- Who has reached a host line through its device copy, and under which virtual address (R224, R250, R267). -/
structure HostUser where
  vd : Nat
  cid : Cid
  pasid : Nat
  va : Nat
  deriving DecidableEq, Repr

/-- A device copy of a host line in the L2 of the die of a port: one for all devices that the port serves, with those
who have used it (R204, R221, R247, R267). -/
structure HostLine where
  line : Nat
  port : Nat
  users : List HostUser
  bytes : List Byte
  changed : List Nat
  deriving DecidableEq, Repr

/-- A store whose performance waits (R228, R243): who issued it, where it goes, its bytes; `lanes` are those it belongs
to (R226), `shared` says that a release at motif scope has ordered it towards its motif (R229). A move of a host line
waits in the same list: `move` is false for HFLUSH and true for CINV, and the bytes are none (R247). -/
structure PendStore where
  uid : Nat
  strand : Nat
  lanes : LaneMask
  shared : Bool
  move : Option Bool
  target : PAddr
  va : Nat
  bytes : List Byte
  comp : Bool
  snap : Bool
  host : Option (Cid × Nat)
  uo : Bool
  issued : Nat
  epoch : Nat
  cid : Cid
  deriving DecidableEq, Repr

/-- A Feltor link (R410, R413): lanes, stored-form acceptance, failed; packets queued by VC and class; flits in the
replay buffer; when each queue last moved. -/
structure Link where
  lanes : Nat
  fec : Bool
  stored : Bool
  failed : Bool
  out : List (Nat × Nat × Packet)
  replay : List Packet
  moved : Table Nat
  /-- Flits of credit for the far end's FIFOs, by channel and class; none where they do not bound what is sent (R413). -/
  credits : Table (Option Nat) := []
  /-- Flits that its own queues hold, by channel and class; none where they do not bound what is accepted (R415). -/
  room : Table (Option Nat) := []
  deriving DecidableEq, Repr

/-- An arbiter instance (R387, R388): token counts in units of 2^-16 by device, the lend pool, the device last served
from the pool, and at a quadrant the cycle up to which its slots have been offered. -/
structure Arbiter where
  tok : Table Int
  pool : Int
  lastPool : Nat
  since : Nat := 0
  /-- Slots for which the request granted last still occupies the arbiter (R387). -/
  busy : Nat := 0
  deriving DecidableEq, Repr

/-- A 2 MiB device frame (R206, R217): its ECC mode and the device that owns it. -/
structure Frame where
  mode : Nat
  owner : Option Nat
  deriving DecidableEq, Repr

/-- The physical clusters of a die (R2, R392, R403): that of each logical number, the spares, the next to be tested, the
one under test. -/
structure DieUnits where
  phys : List Nat
  spares : List Nat
  next : Nat
  testing : Option Nat
  /-- The wall time at which the last test's interval ended (R403). -/
  tested : Nat := 0
  deriving DecidableEq, Repr

/-- An answer that the package gives outside (R187, R225, R412, R428). -/
inductive Out where
  | msi (vd vector : Nat)
  | windowRead (f : Func) (v : Option Dword)
  | registerRead (f : Func) (vd : Nat) (v : Word)
  | atsRequest (cid : Cid) (pasid page : Nat) (execute : Bool)
  | priRequest (cid : Cid) (pasid page : Nat) (a : Access)
  | atsDone (base size : Nat)
  | ingressAgain (p : IngressPort) (addr : Nat)
  | packetAgain (cid : Cid) (chip rtag : Nat)
  | poisonedData (addr : Nat)
  | measurement (signature : Nat)
  | lms (signature : Option Nat)
  | held (die : Nat)
  | dropped (link : Nat)
  | replayed (link : Nat)
  deriving DecidableEq, Repr

/-- What moves next: an event from outside or a device step, a strand's slot scheduler's turn, or a sequencer. -/
inductive Action where
  | event (i : Instr)
  | issue (uid strand : Nat)
  | sequence (uid : Nat)
  deriving DecidableEq, Repr

/-- Who issues the instruction that exec runs: a live slot of a strand, or a motif's sequencer. -/
inductive Issuer where
  | slot (uid strand slot : Nat)
  | sequencer (uid : Nat)
  deriving DecidableEq, Repr

/-- The Kilne package. `firstRead` holds the entries that rule their 64 KiB pages (R211). The last five fields are the model's own (log entries 3, 4 and 8). -/
structure State where
  clock : Nat
  wallBase : Nat
  mem : Memory
  tags : Table (BitVec 4)
  latent : List (PAddr × Nat)
  granules : Table (BitVec 16)
  tier2Granules : Table (BitVec 16)
  frames : Table Frame
  tier2 : Memory
  tier2Tags : Table (BitVec 4)
  window : Memory
  hostMem : Memory
  hostBus : Memory
  hostLines : List HostLine
  pendStores : List PendStore
  clusters : Table Cluster
  quadcap : Table (BitVec 8)
  vdevs : Table VDev
  rings : Table Ring
  hoop : List Nat
  hoopAt : Nat
  records : List Record
  contexts : List Ctx
  motifs : List Motif
  nextUid : Nat
  faults : List PFault
  nextTag : Nat
  ats : List AtsAsk
  pri : List PriAsk
  hostTlbSuccess : List (Nat × Nat × Nat × Access)
  hostRefused : List (Nat × Nat × Nat × Access)
  walkCaches : Table (List WalkEntry)
  firstRead : List WalkEntry
  invs : List InvPending
  jobs : List Job
  images : List Image
  restores : List Restore
  requests : List Request
  rxHeld : List (Nat × Packet)
  rxFailed : List (Cid × Nat × Nat)
  nextRtag : Nat
  links : Table Link
  arbiters : Table Arbiter
  published : BitVec 256
  pfAccepted : BitVec 256
  pfAllowed : BitVec 256
  weights : List Nat
  commit : Word
  ifst : Word
  s2faultq : QBlock
  syslog : QBlock
  recovery : Bool
  recoveryAddr : Dword
  recoveryLen : Dword
  recoveryStatus : Word
  svn : Nat
  svnFloor : Nat
  revoked : BitVec 4
  digests : List (BitVec 384)
  lmsIndex : Nat
  heldDies : List Nat
  hotDies : List Nat
  unitLanes : Table (Option Nat)
  dies : List DieUnits
  out : List Out
  agenda : List Action
  cur : Option Issuer
  weak : Bool
  free : Nat
  turnNo : Nat
  deriving DecidableEq, Repr

/-- Why the machine stops. -/
inductive Fault where
  /-- Raised by a strand or sequencer instruction when nothing issues it: `exec` was called on a state whose `cur`
  names no slot or sequencer. It never follows from `step`, which sets `cur`; safe. -/
  | noIssuer
  deriving DecidableEq, Repr

/-- Why an instruction has no meaning. -/
inductive Refusal where
  /-- Raised by `exec` for an instruction that this model gives no meaning; its argument is the mnemonic. Safe: a
  claim about the instruction cannot be proved. -/
  | notModelled (mnemonic : String)
  deriving DecidableEq, Repr

/-- A queue block after reset (R423: enabling zeroes head, tail and lost; the other values are log entry 6). -/
def QBlock.reset : QBlock := { base := 0, ctl := 0, head := 0, tail := 0, lost := 0, lostSince := 0 }

/-- A ring after reset: not assigned, not enabled (log entry 6). -/
def Ring.reset : Ring :=
  { owner := none, base := 0, logsize := 0, prio := 0, ctx := 0, enable := false, tail := 0, fetched := 0
    begun := 0, completed := 0, stopped := false, code := 0, served := 0, failed := [], doneList := [] }

/-- A share block after reset: no rate, no energy bucket, no range (log entry 6). -/
def Share.reset : Share :=
  { rate := [0, 0, 0, 0, 0, 0], depth := [0, 0, 0, 0, 0, 0], borrow := 0, hard := false, mode := false, pvdid := 0
    erate := 0, edepth := 0, vslice := 0, ranges := [none, none, none, none] }

/-- A virtual device after reset (log entry 6). -/
def VDev.reset : VDev :=
  { port := 0, enabled := false, ctxbase := 0, ctxcount := 0, vroot := 0, s2on := false, waymask := 0
    winslice := none, wcoff := 0, allowed := 0, accepted := 0, cutbase := 0, errq := QBlock.reset
    faultq := QBlock.reset, invcount := 0, s2invcount := 0, fmtaddr := 0, fmtBusy := none, fmtError := false
    ctxPend := [], ctxError := false, rststate := 0, rstcause := 0, staging := [], share := Share.reset
    newShare := none, bucket := 0, charge := 0, hold := false, degraded := false, empty := 0, lent := 0
    emptyNow := 0, lentNow := 0, lastDie := none, clockOff := 0, wallOff := 0, savedClock := 0, savedWall := 0
    migrating := 0, switchRec := [], route := [], chip := 0 }

/-- An empty cluster. -/
def Cluster.reset : Cluster :=
  { fused := false, ctx := none, handles := [], stickyPend := [], tlb := [], qtlb := [], atc := [], l1 := [], order := [], waited := [], slice := 0
    loading := none, frozen := false, absent := false, draining := false }

/-- A Feltor link after training at full width (R410; log entry 6). -/
def Link.reset : Link :=
  { lanes := 8, fec := true, stored := false, failed := false, out := [], replay := [], moved := [] }

/-- An arbiter instance after reset (log entry 6). -/
def Arbiter.reset : Arbiter := { tok := [], pool := 0, lastPool := 31, since := 0 }

/-- A frame whose mode nothing has set (log entry 6). -/
def Frame.reset : Frame := { mode := 1, owner := none }

/-- A die after reset: 60 exposed clusters under their own numbers, 4 spares (R2; log entry 6). -/
def DieUnits.reset : DieUnits := { phys := List.range 60, spares := [60, 61, 62, 63], next := 0, testing := none }

/-- The package right after reset. -/
def State.reset : State :=
  { clock := 0, wallBase := 0, mem := [], tags := [], latent := [], granules := [], tier2Granules := [], frames := [], tier2 := []
    tier2Tags := [], window := [], hostMem := [], hostBus := [], hostLines := [], pendStores := [], clusters := []
    quadcap := [], vdevs := [], rings := [], hoop := [], hoopAt := 0, records := [], contexts := [], motifs := []
    nextUid := 0, faults := [], nextTag := 0, ats := [], pri := [], hostTlbSuccess := [], hostRefused := [], walkCaches := [], firstRead := [], invs := [], jobs := []
    images := [], restores := [], requests := [], rxHeld := [], rxFailed := [], nextRtag := 0, links := [], arbiters := []
    published := 0x1FFF, pfAccepted := 0, pfAllowed := 0
    weights := [40000, 180000, 300000, 520000, 400000, 250, 130, 70, 1900, 87000, 30000, 550000, 1730000, 2800000,
      2080000000]
    commit := 0, ifst := 600, s2faultq := QBlock.reset, syslog := QBlock.reset, recovery := false
    recoveryAddr := 0, recoveryLen := 0, recoveryStatus := 0, svn := 0, svnFloor := 0, revoked := 0
    digests := [0, 0, 0, 0], lmsIndex := 0, heldDies := [], hotDies := [], unitLanes := [], dies := List.replicate 4 DieUnits.reset
    out := [], agenda := [], cur := none, weak := false, free := 0, turnNo := 0 }

end Sys2Proof.Machine
end

