-- ==== Sys2Proof/Machine/Table.lean ====
section
/-! DEFINITION. Sparse tables in one canonical form (keys rising, no default listed), byte lists and bit fields. -/

namespace Sys2Proof.Machine

/-- The value a table holds for a key; an unlisted key reads as the default. -/
def tget {α : Type} (d : α) : Table α → Nat → α
  | [], _ => d
  | (k, v) :: t, x => if k = x then v else tget d t x

/-- The table without a key. -/
def tdrop {α : Type} (x : Nat) (t : Table α) : Table α := t.filter fun e => e.1 != x

/-- An entry put in its place among rising keys. -/
def tput {α : Type} (x : Nat) (v : α) : Table α → Table α
  | [] => [(x, v)]
  | (k, w) :: t => if x < k then (x, v) :: (k, w) :: t else (k, w) :: tput x v t

/-- The table with one value changed; writing the default removes the entry. -/
def tset {α : Type} [DecidableEq α] (d : α) (t : Table α) (x : Nat) (v : α) : Table α :=
  if v = d then tdrop x t else tput x v (tdrop x t)

/-- The canonical form, from a least key on. -/
def tableWfFrom {α : Type} [DecidableEq α] (d : α) : Nat → Table α → Bool
  | _, [] => true
  | lo, (k, v) :: t => decide (lo ≤ k) && decide (v ≠ d) && tableWfFrom d (k + 1) t

/-- The canonical form: keys strictly rising, no entry equal to the default. -/
def tableWf {α : Type} [DecidableEq α] (d : α) (t : Table α) : Bool := tableWfFrom d 0 t

/-- The canonical form of a byte memory (log entry 7). -/
def Memory.wf (m : Memory) : Bool := tableWf (0 : Byte) m

/-- Several entries changed, first to last. -/
def tsetMany {α : Type} [DecidableEq α] (d : α) : Table α → List (Nat × α) → Table α
  | t, [] => t
  | t, (k, v) :: rest => tsetMany d (tset d t k v) rest

/-- The listed entries whose keys lie in [lo, lo + n), keys counted from lo. -/
def tslice {α : Type} (lo n : Nat) (t : Table α) : Table α :=
  t.filterMap fun e => if lo ≤ e.1 ∧ e.1 < lo + n then some (e.1 - lo, e.2) else none

/-- The entries with keys in [lo, lo + n) removed. -/
def tclear {α : Type} (lo n : Nat) (t : Table α) : Table α :=
  t.filter fun e => !(decide (lo ≤ e.1) && decide (e.1 < lo + n))

/-- Bytes of a memory from an address on. -/
def readBytes (m : Memory) (a : Nat) : Nat → List Byte
  | 0 => []
  | n + 1 => tget 0 m a :: readBytes m (a + 1) n

/-- Bytes written to a memory from an address on. -/
def writeBytes (m : Memory) (a : Nat) : List Byte → Memory
  | [] => m
  | b :: bs => writeBytes (tset 0 m a b) (a + 1) bs

/-- The little-endian number of a list of bytes (R5). -/
def leNat : List Byte → Nat
  | [] => 0
  | b :: bs => b.toNat + 256 * leNat bs

/-- The low bytes of a number, byte 0 first (R5). -/
def leBytes : Nat → Nat → List Byte
  | 0, _ => []
  | n + 1, v => BitVec.ofNat 8 v :: leBytes n (v / 256)

/-- Bits [lo + n - 1 : lo] of a number. -/
def bitsAt (v lo n : Nat) : Nat := v / 2 ^ lo % 2 ^ n

/-- Bit i of a number. -/
def bitAt (v i : Nat) : Bool := v / 2 ^ i % 2 == 1

/-- A number of n bits read as two's complement. -/
def signed (n v : Nat) : Int := if v % 2 ^ n < 2 ^ (n - 1) then (v % 2 ^ n : Nat) else (v % 2 ^ n : Nat) - (2 ^ n : Nat)

/-- The n-bit pattern of an integer. -/
def wrapN (n : Nat) (v : Int) : Nat := (v % (2 ^ n : Nat)).toNat

/-- The field of a byte list at an offset, as a number. -/
def fieldAt (bs : List Byte) (off n : Nat) : Nat := leNat ((bs.drop off).take n)

/-- The list with the bytes at an offset replaced. -/
def putBytes (bs : List Byte) (off : Nat) (v : List Byte) : List Byte :=
  bs.take off ++ v ++ bs.drop (off + v.length)

/-- The first element of a list that satisfies a test is replaced by what a function makes of it. -/
def updFirst {α : Type} (p : α → Bool) (f : α → α) : List α → List α
  | [] => []
  | x :: xs => if p x then f x :: xs else x :: updFirst p f xs

/-- The lanes of a mask, lowest first. -/
def lanesOf (m : LaneMask) : List Nat := (List.range 96).filter fun l => m.getLsbD l

/-- The lowest lane of a mask. -/
def lowest (m : LaneMask) : Option Nat := (List.range 96).find? fun l => m.getLsbD l

/-- The mask of one lane. -/
def laneBit (l : Nat) : LaneMask := BitVec.ofNat 96 (2 ^ l)

/-- The mask of a list of lanes. -/
def maskOf : List Nat → LaneMask
  | [] => 0
  | l :: ls => laneBit l ||| maskOf ls

/-- The number of lanes in a mask. -/
def laneCount (m : LaneMask) : Nat := (lanesOf m).length

/-- The beats of a strand that hold a lane of the mask (R127). -/
def beatsOf (m : LaneMask) : Nat :=
  ((List.range 3).filter fun b => decide (m.extractLsb' (32 * b) 32 ≠ (0 : Word))).length

/-- A list of words without the zeros at its end. -/
def trimRow (ws : List Word) : List Word := (ws.reverse.dropWhile (· == 0)).reverse

/-- The rows of a tile in their one form: no zeros at the end of a row, no empty rows at the end (R319). -/
def tileRows (rows : List (List Word)) : List (List Word) :=
  ((rows.map trimRow).reverse.dropWhile List.isEmpty).reverse

/-- Bytes filled with zeros to a length. -/
def padTo (n : Nat) (b : List Byte) : List Byte := b.take n ++ List.replicate (n - b.length) 0

end Sys2Proof.Machine
end

