-- ==== Sys2Proof/Machine/Block.lean ====
section
/-! DEFINITION. The block formats: code sets, rounding to codes, the choice of the scale, decoding (R50 to R57). The types
are numbered as QNT's fn: 0 uniform integer, 1 E2M1, 2 power of two, 3 hybrid, 4 .i8b, 5 .n8b. -/

namespace Sys2Proof.Machine

/-- The magnitudes of a signed-magnitude type in its units, the overflow point last (R52, R54). -/
def magPoints (ty : Nat) : List Nat :=
  match ty with
  | 1 => [0, 1, 2, 3, 4, 6, 8, 12, 16]
  | 2 => [0, 1, 2, 4, 8, 16, 32, 64, 128]
  | _ => [0, 1, 2, 3, 4, 8, 16, 32, 64]

/-- Whether a type stores sign and magnitude index (R52). -/
def isSignMag (ty : Nat) : Bool := ty == 1 || ty == 2 || ty == 3

/-- The exponent of a type's units (R52). -/
def codeUnit (ty : Nat) : Int := if ty = 1 then -1 else if ty = 2 then -6 else 0

/-- The magnitude of an index in the type's units. -/
def codePoint (ty i : Nat) : Nat := if isSignMag ty then (magPoints ty).getD i 0 else i

/-- The index of the overflow point of a sign (R54). -/
def codeTop (ty : Nat) (neg : Bool) : Nat :=
  match ty with
  | 0 => if neg then 9 else 8
  | 4 => if neg then 129 else 128
  | 5 => 256
  | _ => 8

/-- The largest index whose magnitude does not exceed a number of whole units. -/
def codeIndex (ty lo : Nat) : Nat :=
  if isSignMag ty then ((magPoints ty).filter fun p => decide (p ≤ lo)).length - 1 else lo

/-- The magnitude index that a value rounds to, whether the value was one of the points, and whether it draws (R54). -/
def codeRound (ty : Nat) (mode : RMode) (neg : Bool) (u : Units) (draw : Nat) : Nat × Bool :=
  let top := codeTop ty neg
  let k := codeIndex ty u.lo
  if top ≤ k then (top, k = top ∧ u.lo = codePoint ty top ∧ u.rem = 0)
  else
    let a := codePoint ty k
    let b := codePoint ty (k + 1)
    if u.lo = a ∧ u.rem = 0 then (k, true)
    else
      -- distance from a in units of 2^-s, over the gap in the same units
      let num := (u.lo - a) * 2 ^ u.s + u.rem
      let gap := (b - a) * 2 ^ u.s
      let up : Bool := match mode with
        | .rn => decide (gap < 2 * num) || (decide (2 * num = gap) && k % 2 == 1)
        | .rna => decide (gap ≤ 2 * num)
        | .rz => false
        | .rd => neg
        | .ru => !neg
        | .sr => if neg then !decide (draw < (gap - num) * 65536 / gap) else decide (draw < num * 65536 / gap)
      (if up then k + 1 else k, false)

/-- The value m × 2^x scaled by the block factor, in the type's units (R54). -/
def codeUnits (ty m : Nat) (x : Int) (e : Nat) : Units := unitsOf m (x + 32 - e) (codeUnit ty)

/-- Whether a value overflows with a factor (R54). -/
def codeOverflows (ty : Nat) (mode : RMode) (neg : Bool) (m : Nat) (x : Int) (e : Nat) : Bool :=
  let u := codeUnits ty m x e
  let top := codeTop ty neg
  match mode with
  | .sr => let max := codePoint ty (top - 1)
           decide (max < u.lo ∨ (u.lo = max ∧ u.rem ≠ 0))
  | _ => decide (top ≤ (codeRound ty mode neg u 0).1)

/-- The code of a sign and a magnitude index (R52, R54). -/
def codeOf (ty : Nat) (neg : Bool) (i : Nat) : Nat :=
  match ty with
  | 0 => if neg then (16 - i) % 16 else i
  | 4 => if neg then (256 - i) % 256 else i
  | 5 => i
  | _ => i + if neg then 8 else 0

/-- An element rounded to a code with its flags and the generator after it (R54). -/
def codeElem (ty : Nat) (mode : RMode) (g : BitVec 24) (v : FV) (e : Nat) : Nat × Flags × BitVec 24 :=
  match v with
  | .fin neg m x =>
    if m = 0 then (if isSignMag ty && neg then 8 else 0, 0, g)
    else
      let draws := decide (mode = .sr)
      if ty = 5 ∧ neg then (0, fNX, if draws then srAdvance 16 g else g)
      else
        let u := codeUnits ty m x e
        let r := codeRound ty mode neg u (if draws then srDraw g else 0)
        let top := codeTop ty neg
        let big := codeOverflows ty mode neg m x e
        let g' := if draws && (!r.2 || big) then srAdvance 16 g else g
        if big then (codeOf ty neg (top - 1), fOF ||| fNX, g')
        else if r.1 = 0 then (codeOf ty neg 0, fUF ||| fNX, g')
        else (codeOf ty neg r.1, if r.2 then 0 else fNX, g')
  | _ => (0, 0, g)

/-- Whether a value takes part in the choice of the scale (R54, R55). -/
def counts (ty : Nat) (v : FV) : Bool :=
  match v with
  | .fin neg m _ => m != 0 && !(ty == 5 && neg)
  | _ => false

/-- Whether a value is a NaN or an infinity. -/
def FV.special : FV → Bool
  | .fin _ _ _ => false
  | _ => true

/-- The native rule's e for elements none of which is special (R55). -/
def nativeScale (ty : Nat) (mode : RMode) (vs : List FV) : Nat :=
  let live := vs.filter (counts ty)
  if live.isEmpty then 0
  else ((List.range 63).find? fun e => live.all fun v => match v with
    | .fin neg m x => !codeOverflows ty mode neg m x e
    | _ => true).getD 62

/-- emax of a type in the compatibility rule (R56). -/
def compatEmax (ty : Nat) : Int :=
  match ty with
  | 0 => 2
  | 1 => 2
  | 2 => 0
  | 3 => 5
  | 4 => 6
  | _ => 7

/-- The compatibility rule's e (R56). -/
def compatScale (ty : Nat) (vs : List FV) : Nat :=
  let tops := (vs.filter (counts ty)).map fun v => match v with
    | .fin _ m x => topExp m x
    | _ => 0
  match tops with
  | [] => 0
  | t :: ts =>
    let big := ts.foldl max t - compatEmax ty
    (min (max (big + 32) 0) 62).toNat

/-- The block scale e of a rule; 63 for a block with a special element (R55, R56). -/
def blockScale (compat : Bool) (ty : Nat) (mode : RMode) (vs : List FV) : Nat :=
  if vs.any FV.special then 63 else if compat then compatScale ty vs else nativeScale ty mode vs

/-- The scale byte: type bits and e (R51, R161). -/
def scaleByte (ty e : Nat) : Nat := (if ty < 4 then ty else 0) * 64 + e

/-- The codes of a block's elements, each with its own generator, and the flags (R55, R56). -/
def blockCodes (ty : Nat) (mode : RMode) (e : Nat) : List (FV × BitVec 24) → List (Nat × BitVec 24) × Flags
  | [] => ([], 0)
  | (v, g) :: rest =>
    let more := blockCodes ty mode e rest
    if e = 63 then ((0, g) :: more.1, fNV ||| more.2)
    else
      let r := codeElem ty mode g v e
      ((r.1, r.2.2) :: more.1, r.2.1 ||| more.2)

/-- The exact value of a code of a type with a block scale e; e = 63 is a NaN block (R51 to R53). -/
def codeValue (ty e code : Nat) : XV :=
  if e = 63 then .nan
  else
    let x : Int := codeUnit ty + e - 32
    match ty with
    | 0 => let v := signed 4 code
           if v = 0 then .zero false else .dy v x
    | 4 => let v := signed 8 code
           if v = 0 then .zero false else .dy v x
    | 5 => if code % 256 = 0 then .zero false else .dy (code % 256 : Nat) x
    | _ =>
      let m := codePoint ty (code % 8)
      let neg := 8 ≤ code % 16
      if m = 0 then .zero neg else .dy (if neg then -(m : Int) else m) x

/-- A 4-bit code under its scale byte (R52). -/
def q4Value (scale code : Nat) : XV := codeValue (scale / 64 % 4) (scale % 64) code

/-- An 8-bit code under its scale byte, and the flag of a scale byte of another type (R53). -/
def q8Value (ty scale code : Nat) : XV × Flags :=
  if scale / 64 % 4 = 0 then (codeValue ty (scale % 64) code, 0) else (.nan, fNV)

end Sys2Proof.Machine
end

