-- ==== Sys2Proof/Config.lean ====
section
/-! DEFINITION. What one implementation fixes and the free values: constants with no body, so that nothing can be
proved of their value (log entry 8). -/

namespace Sys2Proof

/-- The part number of the feature record; the spec gives no value (R421, log entry 8). -/
opaque Config.part : Word

/-- The silicon stepping of the feature record; the spec gives no value (R421, log entry 8). -/
opaque Config.stepping : Word

/-- On which side of a rounding boundary a transcendental value lies that three enclosures, the last of more than
a thousand bits, have not separated from it: true for the farther from 0, from the operand bits and the function
(R155, R342, log entry 8). -/
opaque Config.freeSide : Nat → Nat → Bool

/-- The answer of an external signature algorithm over a transcript: which algorithm, which index, which
transcript (R428, log entry 8). -/
opaque Config.signature : Nat → Nat → Nat → Nat

/-- The stack, modulo 12, in which a device frame of a number lies: the spec gives no map from addresses to stacks
(R206, log entry 8). -/
opaque Config.stackOf : Nat → Nat

/-- Whether the expander behind the port that reaches a line of tier two takes lines in stored form: what the expander
advertises is its own (R277, log entry 8). -/
opaque Config.expanderForms : Nat → Bool

/-- A bit that no rule states, by a counter of the state and a place within the use (R288, log entry 8). -/
opaque Config.freeBit : Nat → Nat → Bool

end Sys2Proof
end

