-- ==== Sys2Proof/WellFormed.lean ====
section
/-! DEFINITION. Which instructions are well formed: the static part of R77 and R78 (reserved fields, unused fields,
the prefix fields that R71 and R72 accept), and the packets that fit the device step they are given to. -/

namespace Sys2Proof

/-- The word of an instruction as its opcode and the fields of its format (R63, R74). -/
inductive Shape where
  | a (op : Nat) (w : FmtA)
  | b (op : Nat) (w : FmtB)
  | bc (op : Nat) (w : FmtBC)
  | bf (op : Nat) (w : FmtBF)
  | u (op : Nat) (w : FmtU)
  | j (op : Nat) (w : FmtJ)
  | l (op : Nat) (w : FmtL)
  | m (op : Nat) (w : FmtM)
  deriving DecidableEq, Repr

/-- The opcode of a word's shape. -/
def Shape.op : Shape → Nat
  | .a op _ => op
  | .b op _ => op
  | .bc op _ => op
  | .bf op _ => op
  | .u op _ => op
  | .j op _ => op
  | .l op _ => op
  | .m op _ => op

/-- The shape of an instruction word, with the prefix before it; none for a device step (R73, R74). -/
def Instr.shape : Instr → Option (Option Pfx × Shape)
  | .add p w => some (p, .a 0x00 w)
  | .sub p w => some (p, .a 0x01 w)
  | .mul p w => some (p, .a 0x02 w)
  | .mulh p w => some (p, .a 0x03 w)
  | .mad p w => some (p, .a 0x04 w)
  | .div p w => some (p, .a 0x05 w)
  | .rem p w => some (p, .a 0x06 w)
  | .min p w => some (p, .a 0x07 w)
  | .max p w => some (p, .a 0x08 w)
  | .absd p w => some (p, .a 0x09 w)
  | .and p w => some (p, .a 0x0A w)
  | .or p w => some (p, .a 0x0B w)
  | .xor p w => some (p, .a 0x0C w)
  | .andn p w => some (p, .a 0x0D w)
  | .shl p w => some (p, .a 0x0E w)
  | .shr p w => some (p, .a 0x0F w)
  | .sra p w => some (p, .a 0x10 w)
  | .rotl p w => some (p, .a 0x11 w)
  | .clz p w => some (p, .a 0x12 w)
  | .popc p w => some (p, .a 0x13 w)
  | .brev p w => some (p, .a 0x14 w)
  | .bfe p w => some (p, .a 0x15 w)
  | .bfi p w => some (p, .a 0x16 w)
  | .sel p w => some (p, .a 0x17 w)
  | .cmp p w => some (p, .a 0x18 w)
  | .setcc p w => some (p, .a 0x19 w)
  | .lea p w => some (p, .a 0x1A w)
  | .mov p w => some (p, .a 0x1B w)
  | .readlane p w => some (p, .a 0x1C w)
  | .writelane p w => some (p, .a 0x1D w)
  | .prmt p w => some (p, .a 0x1E w)
  | .dot4 p w => some (p, .a 0x1F w)
  | .addi p w => some (p, .b 0x20 w)
  | .muli p w => some (p, .b 0x21 w)
  | .andi p w => some (p, .b 0x22 w)
  | .ori p w => some (p, .b 0x23 w)
  | .xori p w => some (p, .b 0x24 w)
  | .shli p w => some (p, .b 0x25 w)
  | .shri p w => some (p, .b 0x26 w)
  | .srai p w => some (p, .b 0x27 w)
  | .cmpi p w => some (p, .bc 0x28 w)
  | .mini p w => some (p, .b 0x29 w)
  | .maxi p w => some (p, .b 0x2A w)
  | .lui p w => some (p, .u 0x2B w)
  | .llo p w => some (p, .u 0x2C w)
  | .luih p w => some (p, .u 0x2D w)
  | .movs p w => some (p, .u 0x2E w)
  | .movsw p w => some (p, .u 0x2F w)
  | .window p w => some (p, .b 0x30 w)
  | .fli p w => some (p, .u 0x31 w)
  | .movi p w => some (p, .u 0x32 w)
  | .bfei p w => some (p, .bf 0x33 w)
  | .bfii p w => some (p, .bf 0x34 w)
  | .rotli p w => some (p, .b 0x35 w)
  | .addip p w => some (p, .b 0x36 w)
  | .setcci p w => some (p, .bc 0x37 w)
  | .mulw p w => some (p, .a 0x38 w)
  | .madw p w => some (p, .a 0x39 w)
  | .addp p w => some (p, .a 0x3A w)
  | .shlp p w => some (p, .b 0x3B w)
  | .shrp p w => some (p, .b 0x3C w)
  | .bra p w => some (p, .j 0x40 w)
  | .bdiv p w => some (p, .j 0x41 w)
  | .join p w => some (p, .a 0x42 w)
  | .call p w => some (p, .l 0x43 w)
  | .calli p w => some (p, .a 0x44 w)
  | .ret p w => some (p, .a 0x45 w)
  | .jmpi p w => some (p, .a 0x46 w)
  | .exit p w => some (p, .a 0x47 w)
  | .yield p w => some (p, .a 0x48 w)
  | .nop p w => some (p, .a 0x49 w)
  | .bar p w => some (p, .b 0x4A w)
  | .boarr p w => some (p, .a 0x4B w)
  | .bowait p w => some (p, .a 0x4C w)
  | .tlwait p w => some (p, .a 0x4D w)
  | .trap p w => some (p, .u 0x4E w)
  | .brk p w => some (p, .u 0x4F w)
  | .rft p w => some (p, .a 0x50 w)
  | .qclose p w => some (p, .a 0x51 w)
  | .qstat p w => some (p, .a 0x52 w)
  | .getpc p w => some (p, .b 0x53 w)
  | .loop p w => some (p, .j 0x54 w)
  | .svc p w => some (p, .u 0x55 w)
  | .evwait p w => some (p, .a 0x56 w)
  | .qtry p w => some (p, .a 0x57 w)
  | .boinit p w => some (p, .a 0x58 w)
  | .fadd p w => some (p, .a 0x60 w)
  | .fsub p w => some (p, .a 0x61 w)
  | .fmul p w => some (p, .a 0x62 w)
  | .ffma p w => some (p, .a 0x63 w)
  | .fmin p w => some (p, .a 0x64 w)
  | .fmax p w => some (p, .a 0x65 w)
  | .fcmp p w => some (p, .a 0x66 w)
  | .fsetcc p w => some (p, .a 0x67 w)
  | .fdiv p w => some (p, .a 0x68 w)
  | .fsqrt p w => some (p, .a 0x69 w)
  | .frcp p w => some (p, .a 0x6A w)
  | .frsq p w => some (p, .a 0x6B w)
  | .fexp2 p w => some (p, .a 0x6C w)
  | .flog2 p w => some (p, .a 0x6D w)
  | .fsin p w => some (p, .a 0x6E w)
  | .fcos p w => some (p, .a 0x6F w)
  | .ftanh p w => some (p, .a 0x70 w)
  | .fclass p w => some (p, .a 0x71 w)
  | .fcvt p w => some (p, .a 0x72 w)
  | .icvt p w => some (p, .a 0x73 w)
  | .fpack p w => some (p, .a 0x74 w)
  | .funpk p w => some (p, .a 0x75 w)
  | .qnt p w => some (p, .a 0x76 w)
  | .qntc p w => some (p, .a 0x77 w)
  | .dqnt p w => some (p, .a 0x78 w)
  | .fdot2 p w => some (p, .a 0x79 w)
  | .frnd p w => some (p, .a 0x7A w)
  | .fscale p w => some (p, .a 0x7B w)
  | .fsgn p w => some (p, .a 0x7C w)
  | .ffrc p w => some (p, .a 0x7D w)
  | .fdiva p w => some (p, .a 0x7E w)
  | .shfl p w => some (p, .a 0x80 w)
  | .vote p w => some (p, .a 0x81 w)
  | .ballot p w => some (p, .a 0x82 w)
  | .redux p w => some (p, .a 0x83 w)
  | .scan p w => some (p, .a 0x84 w)
  | .match p w => some (p, .a 0x85 w)
  | .ld p w => some (p, .m 0x86 w)
  | .st p w => some (p, .m 0x87 w)
  | .lds p w => some (p, .m 0x88 w)
  | .sts p w => some (p, .m 0x89 w)
  | .ldp p w => some (p, .m 0x8A w)
  | .stp p w => some (p, .m 0x8B w)
  | .atom p w => some (p, .a 0x8C w)
  | .atom64 p w => some (p, .a 0x8D w)
  | .red p w => some (p, .a 0x8E w)
  | .atoms p w => some (p, .a 0x8F w)
  | .fence p w => some (p, .a 0x90 w)
  | .hflush p w => some (p, .a 0x91 w)
  | .cinv p w => some (p, .a 0x92 w)
  | .pref p w => some (p, .m 0x93 w)
  | .privaddr p w => some (p, .a 0x94 w)
  | .cconv p w => some (p, .a 0x95 w)
  | .ldt p w => some (p, .a 0x96 w)
  | .stt p w => some (p, .a 0x97 w)
  | .atoms64 p w => some (p, .a 0x98 w)
  | .ldk p w => some (p, .m 0x99 w)
  | .xcopy p w => some (p, .a 0xA0 w)
  | .xtile p w => some (p, .a 0xA1 w)
  | .xform p w => some (p, .a 0xA2 w)
  | .xyield p w => some (p, .a 0xA3 w)
  | .tlread p w => some (p, .a 0xA4 w)
  | .tlinc p w => some (p, .a 0xA5 w)
  | .tdef p w => some (p, .a 0xA6 w)
  | .tinv p w => some (p, .a 0xA7 w)
  | .tinvAll p w => some (p, .a 0xA7 w)
  | .tbnd p w => some (p, .a 0xA8 w)
  | .tseal p w => some (p, .a 0xA9 w)
  | .tstat p w => some (p, .a 0xAA w)
  | .seedscan p w => some (p, .a 0xAB w)
  | .seedexp p w => some (p, .a 0xAC w)
  | .snap p w => some (p, .a 0xAD w)
  | .snapwait p w => some (p, .a 0xAE w)
  | .snapstat p w => some (p, .a 0xAF w)
  | .xgath p w => some (p, .a 0xB0 w)
  | .xscat p w => some (p, .a 0xB1 w)
  | .xfill p w => some (p, .a 0xB2 w)
  | .xcancel p w => some (p, .a 0xB3 w)
  | .xstat p w => some (p, .a 0xB4 w)
  | .mzero w => some (none, .a 0xC0 w)
  | .mma w => some (none, .a 0xC1 w)
  | .mmas w => some (none, .a 0xC2 w)
  | .mstore w => some (none, .a 0xC3 w)
  | .mepi w => some (none, .a 0xC4 w)
  | .mldacc w => some (none, .a 0xC5 w)
  | .msig w => some (none, .a 0xC6 w)
  | .mwait w => some (none, .a 0xC7 w)
  | .kadd w => some (none, .a 0xC8 w)
  | .kaddi w => some (none, .b 0xC9 w)
  | .kli w => some (none, .u 0xCA w)
  | .kld w => some (none, .m 0xCB w)
  | .kst w => some (none, .m 0xCC w)
  | .kbra w => some (none, .j 0xCD w)
  | .kend w => some (none, .a 0xCE w)
  | .mfetch w => some (none, .a 0xCF w)
  | .mrowmax w => some (none, .a 0xD0 w)
  | .mrowsum w => some (none, .a 0xD1 w)
  | .mscale w => some (none, .a 0xD2 w)
  | .mcopy w => some (none, .a 0xD3 w)
  | .ksub w => some (none, .a 0xD4 w)
  | .kshl w => some (none, .a 0xD5 w)
  | .kand w => some (none, .a 0xD6 w)
  | .kmul w => some (none, .a 0xD7 w)
  | .mwaitt w => some (none, .a 0xD8 w)
  | .kor w => some (none, .a 0xD9 w)
  | .myield w => some (none, .a 0xDA w)
  | .translationWalk _ => none
  | .l1Refill _ _ => none
  | .tailWrite _ _ => none
  | .ringEnable _ _ _ => none
  | .ringResume _ _ => none
  | .recordCheck _ => none
  | .recordBegin _ => none
  | .recordComplete _ _ => none
  | .hoopEvaluation => none
  | .motifPlacement _ _ _ => none
  | .motifRetire _ => none
  | .clusterSwitch _ _ => none
  | .chunkPerformed _ _ _ _ => none
  | .commandComplete _ _ _ => none
  | .atsResponse _ => none
  | .priResponse _ => none
  | .atsInvalidation _ _ _ _ => none
  | .invalidate _ _ => none
  | .s2Invalidate _ _ => none
  | .invalidationComplete _ _ => none
  | .resolveRetry _ _ => none
  | .resolveFail _ _ => none
  | .s2ResolveRetry _ => none
  | .s2ResolveFail _ => none
  | .frameFormat _ _ => none
  | .frameFormatComplete _ => none
  | .hostWindowAccess _ => none
  | .ingressData _ => none
  | .evtimerExpiry _ _ => none
  | .signal _ _ => none
  | .ctxHalt _ _ => none
  | .ctxResume _ _ => none
  | .ctxPreempt _ _ => none
  | .ctxTeardown _ _ => none
  | .stopDeadlineExpiry _ _ => none
  | .drainLimitExpiry _ => none
  | .motifSave _ => none
  | .motifRestore _ _ _ => none
  | .sliceExpiry _ => none
  | .energyTick => none
  | .shareCommit _ => none
  | .thermalEvent _ _ => none
  | .unitRetire _ => none
  | .linkDegrade _ _ _ => none
  | .infieldTest _ => none
  | .scanTestComplete _ _ => none
  | .migrateOut _ => none
  | .migrateIn _ => none
  | .rdreq _ _ => none
  | .rdrsp _ _ => none
  | .putPacket _ _ => none
  | .putack _ _ => none
  | .atomPacket _ _ => none
  | .atomrsp _ _ => none
  | .redPacket _ _ => none
  | .marker _ _ => none
  | .doneCtrl _ _ => none
  | .completeCtrl _ _ => none
  | .failCtrl _ _ => none
  | .snapreq _ _ => none
  | .snapans _ _ => none
  | .packetForward _ _ => none
  | .requestTimeout _ => none
  | .queueStallReport _ _ _ => none
  | .linkFail _ => none
  | .linkTraining _ _ _ _ => none
  | .fumaroleStream _ _ => none
  | .chipDone _ _ => none
  | .colourFree _ _ => none
  | .cutAbort _ _ => none
  | .restore _ _ => none
  | .restoreChip _ => none
  | .powerOnReset _ => none
  | .perstPort1 => none
  | .pfFlr => none
  | .vfFlr _ => none
  | .recoveryLoad _ => none
  | .floorAdvance _ => none
  | .getMeasurements _ => none
  | .lmsSignatureRequest _ => none
  | .featureAccept _ _ => none
  | .queueEnable _ _ => none
  | .winsliceWrite _ _ => none
  | .quadcapWrite _ _ => none
  | .ringownWrite _ _ => none
  | .waymaskWrite _ _ => none
  | .invcountRead _ _ => none
  | .ctxstatRead _ => none
  | .registerWrite _ _ _ _ => none
  | .unassignedOpcode _ => none
  | .accessPerformed _ => none
  | .kStep _ => none
  | .arbiterSlot _ _ _ => none
  | .queueHeadWrite _ _ => none
  | .packetDropped _ _ => none
  | .flitReplay _ => none
  | .restoreConfirmation _ _ => none

/-- The special-register numbers of R123. -/
def specialNumbers : List Nat :=
  [0x00, 0x01, 0x02, 0x03, 0x04, 0x05, 0x06, 0x07, 0x08, 0x09, 0x10, 0x20, 0x21, 0x30, 0x31, 0x32, 0x33,
   0x40, 0x41, 0x42, 0x50, 0x51, 0x60, 0x61, 0x70, 0x71, 0x72, 0x73, 0x74, 0x75, 0x76, 0x77, 0x80, 0x81]

/-- FCVT's b code and element index (R157). -/
def fcvtLegal (w : FmtA) : Bool :=
  let dst := (w.b.extractLsb' 4 3).toNat
  let src := (w.b.extractLsb' 0 3).toNat
  let idx := w.fn.toNat
  decide (dst ≤ 5) && !w.b.getLsbD 3 && decide (src ≤ 5) &&
    decide (idx < (if src ≤ 1 then 1 else if src ≤ 3 then 2 else 4))

/-- REDUX's and SCAN's b code (R167). -/
def reduxLegal (w : FmtA) (excl : Bool) : Bool :=
  let o := (w.b.extractLsb' 4 3).toNat
  decide (w.fn.toNat ≤ 5) && decide (o ≤ 5) && (decide (w.fn.toNat < 4) || decide (o ≤ 2)) &&
    (excl || !w.b.getLsbD 3) && w.b.extractLsb' 0 3 == 0

/-- Step 3 of R77 and R78 for a format A word: no reserved fn and no non-zero unused field. -/
def legalA (op : Nat) (w : FmtA) : Bool :=
  let fn := w.fn.toNat
  let d0 := w.d == 0
  let a0 := w.a == 0
  let b0 := w.b == 0
  match op with
  | 0x00 | 0x01 | 0x02 | 0x03 | 0x04 | 0x05 | 0x06 | 0x07 | 0x08 | 0x09 | 0x0E | 0x0F | 0x10 => true
  | 0x0A | 0x0B | 0x0C | 0x0D | 0x11 => fn == 0 || fn == 2
  | 0x12 | 0x13 | 0x14 => (fn == 0 || fn == 2) && b0
  | 0x15 | 0x38 | 0x39 | 0x3A => decide (fn ≤ 1)
  | 0x16 | 0x1E => fn == 0
  | 0x17 | 0x18 | 0x19 => true
  | 0x1A => decide (fn ≤ 3)
  | 0x1B => b0
  | 0x1C | 0x1D => fn == 0 || fn == 2
  | 0x1F => decide (4 ≤ fn)
  | 0x42 | 0x45 | 0x46 | 0x51 => fn == 0 && d0 && b0
  | 0x44 => fn == 0 && b0
  | 0x47 | 0x48 | 0x49 | 0x50 => fn == 0 && d0 && a0 && b0
  | 0x4B => fn == 0
  | 0x4C | 0x58 => fn == 0 && d0
  | 0x4D => decide (fn ≤ 3) && d0 && b0
  | 0x52 => decide (fn ≤ 2) && b0 && (fn != 0 || a0)
  | 0x56 => decide (fn ≤ 1) && b0
  | 0x57 => fn == 0 && b0
  | 0x60 | 0x61 | 0x62 | 0x63 | 0x64 | 0x65 | 0x66 | 0x68 | 0x7B | 0x7C | 0x7E => decide (fn ≤ 3)
  | 0x67 => true
  | 0x69 | 0x6A | 0x6B | 0x71 | 0x7A | 0x7D => decide (fn ≤ 3) && b0
  | 0x6C | 0x6D | 0x6E | 0x6F | 0x70 => (fn == 0 || fn == 2 || fn == 3) && b0
  | 0x72 => fcvtLegal w
  | 0x73 => fn == 0 && decide ((w.b.extractLsb' 0 3).toNat ≤ 3)
  | 0x74 => decide (fn ≤ 5)
  | 0x75 | 0x76 | 0x77 | 0x78 => decide (fn ≤ 5) && b0
  | 0x79 => fn == 2 || fn == 3
  | 0x80 => decide (fn ≤ 4)
  | 0x81 => decide (fn ≤ 2) && b0
  | 0x82 => fn == 0 && b0
  | 0x83 => reduxLegal w false
  | 0x84 => reduxLegal w true
  | 0x85 => decide (fn ≤ 1) && b0
  | 0x8C | 0x8D | 0x8F | 0x98 => true
  | 0x8E => fn != 2 && fn != 3 && decide (w.d.toNat ≤ 1)
  | 0x90 => decide (fn ≤ 1) && d0 && a0 && b0
  | 0x91 | 0x92 => fn == 0 && d0
  | 0x94 => fn == 0 && b0
  | 0x95 => decide (fn ≤ 3) && (if fn == 0 then b0 else d0)
  | 0x96 | 0x97 => decide (fn ≤ 2)
  | 0xA0 | 0xA1 | 0xAB | 0xB0 | 0xB1 | 0xB2 => fn == 0
  | 0xA2 => decide (fn ≤ 6)
  | 0xA3 => fn == 0 && d0
  | 0xA4 => a0 && b0
  | 0xA5 => decide (fn ≤ 3) && a0
  | 0xA6 | 0xA9 => fn == 0 && d0 && b0
  | 0xA7 => (fn == 0 && d0 && b0) || (fn == 1 && d0 && a0 && b0)
  | 0xA8 => decide (fn ≤ 3)
  | 0xAA => decide (fn ≤ 1) && b0
  | 0xAC => decide (fn ≤ 1) && b0
  | 0xAD => fn == 0 && a0 && b0
  | 0xAE => fn == 0 && b0
  | 0xAF => decide (fn ≤ 3) && b0
  | 0xB3 | 0xB4 => fn == 0 && b0
  | 0xC0 => decide (fn ≤ 1) && a0 && b0
  | 0xC1 | 0xC2 => fn == 0
  | 0xC3 => decide (fn ≤ 1) && b0
  | 0xC4 => decide (fn ≤ 3) && d0
  | 0xC5 => fn == 0 && b0
  | 0xC6 | 0xC7 => fn == 0 && d0 && a0 && decide (w.b.toNat < 16)
  | 0xC8 | 0xD4 | 0xD5 | 0xD6 | 0xD7 | 0xD9 => fn == 0
  | 0xCE | 0xDA => fn == 0 && d0 && a0 && b0
  | 0xCF => fn == 0 && d0
  | 0xD0 | 0xD1 => fn == 0
  | 0xD2 => decide (fn ≤ 1)
  | 0xD3 => fn == 0 && b0
  | 0xD8 => fn == 0 && d0 && decide (w.b.toNat < 4)
  | _ => false

/-- Step 3 of R77 and R78 for every format. -/
def Shape.legal : Shape → Bool
  | .a op w => legalA op w
  | .b op w =>
    match op with
    | 0x30 => w.d == 0
    | 0x4A => w.d == 0 && decide (w.imm.toNat < 32)
    | 0x53 => w.a == 0
    | _ => true
  | .bc _ _ => true
  | .bf _ w => decide (w.pos.toNat + (if w.len == 0 then 32 else w.len.toNat) ≤ 32)
  | .u op w =>
    match op with
    | 0x2C => w.imm.extractLsb' 15 2 == 0
    | 0x2E | 0x2F => specialNumbers.contains w.imm.toNat
    | 0x4E | 0x4F | 0x55 => w.d == 0
    | _ => true
  | .j op w =>
    match op with
    | 0x40 | 0xCD => decide (w.fn.toNat ≤ 6) && (w.fn != 0 || w.a == 0)
    | 0x41 => decide (w.fn.toNat ≤ 5)
    | _ => w.fn == 0
  | .l _ _ => true
  | .m op w =>
    match op with
    | 0x87 | 0x89 | 0x8B => decide (w.w.toNat ≤ 4)
    | 0x93 => decide (w.w.toNat ≤ 1) && w.d == 0
    | 0xCB | 0xCC => w.w == 2 || w.w == 3
    | _ => decide (w.w.toNat ≤ 6)

/-- What the rm field of a prefix means before an instruction (R71, R72). -/
inductive RmUse where
  | unused
  | rounding
  | loadOrd
  | storeOrd
  | atomOrd
  | redOrd
  | fenceOrd
  deriving DecidableEq, Repr

/-- The prefix fields an instruction accepts (R71). -/
structure Accepts where
  mask : Bool := false
  rm : RmUse := .unused
  c : Bool := false
  z : Bool := false
  sat : Bool := false
  mod : Bool := false
  xl : Bool := false
  deriving DecidableEq, Repr

/-- The row of R71's table for an opcode. -/
def acceptsOf (op : Nat) : Accepts :=
  if op = 0x1C ∨ op = 0x1D then { mask := true, z := true }
  else if op ≤ 0x1F then
    { mask := true, z := true, xl := true
      c := op = 0x04 ∨ op = 0x17 ∨ op = 0x16 ∨ op = 0x1E ∨ op = 0x1F
      sat := op = 0x00 ∨ op = 0x01 ∨ op = 0x02 ∨ op = 0x04 ∨ op = 0x1F }
  else if op = 0x30 ∨ op = 0x2E ∨ op = 0x2F then {}
  else if op ≤ 0x3C then
    { mask := true, z := true, c := op = 0x39
      sat := op = 0x20 ∨ op = 0x21 ∨ op = 0x36 ∨ op = 0x38 ∨ op = 0x39
      xl := ¬ (op = 0x2B ∨ op = 0x2C ∨ op = 0x2D ∨ op = 0x31 ∨ op = 0x32) }
  else if op = 0x40 ∨ op = 0x41 ∨ (0x43 ≤ op ∧ op ≤ 0x47) then { mask := true }
  else if op ≤ 0x58 then {}
  else if op ≤ 0x7E then
    let rounds := ¬ (op = 0x64 ∨ op = 0x65 ∨ op = 0x66 ∨ op = 0x67 ∨ op = 0x71 ∨ op = 0x7C)
    { mask := true, z := true, xl := true
      rm := if rounds then .rounding else .unused
      sat := rounds
      c := op = 0x63 ∨ op = 0x79
      mod := ¬ (op = 0x71 ∨ (0x74 ≤ op ∧ op ≤ 0x78)) }
  else if op = 0x83 ∨ op = 0x84 then { mask := true, z := true, rm := .rounding, sat := true }
  else if op ≤ 0x85 then { mask := true, z := true }
  else if op = 0x86 ∨ op = 0x88 ∨ op = 0x8A ∨ op = 0x96 then
    { mask := true, rm := .loadOrd, z := true, mod := true }
  else if op = 0x87 ∨ op = 0x89 ∨ op = 0x8B ∨ op = 0x97 then { mask := true, rm := .storeOrd, mod := true }
  else if op = 0x8E then { mask := true, rm := .redOrd, mod := true }
  else if op = 0x90 then { mask := true, rm := .fenceOrd, mod := true }
  else if op = 0x8C ∨ op = 0x8D ∨ op = 0x8F ∨ op = 0x98 then
    { mask := true, rm := .atomOrd, c := true, z := true, mod := true }
  else if op = 0x99 then { mask := true, z := true }
  else if 0x91 ≤ op ∧ op ≤ 0x95 then { mask := true }
  else {}

/-- The ordering codes of R72. -/
def rmLegal (use : RmUse) (rm : BitVec 3) : Bool :=
  match use with
  | .unused => rm == 0
  | .rounding => rm != 7
  | .loadOrd => rm == 0 || rm == 1 || rm == 4 || rm == 5
  | .storeOrd => rm == 0 || rm == 2 || rm == 4 || rm == 5
  | .atomOrd => decide (rm.toNat ≤ 3)
  | .redOrd => rm == 0 || rm == 2
  | .fenceOrd => rm == 1 || rm == 2 || rm == 3

/-- A field value that names a vector register (R11). -/
def Reg.isVector (r : Reg) : Bool := decide (r.toNat ≤ 91)

/-- A field value that names a queue register (R16). -/
def Reg.isQueue (r : Reg) : Bool := decide (92 ≤ r.toNat ∧ r.toNat ≤ 95)

/-- A field value that names a scalar register (R11). -/
def Reg.isScalar (r : Reg) : Bool := decide (96 ≤ r.toNat)

/-- The source field a of a shape, where it has one (R69's xl acts on it). -/
def Shape.srcA : Shape → Option Reg
  | .a _ w => some w.a
  | .b _ w => some w.a
  | .bc _ w => some w.a
  | .bf _ w => some w.a
  | .u _ _ => none
  | .j _ w => some w.a
  | .l _ _ => none
  | .m _ w => some w.a

/-- The destination field d of a shape, where it has one. -/
def Shape.dst : Shape → Option Reg
  | .a _ w => some w.d
  | .b _ w => some w.d
  | .bc _ w => some w.d
  | .bf _ w => some w.d
  | .u _ w => some w.d
  | .j _ _ => none
  | .l _ _ => none
  | .m _ w => some w.d

/-- sat where the type allows it: signed integer types, and the operations R104, R109 and R167 name (R71, R93). -/
def satFits (s : Shape) : Bool :=
  match s with
  | .a op w =>
    if op ≤ 0x04 then w.fn == 0 || w.fn == 2 || w.fn == 4 || w.fn == 6
    else if op = 0x1F then w.fn == 4 || w.fn == 6
    else if op = 0x38 ∨ op = 0x39 then w.fn == 0
    else if op = 0x83 ∨ op = 0x84 then
      w.b.extractLsb' 4 3 == 0 && (w.fn == 4 || w.fn == 5 || w.fn == 0 || w.fn == 2)
    else true
  | _ => true

/-- rm where the operation rounds: float .add of REDUX and SCAN (R167). -/
def rmFits (s : Shape) : Bool :=
  match s with
  | .a op w =>
    if op = 0x83 ∨ op = 0x84 then w.b.extractLsb' 4 3 == 0 && (w.fn == 4 || w.fn == 5) else true
  | _ => true

/-- mod where the instruction has a float source (R158). -/
def modFits (s : Shape) : Bool :=
  match s with
  | .a op w => if op = 0x73 then w.b.getLsbD 6 else true
  | _ => true

/-- The scope of a memory instruction (R72): 7 is reserved, plain loads and stores take none, and a
fence of every page kind needs at least package scope (R238, R266). -/
def scopeFits (use : RmUse) (s : Shape) (p : Pfx) : Bool :=
  match use with
  | .unused => true
  | .rounding => true
  | .loadOrd | .storeOrd => p.mod != 7 && (p.mod == 0 || p.rm == 1 || p.rm == 2)
  | .atomOrd | .redOrd => p.mod != 7
  | .fenceOrd =>
    p.mod != 7 && (match s with
      | .a _ w => w.fn == 0 || decide (4 ≤ p.mod.toNat)
      | _ => true)

/-- Step 4 of R77: every field of the prefix is one the instruction can use (R71, R72). -/
def Pfx.fits (p : Pfx) (s : Shape) : Bool :=
  let a := acceptsOf s.op
  (p.mask == 0 || a.mask) &&
  rmLegal a.rm p.rm && (p.rm == 0 || rmFits s) &&
  (p.c == 0 || a.c) &&
  (!p.z || (a.z && (match s.dst with
    | some d => !Reg.isScalar d
    | none => false))) &&
  (!p.sat || (a.sat && satFits s)) &&
  (p.mod == 0 || (a.mod && modFits s)) && scopeFits a.rm s p &&
  (p.xl == 0 || (a.xl && decide (p.xl.toNat ≤ 12) && (match s.srcA with
    | some r => !Reg.isScalar r
    | none => false)))

/-- An opcode of the sequencer's stream (R75). -/
def seqOpcode (op : Nat) : Bool := decide (0xC0 ≤ op ∧ op ≤ 0xDA)

/-- FENCE is the one instruction that needs its prefix (R72). -/
def pfxNeeded (op : Nat) : Bool := op == 0x90

/-- A prefix that names a mask triple names one of s1 to s26 (R69). -/
def Pfx.maskLegal (p : Pfx) : Bool := decide (p.mask.toNat ≤ 26)

/-- The op code that each packet step expects of its packet (R412, R451). -/
def Instr.packetOp : Instr → Option (Packet × Nat)
  | .rdreq _ p => some (p, 1)
  | .rdrsp _ p => some (p, 2)
  | .putPacket _ p => some (p, 3)
  | .putack _ p => some (p, 4)
  | .atomPacket _ p => some (p, 5)
  | .atomrsp _ p => some (p, 6)
  | .redPacket _ p => some (p, 7)
  | .marker _ p => some (p, 8)
  | .doneCtrl _ p => some (p, 9)
  | .completeCtrl _ p => some (p, 9)
  | .failCtrl _ p => some (p, 9)
  | .snapreq _ p => some (p, 9)
  | .snapans _ p => some (p, 9)
  | _ => none

/-- Whether TINV's two rows are kept apart by fn (R295). -/
def Instr.tinvForm : Instr → Bool
  | .tinv _ w => w.fn == 0
  | .tinvAll _ w => w.fn == 1
  | _ => true

/-- A well-formed instruction: the static checks of R77 and R78 pass; a packet step has a packet of its op. -/
def Instr.wf (i : Instr) : Bool :=
  match i.shape with
  | some (p, s) =>
    s.legal && i.tinvForm &&
      (match p with
        | none => !pfxNeeded s.op
        | some p => p.maskLegal && p.fits s)
  | none =>
    match i.packetOp with
    | some (p, op) => p.op.toNat == op
    | none => true

end Sys2Proof
end

