-- ==== Sys2Proof/Decode.lean ====
section
/-! DEFINITION. Decoding the two instruction streams (R62 to R79) and, after it, the encoder. Decoding builds the
instruction from the fields of its format and then applies the checks of R77 or R78; every rejection has a name. -/

namespace Sys2Proof

/-- Why words are no instruction of their stream (R77 to R79). -/
inductive DecodeError where
  /-- Fewer bytes than an instruction needs. -/
  | tooShort
  /-- A prefix followed by a prefix (R77 step 1). -/
  | pfxThenPfx
  /-- A prefix whose mask field is 27 to 31 (R77 step 1). -/
  | pfxMask
  /-- An unassigned opcode (R73). -/
  | unassigned
  /-- An opcode of the other stream, a prefix in the sequencer's stream included (R75, R78). -/
  | wrongStream
  /-- FENCE with no prefix (R72). -/
  | fenceAlone
  /-- A reserved field value, a reserved combination or a non-zero unused field (R65, R68). -/
  | reservedField
  /-- A prefix field that is reserved or that the instruction cannot use (R71, R72). -/
  | pfxField
  deriving DecidableEq, Repr

/-- The opcode of a word (R62). -/
def wordOp (w : Word) : Nat := (w.extractLsb' 24 8).toNat

/-- Format A (R63). -/
def FmtA.ofWord (w : Word) : FmtA :=
  { fn := w.extractLsb' 21 3, d := w.extractLsb' 14 7, a := w.extractLsb' 7 7, b := w.extractLsb' 0 7 }

/-- Format B (R63). -/
def FmtB.ofWord (w : Word) : FmtB :=
  { d := w.extractLsb' 17 7, a := w.extractLsb' 10 7, imm := w.extractLsb' 0 10 }

/-- Format BC of CMPI and SETCCI (R63). -/
def FmtBC.ofWord (w : Word) : FmtBC :=
  { d := w.extractLsb' 17 7, a := w.extractLsb' 10 7, cond := w.extractLsb' 7 3, imm := w.extractLsb' 0 7 }

/-- Format BC of BFEI and BFII (R63). -/
def FmtBF.ofWord (w : Word) : FmtBF :=
  { d := w.extractLsb' 17 7, a := w.extractLsb' 10 7, pos := w.extractLsb' 5 5, len := w.extractLsb' 0 5 }

/-- Format U (R63). -/
def FmtU.ofWord (w : Word) : FmtU := { d := w.extractLsb' 17 7, imm := w.extractLsb' 0 17 }

/-- Format J (R63). -/
def FmtJ.ofWord (w : Word) : FmtJ :=
  { fn := w.extractLsb' 21 3, a := w.extractLsb' 14 7, off := w.extractLsb' 0 14 }

/-- Format L (R63). -/
def FmtL.ofWord (w : Word) : FmtL := { off := w.extractLsb' 0 24 }

/-- Format M (R63). -/
def FmtM.ofWord (w : Word) : FmtM :=
  { w := w.extractLsb' 21 3, d := w.extractLsb' 14 7, a := w.extractLsb' 7 7, off := w.extractLsb' 0 7 }

/-- The fields of a prefix word (R69). -/
def Pfx.ofWord (w : Word) : Pfx :=
  { mask := w.extractLsb' 19 5, rm := w.extractLsb' 16 3, c := w.extractLsb' 9 7, z := w.getLsbD 8
    sat := w.getLsbD 7, mod := w.extractLsb' 4 3, xl := w.extractLsb' 0 4 }

/-- The opcode map: the instruction whose opcode stands in the word, its fields read by its format (R73, R74). -/
def instrOf (p : Option Pfx) (w : Word) : Option Instr :=
  match wordOp w with
  | 0x00 => some (.add p (FmtA.ofWord w))
  | 0x01 => some (.sub p (FmtA.ofWord w))
  | 0x02 => some (.mul p (FmtA.ofWord w))
  | 0x03 => some (.mulh p (FmtA.ofWord w))
  | 0x04 => some (.mad p (FmtA.ofWord w))
  | 0x05 => some (.div p (FmtA.ofWord w))
  | 0x06 => some (.rem p (FmtA.ofWord w))
  | 0x07 => some (.min p (FmtA.ofWord w))
  | 0x08 => some (.max p (FmtA.ofWord w))
  | 0x09 => some (.absd p (FmtA.ofWord w))
  | 0x0A => some (.and p (FmtA.ofWord w))
  | 0x0B => some (.or p (FmtA.ofWord w))
  | 0x0C => some (.xor p (FmtA.ofWord w))
  | 0x0D => some (.andn p (FmtA.ofWord w))
  | 0x0E => some (.shl p (FmtA.ofWord w))
  | 0x0F => some (.shr p (FmtA.ofWord w))
  | 0x10 => some (.sra p (FmtA.ofWord w))
  | 0x11 => some (.rotl p (FmtA.ofWord w))
  | 0x12 => some (.clz p (FmtA.ofWord w))
  | 0x13 => some (.popc p (FmtA.ofWord w))
  | 0x14 => some (.brev p (FmtA.ofWord w))
  | 0x15 => some (.bfe p (FmtA.ofWord w))
  | 0x16 => some (.bfi p (FmtA.ofWord w))
  | 0x17 => some (.sel p (FmtA.ofWord w))
  | 0x18 => some (.cmp p (FmtA.ofWord w))
  | 0x19 => some (.setcc p (FmtA.ofWord w))
  | 0x1A => some (.lea p (FmtA.ofWord w))
  | 0x1B => some (.mov p (FmtA.ofWord w))
  | 0x1C => some (.readlane p (FmtA.ofWord w))
  | 0x1D => some (.writelane p (FmtA.ofWord w))
  | 0x1E => some (.prmt p (FmtA.ofWord w))
  | 0x1F => some (.dot4 p (FmtA.ofWord w))
  | 0x20 => some (.addi p (FmtB.ofWord w))
  | 0x21 => some (.muli p (FmtB.ofWord w))
  | 0x22 => some (.andi p (FmtB.ofWord w))
  | 0x23 => some (.ori p (FmtB.ofWord w))
  | 0x24 => some (.xori p (FmtB.ofWord w))
  | 0x25 => some (.shli p (FmtB.ofWord w))
  | 0x26 => some (.shri p (FmtB.ofWord w))
  | 0x27 => some (.srai p (FmtB.ofWord w))
  | 0x28 => some (.cmpi p (FmtBC.ofWord w))
  | 0x29 => some (.mini p (FmtB.ofWord w))
  | 0x2A => some (.maxi p (FmtB.ofWord w))
  | 0x2B => some (.lui p (FmtU.ofWord w))
  | 0x2C => some (.llo p (FmtU.ofWord w))
  | 0x2D => some (.luih p (FmtU.ofWord w))
  | 0x2E => some (.movs p (FmtU.ofWord w))
  | 0x2F => some (.movsw p (FmtU.ofWord w))
  | 0x30 => some (.window p (FmtB.ofWord w))
  | 0x31 => some (.fli p (FmtU.ofWord w))
  | 0x32 => some (.movi p (FmtU.ofWord w))
  | 0x33 => some (.bfei p (FmtBF.ofWord w))
  | 0x34 => some (.bfii p (FmtBF.ofWord w))
  | 0x35 => some (.rotli p (FmtB.ofWord w))
  | 0x36 => some (.addip p (FmtB.ofWord w))
  | 0x37 => some (.setcci p (FmtBC.ofWord w))
  | 0x38 => some (.mulw p (FmtA.ofWord w))
  | 0x39 => some (.madw p (FmtA.ofWord w))
  | 0x3A => some (.addp p (FmtA.ofWord w))
  | 0x3B => some (.shlp p (FmtB.ofWord w))
  | 0x3C => some (.shrp p (FmtB.ofWord w))
  | 0x40 => some (.bra p (FmtJ.ofWord w))
  | 0x41 => some (.bdiv p (FmtJ.ofWord w))
  | 0x42 => some (.join p (FmtA.ofWord w))
  | 0x43 => some (.call p (FmtL.ofWord w))
  | 0x44 => some (.calli p (FmtA.ofWord w))
  | 0x45 => some (.ret p (FmtA.ofWord w))
  | 0x46 => some (.jmpi p (FmtA.ofWord w))
  | 0x47 => some (.exit p (FmtA.ofWord w))
  | 0x48 => some (.yield p (FmtA.ofWord w))
  | 0x49 => some (.nop p (FmtA.ofWord w))
  | 0x4A => some (.bar p (FmtB.ofWord w))
  | 0x4B => some (.boarr p (FmtA.ofWord w))
  | 0x4C => some (.bowait p (FmtA.ofWord w))
  | 0x4D => some (.tlwait p (FmtA.ofWord w))
  | 0x4E => some (.trap p (FmtU.ofWord w))
  | 0x4F => some (.brk p (FmtU.ofWord w))
  | 0x50 => some (.rft p (FmtA.ofWord w))
  | 0x51 => some (.qclose p (FmtA.ofWord w))
  | 0x52 => some (.qstat p (FmtA.ofWord w))
  | 0x53 => some (.getpc p (FmtB.ofWord w))
  | 0x54 => some (.loop p (FmtJ.ofWord w))
  | 0x55 => some (.svc p (FmtU.ofWord w))
  | 0x56 => some (.evwait p (FmtA.ofWord w))
  | 0x57 => some (.qtry p (FmtA.ofWord w))
  | 0x58 => some (.boinit p (FmtA.ofWord w))
  | 0x60 => some (.fadd p (FmtA.ofWord w))
  | 0x61 => some (.fsub p (FmtA.ofWord w))
  | 0x62 => some (.fmul p (FmtA.ofWord w))
  | 0x63 => some (.ffma p (FmtA.ofWord w))
  | 0x64 => some (.fmin p (FmtA.ofWord w))
  | 0x65 => some (.fmax p (FmtA.ofWord w))
  | 0x66 => some (.fcmp p (FmtA.ofWord w))
  | 0x67 => some (.fsetcc p (FmtA.ofWord w))
  | 0x68 => some (.fdiv p (FmtA.ofWord w))
  | 0x69 => some (.fsqrt p (FmtA.ofWord w))
  | 0x6A => some (.frcp p (FmtA.ofWord w))
  | 0x6B => some (.frsq p (FmtA.ofWord w))
  | 0x6C => some (.fexp2 p (FmtA.ofWord w))
  | 0x6D => some (.flog2 p (FmtA.ofWord w))
  | 0x6E => some (.fsin p (FmtA.ofWord w))
  | 0x6F => some (.fcos p (FmtA.ofWord w))
  | 0x70 => some (.ftanh p (FmtA.ofWord w))
  | 0x71 => some (.fclass p (FmtA.ofWord w))
  | 0x72 => some (.fcvt p (FmtA.ofWord w))
  | 0x73 => some (.icvt p (FmtA.ofWord w))
  | 0x74 => some (.fpack p (FmtA.ofWord w))
  | 0x75 => some (.funpk p (FmtA.ofWord w))
  | 0x76 => some (.qnt p (FmtA.ofWord w))
  | 0x77 => some (.qntc p (FmtA.ofWord w))
  | 0x78 => some (.dqnt p (FmtA.ofWord w))
  | 0x79 => some (.fdot2 p (FmtA.ofWord w))
  | 0x7A => some (.frnd p (FmtA.ofWord w))
  | 0x7B => some (.fscale p (FmtA.ofWord w))
  | 0x7C => some (.fsgn p (FmtA.ofWord w))
  | 0x7D => some (.ffrc p (FmtA.ofWord w))
  | 0x7E => some (.fdiva p (FmtA.ofWord w))
  | 0x80 => some (.shfl p (FmtA.ofWord w))
  | 0x81 => some (.vote p (FmtA.ofWord w))
  | 0x82 => some (.ballot p (FmtA.ofWord w))
  | 0x83 => some (.redux p (FmtA.ofWord w))
  | 0x84 => some (.scan p (FmtA.ofWord w))
  | 0x85 => some (.match p (FmtA.ofWord w))
  | 0x86 => some (.ld p (FmtM.ofWord w))
  | 0x87 => some (.st p (FmtM.ofWord w))
  | 0x88 => some (.lds p (FmtM.ofWord w))
  | 0x89 => some (.sts p (FmtM.ofWord w))
  | 0x8A => some (.ldp p (FmtM.ofWord w))
  | 0x8B => some (.stp p (FmtM.ofWord w))
  | 0x8C => some (.atom p (FmtA.ofWord w))
  | 0x8D => some (.atom64 p (FmtA.ofWord w))
  | 0x8E => some (.red p (FmtA.ofWord w))
  | 0x8F => some (.atoms p (FmtA.ofWord w))
  | 0x90 => some (.fence p (FmtA.ofWord w))
  | 0x91 => some (.hflush p (FmtA.ofWord w))
  | 0x92 => some (.cinv p (FmtA.ofWord w))
  | 0x93 => some (.pref p (FmtM.ofWord w))
  | 0x94 => some (.privaddr p (FmtA.ofWord w))
  | 0x95 => some (.cconv p (FmtA.ofWord w))
  | 0x96 => some (.ldt p (FmtA.ofWord w))
  | 0x97 => some (.stt p (FmtA.ofWord w))
  | 0x98 => some (.atoms64 p (FmtA.ofWord w))
  | 0x99 => some (.ldk p (FmtM.ofWord w))
  | 0xA0 => some (.xcopy p (FmtA.ofWord w))
  | 0xA1 => some (.xtile p (FmtA.ofWord w))
  | 0xA2 => some (.xform p (FmtA.ofWord w))
  | 0xA3 => some (.xyield p (FmtA.ofWord w))
  | 0xA4 => some (.tlread p (FmtA.ofWord w))
  | 0xA5 => some (.tlinc p (FmtA.ofWord w))
  | 0xA6 => some (.tdef p (FmtA.ofWord w))
  | 0xA7 => some (if w.extractLsb' 21 3 == 1 then .tinvAll p (FmtA.ofWord w) else .tinv p (FmtA.ofWord w))
  | 0xA8 => some (.tbnd p (FmtA.ofWord w))
  | 0xA9 => some (.tseal p (FmtA.ofWord w))
  | 0xAA => some (.tstat p (FmtA.ofWord w))
  | 0xAB => some (.seedscan p (FmtA.ofWord w))
  | 0xAC => some (.seedexp p (FmtA.ofWord w))
  | 0xAD => some (.snap p (FmtA.ofWord w))
  | 0xAE => some (.snapwait p (FmtA.ofWord w))
  | 0xAF => some (.snapstat p (FmtA.ofWord w))
  | 0xB0 => some (.xgath p (FmtA.ofWord w))
  | 0xB1 => some (.xscat p (FmtA.ofWord w))
  | 0xB2 => some (.xfill p (FmtA.ofWord w))
  | 0xB3 => some (.xcancel p (FmtA.ofWord w))
  | 0xB4 => some (.xstat p (FmtA.ofWord w))
  | 0xC0 => some (.mzero (FmtA.ofWord w))
  | 0xC1 => some (.mma (FmtA.ofWord w))
  | 0xC2 => some (.mmas (FmtA.ofWord w))
  | 0xC3 => some (.mstore (FmtA.ofWord w))
  | 0xC4 => some (.mepi (FmtA.ofWord w))
  | 0xC5 => some (.mldacc (FmtA.ofWord w))
  | 0xC6 => some (.msig (FmtA.ofWord w))
  | 0xC7 => some (.mwait (FmtA.ofWord w))
  | 0xC8 => some (.kadd (FmtA.ofWord w))
  | 0xC9 => some (.kaddi (FmtB.ofWord w))
  | 0xCA => some (.kli (FmtU.ofWord w))
  | 0xCB => some (.kld (FmtM.ofWord w))
  | 0xCC => some (.kst (FmtM.ofWord w))
  | 0xCD => some (.kbra (FmtJ.ofWord w))
  | 0xCE => some (.kend (FmtA.ofWord w))
  | 0xCF => some (.mfetch (FmtA.ofWord w))
  | 0xD0 => some (.mrowmax (FmtA.ofWord w))
  | 0xD1 => some (.mrowsum (FmtA.ofWord w))
  | 0xD2 => some (.mscale (FmtA.ofWord w))
  | 0xD3 => some (.mcopy (FmtA.ofWord w))
  | 0xD4 => some (.ksub (FmtA.ofWord w))
  | 0xD5 => some (.kshl (FmtA.ofWord w))
  | 0xD6 => some (.kand (FmtA.ofWord w))
  | 0xD7 => some (.kmul (FmtA.ofWord w))
  | 0xD8 => some (.mwaitt (FmtA.ofWord w))
  | 0xD9 => some (.kor (FmtA.ofWord w))
  | 0xDA => some (.myield (FmtA.ofWord w))
  | _ => none

/-- The legality that R77 steps 3 and 4 judge of one strand word and the prefix before it. -/
def decodeOne (p : Option Pfx) (w : Word) : Except DecodeError Instr :=
  if wordOp w = 0xFF then .error .pfxThenPfx
  else if seqOpcode (wordOp w) then .error .wrongStream
  else
    match instrOf p w with
    | none => .error .unassigned
    | some i =>
      if i.wf then .ok i
      else if p.isNone && pfxNeeded (wordOp w) then .error .fenceAlone
      else
        match i.shape with
        | some (_, s) => if s.legal then .error .pfxField else .error .reservedField
        | none => .error .unassigned

/-- One instruction of the strand stream from the words at the PC, and how many bytes it takes (R21, R77). -/
def decodeStrand : List Word → Except DecodeError (Instr × Nat)
  | [] => .error .tooShort
  | w0 :: rest =>
    if wordOp w0 = 0xFF then
      match rest with
      | [] => .error .tooShort
      | w1 :: _ =>
        if wordOp w1 = 0xFF then .error .pfxThenPfx
        else if !(Pfx.ofWord w0).maskLegal then .error .pfxMask
        else (decodeOne (some (Pfx.ofWord w0)) w1).map (fun i => (i, 8))
    else (decodeOne none w0).map (fun i => (i, 4))

/-- One instruction of the sequencer's stream (R78). -/
def decodeSeq (w : Word) : Except DecodeError Instr :=
  if seqOpcode (wordOp w) then
    match instrOf none w with
    | none => .error .unassigned
    | some i => if i.wf then .ok i else .error .reservedField
  else if wordOp w = 0xFF then .error .wrongStream
  else
    match instrOf none w with
    | none => .error .unassigned
    | some _ => .error .wrongStream

/-- A little-endian word from four bytes, byte 0 first (R5, R62). -/
def wordOfBytes (b0 b1 b2 b3 : Byte) : Word := b3 ++ b2 ++ b1 ++ b0

/-- The bytes of a word, byte 0 first (R5). -/
def bytesOfWord (w : Word) : List Byte :=
  [w.extractLsb' 0 8, w.extractLsb' 8 8, w.extractLsb' 16 8, w.extractLsb' 24 8]

/-- The little-endian words that a list of bytes holds; trailing bytes short of a word are left. -/
def wordsOfBytes : List Byte → List Word
  | b0 :: b1 :: b2 :: b3 :: rest => wordOfBytes b0 b1 b2 b3 :: wordsOfBytes rest
  | _ => []

/-- The decoder on bytes as memory holds them: the strand's stream or the sequencer's. -/
def decode (sequencer : Bool) (bytes : List Byte) : Except DecodeError (Instr × Nat) :=
  if sequencer then
    match wordsOfBytes bytes with
    | [] => .error .tooShort
    | w :: _ => (decodeSeq w).map (fun i => (i, 4))
  else decodeStrand (wordsOfBytes bytes)

/-- The instruction that the decoder reads from the bits `w` of a row of the opcode table: the words laid out as
memory holds them, the bits above `nbits` zero. A first word of the sequencer's opcodes is given to the sequencer's decoder. -/
def decodeTableWord (nbits w : Nat) : Option Instr :=
  let v := w % 2 ^ nbits
  let w0 : Word := BitVec.ofNat 32 v
  let w1 : Word := BitVec.ofNat 32 (v / 2 ^ 32)
  match decode (seqOpcode (wordOp w0)) (bytesOfWord w0 ++ bytesOfWord w1) with
  | .ok (i, _) => some i
  | .error _ => none

/-- The word of a shape (R63). -/
def Shape.word : Shape → Word
  | .a op w => BitVec.ofNat 8 op ++ w.fn ++ w.d ++ w.a ++ w.b
  | .b op w => BitVec.ofNat 8 op ++ w.d ++ w.a ++ w.imm
  | .bc op w => BitVec.ofNat 8 op ++ w.d ++ w.a ++ w.cond ++ w.imm
  | .bf op w => BitVec.ofNat 8 op ++ w.d ++ w.a ++ w.pos ++ w.len
  | .u op w => BitVec.ofNat 8 op ++ w.d ++ w.imm
  | .j op w => BitVec.ofNat 8 op ++ w.fn ++ w.a ++ w.off
  | .l op w => BitVec.ofNat 8 op ++ w.off
  | .m op w => BitVec.ofNat 8 op ++ w.w ++ w.d ++ w.a ++ w.off

/-- The prefix word of its fields (R69). -/
def Pfx.word (p : Pfx) : Word :=
  (0xFF : BitVec 8) ++ p.mask ++ p.rm ++ p.c ++ BitVec.ofBool p.z ++ BitVec.ofBool p.sat ++ p.mod ++ p.xl

/-- The encoder: the words of an instruction, prefix first; none for a device step (R63, R69). -/
def Instr.words (i : Instr) : List Word :=
  match i.shape with
  | some (some p, s) => [p.word, s.word]
  | some (none, s) => [s.word]
  | none => []

/-- The bytes of an instruction as memory holds them (R62). -/
def encode (i : Instr) : List Byte := i.words.flatMap bytesOfWord

/-- The stream that an instruction belongs to: true for the sequencer's (R75). -/
def Instr.sequencer (i : Instr) : Bool :=
  match i.shape with
  | some (_, s) => seqOpcode s.op
  | none => false

/-- The word that the illegal-instruction trap delivers for the instruction word (R31, R77). -/
def Instr.mainWord (i : Instr) : Word :=
  match i.shape with
  | some (_, s) => s.word
  | none => 0

/-- The first word of an instruction, its prefix if it has one (R31, R77). -/
def Instr.firstWord (i : Instr) : Word :=
  match i.shape with
  | some (some p, _) => p.word
  | some (none, s) => s.word
  | none => 0

/-- The bytes that an instruction occupies in the strand stream (R21). -/
def Instr.size (i : Instr) : Nat :=
  match i.shape with
  | some (some _, _) => 8
  | _ => 4

end Sys2Proof
end

