-- ==== Sys2Proof/Machine/Lines.lean ====
section
/-! DEFINITION. Lines of 128 bytes: the stored forms and their tags (R270 to R273) and the check value (R280). -/

namespace Sys2Proof.Machine

/-- One bit step of the reflected CRC-32C (R280). -/
def crcBit (c : Word) : Word := if c.getLsbD 0 then (c >>> 1) ^^^ 0x82F63B78 else c >>> 1

/-- One byte into the running CRC (R280). -/
def crcByte (c : Word) (b : Byte) : Word :=
  crcBit (crcBit (crcBit (crcBit (crcBit (crcBit (crcBit (crcBit (c ^^^ b.setWidth 32))))))))

/-- CRC-32C of a byte string, byte 0 first (R280). -/
def crc32c (bs : List Byte) : Word := bs.foldl crcByte 0xFFFFFFFF ^^^ 0xFFFFFFFF

/-- The elements of s bytes of a line, little-endian (R272). -/
def lineElems (s : Nat) : Nat → List Byte → List Nat
  | 0, _ => []
  | n + 1, bs => leNat (bs.take s) :: lineElems s n (bs.drop s)

/-- Whether a line fits the form of elements of s bytes and deltas of t bytes (R272). -/
def fitsDelta (s t : Nat) (line : List Byte) : Bool :=
  let es := lineElems s (128 / s) line
  let base := es.headD 0
  es.all fun e =>
    let d := signed (8 * s) (e + 2 ^ (8 * s) - base)
    decide (-(2 ^ (8 * t - 1) : Int) ≤ d ∧ d < 2 ^ (8 * t - 1))

/-- The element and delta sizes of a base-and-delta tag (R271). -/
def deltaForm (tag : Nat) : Nat × Nat :=
  match tag with
  | 3 => (4, 1)
  | 4 => (4, 2)
  | 5 => (8, 1)
  | 6 => (8, 2)
  | 7 => (8, 4)
  | _ => (2, 1)

/-- The sectors of a tag (R271). -/
def tagSectors (tag : Nat) : Nat :=
  match tag with
  | 0 => 4
  | 1 => 0
  | 2 => 1
  | 3 => 2
  | 4 => 3
  | 5 => 1
  | 6 => 2
  | 7 => 3
  | 8 => 3
  | _ => 0

/-- Whether a line fits the form of a tag (R271, R272). -/
def fitsTag (line : List Byte) (tag : Nat) : Bool :=
  match tag with
  | 0 => true
  | 1 => line.all (· == 0)
  | 2 => let es := lineElems 4 32 line
         es.all (· == es.headD 0)
  | _ => let f := deltaForm tag
         fitsDelta f.1 f.2 line

/-- The tag the home stores: the fewest sectors, then the lower tag; tag 0 without COMP or compression (R273, R422). -/
def encodeTag (line : List Byte) (comp : Bool) : BitVec 4 :=
  if comp then BitVec.ofNat 4 (([1, 2, 5, 3, 6, 4, 7, 8].find? (fitsTag line)).getD 0) else 0

/-- The stored bytes of a line in the form of a tag, filled to whole sectors (R271, R272). -/
def storedForm (line : List Byte) (tag : Nat) : List Byte :=
  let body : List Byte := match tag with
    | 0 => line
    | 1 => []
    | 2 => line.take 4
    | 15 => []
    | _ =>
      let f := deltaForm tag
      let es := lineElems f.1 (128 / f.1) line
      let base := es.headD 0
      leBytes f.1 base ++ (es.drop 1).flatMap fun e => leBytes f.2 (e + 2 ^ (8 * f.1) - base)
  body ++ List.replicate (32 * tagSectors tag - body.length) 0

/-- The expanded line of stored bytes (R272). -/
def expandForm (stored : List Byte) (tag : Nat) : List Byte :=
  match tag with
  | 0 => stored.take 128
  | 1 => List.replicate 128 0
  | 2 => (List.replicate 32 (stored.take 4)).flatten
  | 15 => List.replicate 128 0
  | _ =>
    let f := deltaForm tag
    let base := leNat (stored.take f.1)
    let ds := lineElems f.2 (128 / f.1 - 1) (stored.drop f.1)
    leBytes f.1 base ++ ds.flatMap fun d =>
      leBytes f.1 ((base + wrapN (8 * f.1) (signed (8 * f.2) d)) % 2 ^ (8 * f.1))

end Sys2Proof.Machine
end

