-- ==== Sys2Proof/Machine/Ops.lean ====
section
/-! DEFINITION. The named operations over the state: access to its parts, the error and fault queues, lines of memory
at their homes, the context error, taking a trap and returning from it, and what ends or wakes a strand. -/

namespace Sys2Proof.Machine

/-- The virtual device of a containment identifier (R366). -/
def cidVd (c : Cid) : Nat := (c.extractLsb' 11 5).toNat

/-- The context of a containment identifier (R366). -/
def cidCtx (c : Cid) : Nat := (c.extractLsb' 0 11).toNat

/-- The containment identifier of a device and a context (R366). -/
def cidOf (vd ctx : Nat) : Cid := BitVec.ofNat 16 (vd * 2048 + ctx)

/-- The motif with an identity. -/
def motifOf (s : State) (uid : Nat) : Option Motif := s.motifs.find? fun m => m.uid == uid

/-- The state with one motif changed. -/
def updMotif (s : State) (uid : Nat) (f : Motif → Motif) : State :=
  { s with motifs := updFirst (fun m => m.uid == uid) f s.motifs }

/-- A strand of a motif. -/
def strandOf (m : Motif) (j : Nat) : Option Strand := m.strands.find? fun t => t.index == j

/-- The state with one strand changed. -/
def updStrand (s : State) (uid j : Nat) (f : Strand → Strand) : State :=
  updMotif s uid fun m => { m with strands := updFirst (fun t => t.index == j) f m.strands }

/-- The state with every strand of a context changed. -/
def updCtxStrands (s : State) (cid : Cid) (f : Strand → Strand) : State :=
  let g := fun (m : Motif) => if m.cid = cid then { m with strands := m.strands.map f } else m
  { s with
    motifs := s.motifs.map g
    contexts := s.contexts.map fun c =>
      if c.cid = cid then { c with saved := c.saved.map fun v => { v with motif := g v.motif } } else c }

/-- A virtual device. -/
def vdevOf (s : State) (v : Nat) : VDev := tget VDev.reset s.vdevs v

/-- The state with one virtual device changed. -/
def updVdev (s : State) (v : Nat) (f : VDev → VDev) : State :=
  { s with vdevs := tset VDev.reset s.vdevs v (f (vdevOf s v)) }

/-- The key of a cluster. -/
def clusterKey (die k : Nat) : Nat := die * 64 + k

/-- A cluster. -/
def clusterOf (s : State) (die k : Nat) : Cluster := tget Cluster.reset s.clusters (clusterKey die k)

/-- The state with one cluster changed. -/
def updCluster (s : State) (die k : Nat) (f : Cluster → Cluster) : State :=
  { s with clusters := tset Cluster.reset s.clusters (clusterKey die k) (f (clusterOf s die k)) }

/-- A ring. -/
def ringOf (s : State) (r : Nat) : Ring := tget Ring.reset s.rings r

/-- The state with one ring changed. -/
def updRing (s : State) (r : Nat) (f : Ring → Ring) : State :=
  { s with rings := tset Ring.reset s.rings r (f (ringOf s r)) }

/-- A device frame. -/
def frameOf (s : State) (a : Nat) : Frame := tget Frame.reset s.frames (a / 2 ^ 21)

/-- The stack of a device frame, and the die that owns it (R206). -/
def stackOf (frame : Nat) : Nat := Config.stackOf frame % 12

/-- The die that owns a device frame (R206). -/
def frameDie (frame : Nat) : Nat := stackOf frame / 3

/-- A Feltor link. -/
def linkOf (s : State) (l : Nat) : Link := tget Link.reset s.links l

/-- The state with one link changed. -/
def updLink (s : State) (l : Nat) (f : Link → Link) : State :=
  { s with links := tset Link.reset s.links l (f (linkOf s l)) }

/-- A message to the outside. -/
def send (s : State) (o : Out) : State := { s with out := s.out ++ [o] }

/-- A context's record; one that has not been used is neither stopped nor holds saved motifs. -/
def ctxOf (s : State) (cid : Cid) : Ctx :=
  (s.contexts.find? fun c => c.cid == cid).getD { cid := cid, stopped := false, saved := [] }

/-- The state with a context's record changed. -/
def updCtx (s : State) (cid : Cid) (f : Ctx → Ctx) : State :=
  if s.contexts.any fun c => c.cid == cid then
    { s with contexts := updFirst (fun c => c.cid == cid) f s.contexts }
  else { s with contexts := s.contexts ++ [f (ctxOf s cid)] }

/-- The record of a ring by its number. -/
def recordOf (s : State) (ring n : Nat) : Option Record := s.records.find? fun r => r.ring == ring && r.number == n

/-- The state with one record changed. -/
def updRecord (s : State) (ring n : Nat) (f : Record → Record) : State :=
  { s with records := updFirst (fun r => r.ring == ring && r.number == n) f s.records }

/-- The accepted feature vector of a device (R421). -/
def featureOn (s : State) (vd bit : Nat) : Bool := (vdevOf s vd).accepted.getLsbD bit

/-- The nominal time of a cycle, 5/7 ns, and the wallclock (R4, R123). -/
def wallNow (s : State) : Nat := s.wallBase + s.clock * 5 / 7

/-- A charge of energy events to a device (R395). -/
def charge (s : State) (vd idx n : Nat) : State :=
  updVdev s vd fun v => { v with charge := v.charge + (s.weights.getD idx 0) * n }

/-! ## Error and fault queues -/

/-- Whether a queue block holds no free entry (R423). -/
def QBlock.full (q : QBlock) : Bool := decide (2 ^ (q.ctl.toNat % 32) ≤ (q.tail - q.head).toNat)

/-- Whether a queue block is enabled (R423). -/
def QBlock.enabled (q : QBlock) : Bool := q.ctl.getLsbD 8

/-- The key of a bus address of a function's DMA space (R423). -/
def busKey (fn : Nat) (a : Nat) : Nat := fn * 2 ^ 64 + a % 2 ^ 64

/-- A 32-byte entry written at a queue's tail: the host memory and the block after it (R423). -/
def QBlock.push (q : QBlock) (bus : Memory) (fn : Nat) (entry : List Byte) : Memory × QBlock :=
  let slot := q.tail.toNat % 2 ^ (q.ctl.toNat % 32)
  (writeBytes bus (busKey fn (q.base.toNat + 32 * slot)) entry, { q with tail := q.tail + 1 })

/-- What an error-queue entry says (R368). -/
structure ErrInfo where
  cid : Cid
  code : Nat
  detail : Nat := 0
  addr : Nat := 0
  motif : Nat := 0xFFFFFFFF
  strand : Nat := 0xFF
  die : Nat := 0
  cluster : Nat := 0
  stage : Nat := 0
  deriving DecidableEq, Repr

/-- The bytes of an error-queue entry (R368). -/
def ErrInfo.bytes (e : ErrInfo) (lost : Nat) : List Byte :=
  leBytes 2 e.cid.toNat ++ leBytes 1 e.code ++ leBytes 1 (min lost 255) ++ leBytes 4 e.detail ++ leBytes 8 e.addr ++
  leBytes 4 e.motif ++ leBytes 1 e.strand ++ leBytes 1 e.die ++ leBytes 1 e.cluster ++ leBytes 1 e.stage ++ leBytes 8 0

/-- A raw 32-byte entry for a device's error queue; a full queue counts it as lost (R368, R423). -/
def pushErr (s : State) (vd : Nat) (entry : Nat → List Byte) : State :=
  let q := (vdevOf s vd).errq
  if !q.enabled then s
  else if q.full then
    updVdev s vd fun v => { v with errq :=
      { q with lost := if q.lost = 0xFFFFFFFF then q.lost else q.lost + 1, lostSince := q.lostSince + 1 } }
  else
    let r := q.push s.hostBus vd (entry q.lostSince)
    let s1 := updVdev { s with hostBus := r.1 } vd fun v => { v with errq := { r.2 with lostSince := 0 } }
    if q.ctl.getLsbD 9 then send s1 (.msi vd 1024) else s1

/-- An error reported to the device of its containment identifier and to no other (R366, R368). -/
def reportErr (s : State) (e : ErrInfo) : State := pushErr s (cidVd e.cid) e.bytes

/-- An entry of the physical function's system log; its layout is the model's: a code, a number. With ctl[9] set it raises
the queue's vector, for which the spec gives no number (R423, R424, log entry 11). -/
def logEvent (s : State) (code n : Nat) : State :=
  let q := s.syslog
  if !q.enabled then s
  else if q.full then { s with syslog := { q with lost := if q.lost = 0xFFFFFFFF then q.lost else q.lost + 1 } }
  else
    let r := q.push s.hostBus 32 (leBytes 1 code ++ leBytes 7 0 ++ leBytes 8 n ++ leBytes 16 0)
    let s1 := { s with hostBus := r.1, syslog := r.2 }
    if q.ctl.getLsbD 9 then send s1 (.msi 32 1024) else s1

/-- The bytes of a fault-queue entry (R369). -/
def PFault.bytes (f : PFault) : List Byte :=
  leBytes 8 f.page ++ leBytes 2 f.cid.toNat ++ leBytes 1 f.kind ++ leBytes 1 f.access.toNat ++ leBytes 4 f.tag ++ leBytes 16 0

/-- A pending fault is written to its queue when that has space; otherwise it waits inside the device (R369). -/
def reportFault (s : State) (f : PFault) : State :=
  let vd := cidVd f.cid
  let q := if f.stage2 then s.s2faultq else (vdevOf s vd).faultq
  if f.reported || !q.enabled || q.full then s
  else
    let fn := if f.stage2 then 32 else vd
    let r := q.push s.hostBus fn f.bytes
    let s1 := { s with
      hostBus := r.1
      faults := s.faults.map fun g => if g.tag = f.tag then { g with reported := true } else g }
    let s2 := if f.stage2 then { s1 with s2faultq := r.2 } else updVdev s1 vd fun v => { v with faultq := r.2 }
    if q.ctl.getLsbD 9 then send s2 (.msi fn 1025) else s2

/-- Faults waiting inside the device are reported, oldest first, while their queues have space (R369). -/
def reportWaiting (s : State) : State := (s.faults.filter fun f => !f.reported).foldl reportFault s

/-- A replayable fault on a page: one entry per page and context, however many wait on it (R369). The answer is the
state and the fault's tag. -/
def raiseFault (s : State) (stage2 : Bool) (cid : Cid) (page kind : Nat) (access : BitVec 8) : State × Nat :=
  match s.faults.find? fun f => f.cid == cid && f.page == page && f.stage2 == stage2 with
  | some f => (s, f.tag)
  | none =>
    let f : PFault := { tag := s.nextTag, stage2 := stage2, cid := cid, page := page, kind := kind
                        access := access, reported := false, failHeld := false }
    (reportFault { s with faults := s.faults ++ [f], nextTag := (s.nextTag + 1) % 2 ^ 32 } f, f.tag)

/-! ## Lines at their homes -/

/-- The line an address lies in. -/
def PAddr.line (p : PAddr) : PAddr := { p with addr := p.addr / 128 * 128 }

/-- The granule an address lies in (R440). -/
def PAddr.granule (p : PAddr) : PAddr := { p with addr := p.addr / 16384 * 16384 }

/-- The bytes of a store of the package. -/
def spaceMem (s : State) : Space → Memory
  | .device => s.mem
  | .tier2 => s.tier2
  | .window => s.window
  | .host => s.hostMem

/-- The state with the bytes of one store replaced. -/
def setSpaceMem (s : State) (sp : Space) (m : Memory) : State :=
  match sp with
  | .device => { s with mem := m }
  | .tier2 => { s with tier2 := m }
  | .window => { s with window := m }
  | .host => { s with hostMem := m }

/-- The tag of a line of tier two that nothing has written: behind an expander that takes no stored form it comes back as
tag 0 (R277). The next write encodes it at its home like any other line. -/
def freshTag (line : Nat) : BitVec 4 := if Config.expanderForms line then 1 else 0

/-- The stored tag of a line: frames and tier two have one, other stores are never compressed (R270, R271, R274). -/
def lineTag (s : State) (p : PAddr) : BitVec 4 :=
  match p.space with
  | .device => tget 1 s.tags (p.addr / 128)
  | .tier2 => tget (freshTag (p.addr / 128)) s.tier2Tags (p.addr / 128)
  | _ => 0

/-- The state with a line's stored tag set. -/
def setLineTag (s : State) (p : PAddr) (t : BitVec 4) : State :=
  match p.space with
  | .device => { s with tags := tset 1 s.tags (p.addr / 128) t }
  | .tier2 => { s with tier2Tags := tset (freshTag (p.addr / 128)) s.tier2Tags (p.addr / 128) t }
  | _ => s

/-- The 128 expanded bytes of a line at its home. -/
def readLine (s : State) (p : PAddr) : List Byte := readBytes (spaceMem s p.space) p.line.addr 128

/-- Whether a stored tag is one that no encoding gives: it is uncorrectable (R274). -/
def wrongTag (t : BitVec 4) : Bool := decide (9 ≤ t.toNat ∧ t.toNat ≤ 14)

/-- The cause of an uncorrectable error that a line holds and nothing has found yet: its tag, or its data (R274, R283, log
entry 10). An error that the ECC corrects is listed with cause 0. -/
def latentAt (s : State) (p : PAddr) : Option Nat :=
  if wrongTag (lineTag s p) then some 2 else (s.latent.find? fun e => e.1 == p.line && e.2 != 0).map (·.2)

/-- Whether a read or a partial write of a line would find it poisoned (R257, R283, R284). -/
def isPoisoned (s : State) (p : PAddr) : Bool := lineTag s p == 15 || (latentAt s p).isSome

/-- The owner of a line's frame; tier two belongs to the device of the job whose access reaches it (R206, R284). -/
def ownerOf (s : State) (p : PAddr) (job : Option Cid) : Option Nat :=
  match p.space with
  | .device => (frameOf s p.addr).owner
  | _ => job.map cidVd

/-- A line without the errors that stood in it. -/
def dropLatent (s : State) (p : PAddr) : State := { s with latent := s.latent.filter fun e => !(e.1 == p.line) }

/-- A line is poisoned: tag 15, no data, one entry for the owner of the frame; `finder` is the context whose access found
the error, `job` the one whose transaction reached the line (R284). -/
def poisonLine (s : State) (p : PAddr) (cause : Nat) (finder : Option Cid) (job : Option Cid := finder) : State :=
  let s1 := dropLatent (setLineTag s p 15) p
  match ownerOf s p job with
  | none => logEvent s1 24 p.line.addr
  | some v =>
    match finder with
    | some c =>
      if cidVd c = v then reportErr s1 { cid := c, code := 24, detail := cause, addr := 0 }
      else reportErr s1 { cid := cidOf v 0, code := 24, detail := cause + 256, addr := 0 }
    | none => reportErr s1 { cid := cidOf v 0, code := 24, detail := cause + 256, addr := 0 }

/-- The system log's code for an error that the ECC has corrected (R283; log entry 11). -/
def logCorrected : Nat := 52

/-- A read of a line that meets an error finds it: an uncorrectable one poisons the line, one that the ECC corrects is
logged (R283, R284). -/
def discoverBy (s : State) (p : PAddr) (finder job : Option Cid) : State :=
  if p.space = .host ∨ p.space = .window then s
  else match latentAt s p with
  | some cause => poisonLine s p cause finder job
  | none =>
    if s.latent.any fun e => e.1 == p.line && e.2 == 0 then logEvent (dropLatent s p) logCorrected p.line.addr else s

/-- What an access of a context finds in a line (R283, R284). -/
def discover (s : State) (p : PAddr) (finder : Cid) : State := discoverBy s p (some finder) (some finder)

/-- The job of a containment identifier on this chip; one that no cut has touched is at epoch 0 (R434). -/
def jobOf (s : State) (cid : Cid) : Job :=
  (s.jobs.find? fun j => j.cid == cid).getD { cid := cid, epoch := 0, latest := 0, colours := [none, none], asked := [] }

/-- The state with a job changed. -/
def updJob (s : State) (cid : Cid) (f : Job → Job) : State :=
  if s.jobs.any fun j => j.cid == cid then { s with jobs := updFirst (fun j => j.cid == cid) f s.jobs }
  else { s with jobs := s.jobs ++ [f (jobOf s cid)] }

/-- The epoch of a cut number (R433). -/
def epochOf (cutid : Nat) : Nat := if cutid = 0 then 0 else (cutid - 1) % 65535 + 1

/-- The number after a cut's (R433). -/
def nextCut (c : Nat) : Nat := if c = 0xFFFF0000 then 1 else c + 1

/-- The cuts of a job that still record (R433, R440). -/
def Job.recording (j : Job) : List Cut := j.colours.filterMap fun c =>
  match c with
  | some c => if c.live then some c else none
  | none => none

/-- The last-write tag of a granule (R441). -/
def granuleTag (s : State) (p : PAddr) : BitVec 16 :=
  match p.space with
  | .device => tget 0 s.granules (p.addr / 16384)
  | .tier2 => tget 0 s.tier2Granules (p.addr / 16384)
  | _ => 0

/-- The state with a granule's last-write tag set (R441). -/
def setGranuleTag (s : State) (p : PAddr) (t : BitVec 16) : State :=
  match p.space with
  | .device => { s with granules := tset 0 s.granules (p.addr / 16384) t }
  | .tier2 => { s with tier2Granules := tset 0 s.tier2Granules (p.addr / 16384) t }
  | _ => s

/-- Whether a granule has been written since a cut's pulse: its tag is the epoch of that cut or of the one after (R441). -/
def writtenSince (tag : BitVec 16) (c : Cut) (j : Job) : Bool :=
  tag.toNat == epochOf c.cutid || (j.latest != c.cutid && tag.toNat == epochOf j.latest)

/-- Whether a granule needs preservation for a cut (R440, R441). -/
def needsCopy (s : State) (p : PAddr) (j : Job) (c : Cut) : Bool :=
  c.live && !c.visited.contains p.granule && !writtenSince (granuleTag s p) c j

/-- The granule as it stands (R439, R443). -/
def granuleImage (s : State) (p : PAddr) (va : Nat) (sure : Bool) : Granule :=
  let g := p.granule
  { unit := g, va := va / 16384 * 16384, sure := sure, cells := tslice g.addr 16384 (spaceMem s g.space)
    tags := (List.range 128).filterMap fun i =>
      let t := lineTag s { g with addr := g.addr + 128 * i }
      if t = 1 then none else some (i, t)
    mode := if g.space = .device then (frameOf s g.addr).mode else 0 }

/-- The lines of a granule read for a cut: those in error are found, by no access of a context (R283, R284, R443). -/
def scanGranule (s : State) (p : PAddr) (cid : Cid) : State :=
  (List.range 128).foldl (fun s i =>
    discoverBy s { p.granule with addr := p.granule.addr + 128 * i } none (some cid)) s

/-- Whether a granule's address meets the storage of a pattern queue of a context (R143, R437). -/
def inQueueStorage (s : State) (cid : Cid) (va : Nat) : Bool :=
  s.records.any fun r => r.cid == cid && r.queues.any fun q =>
    decide (q.storage.toNat / 16384 ≤ va / 16384 ∧ va < q.storage.toNat + 4 * q.capacity)

/-- Whether an address lies in memory that a cut records whatever SNAP says: the handle table, the motif save region, the
system region, the storage of pattern queues (R437). -/
def recordedRegion (s : State) (cid : Cid) (d : Desc) (va : Nat) : Bool :=
  decide (d.htbase / 16384 ≤ va / 16384 ∧ va < d.htbase + 64 * d.hcount) ||
  decide (d.msave ≤ va ∧ va < d.msave + 2 ^ 21 * d.mslots) ||
  decide (0x00FFFFFC00000000 ≤ va ∧ va < 0x00FFFFFE00000000) || inQueueStorage s cid va

/-- The same of the address of an access, by the descriptors that the job's live cuts hold. -/
def alwaysRecorded (s : State) (cid : Cid) (va : Nat) : Bool :=
  (jobOf s cid).recording.any fun c => match c.desc with
    | some d => recordedRegion s cid d va
    | none => false

/-- The first post-cut write to a granule preserves its old value for every live cut that needs it. A write through a page
that is not recorded keeps the granule too, since another page may record it: the engine then decides whether the image
takes it (R440 to R443). -/
def preserve (s0 : State) (cid : Cid) (snap : Bool) (p : PAddr) (va : Nat) : State :=
  let j := jobOf s0 cid
  if j.recording.any (needsCopy s0 p j) then
    let s := scanGranule s0 p cid
    let g := granuleImage s p va (snap || alwaysRecorded s0 cid va)
    let keep := fun (c : Cut) =>
      if needsCopy s p j c then { c with preserved := c.preserved ++ [g], visited := c.visited ++ [p.granule] } else c
    updJob s cid fun j => { j with colours := j.colours.map fun o => o.map keep }
  else s0

/-- A write patched into a recorded granule: its bytes, encoded again, or the poison of its line; a line recorded as poisoned
discards it (R257, R273, R284, R436). -/
def Granule.patch (g : Granule) (p : PAddr) (comp : Bool) (bytes : Option (List Byte)) : Granule :=
  let i := (p.addr - g.unit.addr) / 128
  if g.unit ≠ p.granule ∨ tget 1 g.tags i = 15 then g
  else
    match bytes with
    | none => { g with tags := tset 1 g.tags i 15 }
    | some b =>
      let cells := writeBytes g.cells (p.addr - g.unit.addr) b
      { g with cells := cells, tags := tset 1 g.tags i (encodeTag (readBytes cells (128 * i) 128) comp) }

/-- A pre-cut write performed after the pulse also patches the copies that record it (R436). -/
def patchCuts (s : State) (cid : Cid) (epoch : Nat) (p : PAddr) (comp : Bool) (bytes : Option (List Byte)) : State :=
  if s.jobs.isEmpty then s
  else
    let patch := fun (g : Granule) => g.patch p comp bytes
    let latest := epochOf (jobOf s cid).latest
    let one := fun (c : Cut) =>
      if c.live && epoch != epochOf c.cutid && epoch != latest then
        { c with preserved := c.preserved.map patch, streamed := c.streamed.map patch }
      else c
    updJob s cid fun j => { j with colours := j.colours.map fun o => o.map one }

/-- The last-write tag of a granule that a job's transaction has written (R441). -/
def tagEpoch (s : State) (p : PAddr) (epoch : Nat) : State :=
  if s.jobs.isEmpty then s else setGranuleTag s p (BitVec.ofNat 16 epoch)

/-- A write of poisoned data to a line by a job's transaction: it preserves and tags like any write (R284, R436, R440,
R441). -/
def poisonWrite (s : State) (cid : Cid) (epoch : Nat) (p : PAddr) (snap : Bool) (va cause : Nat) (finder : Option Cid) : State :=
  let s1 := if lineTag s p == 15 then s else preserve s cid snap p va
  if lineTag s1 p == 15 then s1
  else tagEpoch (patchCuts (poisonLine s1 p cause finder (some cid)) cid epoch p false none) p epoch

/-- What a write finds in its line before it is performed: one that covers the whole line decodes nothing, so that an error
in the line's data goes unseen (R274, R275). -/
def beforeWrite (s : State) (cid : Cid) (p : PAddr) (n : Nat) : State :=
  if n = 128 ∧ !wrongTag (lineTag s p) then s else discover s p cid

/-- A write to a line of a frame or of tier two, as its home performs it: preserve, merge, encode again, and set the
granule's tag to the job's epoch (R273, R275, R441, R443). A poisoned line discards the bytes (R257, R285); the second
answer says so. The bytes lie within one line. -/
def homeWrite (s : State) (cid : Cid) (epoch : Nat) (p : PAddr) (comp snap : Bool) (va : Nat) (bytes : List Byte) :
    State × Bool :=
  let s0 := beforeWrite s cid p bytes.length
  if lineTag s0 p == 15 then (s0, true)
  else
    let s1 := preserve s0 cid snap p va
    if lineTag s1 p == 15 then (s1, true)
    else
      let s2 := setSpaceMem s1 p.space (writeBytes (spaceMem s1 p.space) p.addr bytes)
      let form := comp && featureOn s (cidVd cid) 11
      let s3 := setLineTag s2 p (encodeTag (readLine s2 p) form)
      (tagEpoch (patchCuts (if bytes.length = 128 then dropLatent s3 p else s3) cid epoch p form (some bytes)) p epoch, false)

/-- Whether a host line has a device copy in the L2 of a port's die (R204). -/
def hostHeld (s : State) (line port : Nat) : Bool := s.hostLines.any fun h => h.line == line && h.port == port

/-- The device copy of a host line in the L2 of a port's die; a line not held is read from host memory (R204, R221). -/
def hostLineOf (s : State) (line port : Nat) : HostLine :=
  (s.hostLines.find? fun h => h.line == line && h.port == port).getD
    { line := line, port := port, users := [], bytes := readBytes s.hostMem line 128, changed := [] }

/-- A copy with one more user (R250, R267). -/
def HostLine.use (h : HostLine) (u : HostUser) : HostLine :=
  if h.users.contains u then h else { h with users := h.users ++ [u] }

/-- Whether a device's access leaves a copy of a host line: one that is held, or a way mask that lets it allocate
(R205). -/
def hostKeeps (s : State) (line vd : Nat) : Bool :=
  hostHeld s line (vdevOf s vd).port || (vdevOf s vd).waymask != 0

/-- The state that holds a device copy of a host line. -/
def putHostLine (s : State) (h : HostLine) : State :=
  { s with hostLines := s.hostLines.filter (fun g => !(g.line == h.line && g.port == h.port)) ++ [h] }

/-- The bytes of a copy that the device has not changed, where host memory no longer holds them. -/
def HostLine.lagging (m : Memory) (h : HostLine) : List Nat :=
  (List.range h.bytes.length).filter fun i => !h.changed.contains i && tget 0 m (h.line + i) != h.bytes.getD i 0

/-- The changed bytes of a host line's copy written back to host memory (R247). Whether the write-back also overwrites
what the host has written beside them since is a free value (R249, log entry 8). -/
def writeBack (free : Nat) (m : Memory) (h : HostLine) : Memory :=
  let rest := if h.changed.isEmpty then [] else h.lagging m
  let beside := if rest.isEmpty then [] else if Config.freeBit free h.line then rest else []
  (h.changed ++ beside).foldl (fun m i => tset 0 m (h.line + i) (h.bytes.getD i 0)) m

/-- A cluster without the L1 copies of host lines that the L2 of their port's die no longer has (R202). -/
def dropCopies (s : State) (hit : List HostLine) (c : Cluster) : Cluster :=
  let served := fun (h : HostLine) => match c.ctx with
    | some cid => h.port == (vdevOf s (cidVd cid)).port
    | none => true
  { c with l1 := c.l1.filter fun l => !(hit.any fun h => l.line == { space := .host, addr := h.line } && served h) }

/-- The state with the changed bytes of the chosen host lines written back; the lines are then clean, or dropped from L2
and with that from L1, which holds no data that L2 does not have (R202, R247). -/
def flushLines (s : State) (p : HostLine → Bool) (drop : Bool) : State :=
  let hit := s.hostLines.filter p
  { s with
    clusters := if drop && !hit.isEmpty then s.clusters.map fun e => (e.1, dropCopies s hit e.2) else s.clusters
    free := if hit.any fun h => !h.changed.isEmpty then s.free + 1 else s.free
    hostMem := hit.foldl (writeBack s.free) s.hostMem
    hostLines := if drop then s.hostLines.filter fun h => !p h
                 else s.hostLines.map fun h => if p h then { h with changed := [] } else h }

/-- Every L1 copy of a line changed, in every cluster. -/
def updL1 (s : State) (f : List L1Line → List L1Line) : State :=
  { s with clusters := s.clusters.map fun e => (e.1, { e.2 with l1 := f e.2.l1 }) }

/-! ## Waking and ending -/

/-- The instruction sizes of the words at a slot are known only by its issue, so a slot is woken by clearing its wait. -/
def wakeSlots (p : Wait → Bool) (t : Strand) : Strand :=
  let f := fun (x : Slot) => if p x.wait then { x with wait := .ready } else x
  { t with live := t.live.map f, stack := t.stack.map f }

/-- Every slot of a motif whose wait satisfies a test is woken. -/
def wakeMotif (s : State) (uid : Nat) (p : Wait → Bool) : State :=
  updMotif s uid fun m => { m with strands := m.strands.map (wakeSlots p) }

/-- Every slot of a context whose wait satisfies a test is woken, in saved motifs too (R375). -/
def wakeCtx (s : State) (cid : Cid) (p : Wait → Bool) : State := updCtxStrands s cid (wakeSlots p)

/-- The events of a context: the bit is set in evpend of each of its strands, resident or saved, and a slot waiting in
EVWAIT is woken (R120). -/
def setEvent (s : State) (cid : Cid) (bit : Nat) : State :=
  updCtxStrands s cid fun t =>
    wakeSlots (fun w => w == .event) { t with evpend := t.evpend ||| BitVec.ofNat 32 (2 ^ bit) }

/-- An event of every context of a device (R120). -/
def setEventVd (s : State) (vd bit : Nat) : State :=
  let f := fun (t : Strand) => wakeSlots (fun w => w == .event) { t with evpend := t.evpend ||| BitVec.ofNat 32 (2 ^ bit) }
  let g := fun (m : Motif) => if cidVd m.cid = vd then { m with strands := m.strands.map f } else m
  { s with
    motifs := s.motifs.map g
    contexts := s.contexts.map fun c =>
      if cidVd c.cid = vd then { c with saved := c.saved.map fun v => { v with motif := g v.motif } } else c }

/-- A numbered barrier of a motif (R172). -/
def Barrier.reset : Barrier := { phase := 0, arrivals := 0, expected := none, marked := [], seqIn := false }

/-- Whether every launched lane of a strand has ended (R142). -/
def Strand.over (t : Strand) : Bool := decide (t.launched &&& ~~~t.ended = 0)

/-- Whether a barrier's phase is complete (R173). -/
def barrierComplete (m : Motif) (b : Barrier) : Bool :=
  match b.expected with
  | none => false
  | some 0 => m.strands.all fun t => t.over || b.marked.contains t.index
  | some n => decide (n ≤ b.arrivals)

/-- Whether the barrier unit supplies the sequencer's arrival on a barrier: the sequencer's fault has been
recorded and the header's seqbar bit is set (R372). -/
def suppliesArrival (m : Motif) (n : Nat) : Bool :=
  m.header.seqbar.getLsbD n && (match m.seq with
    | some q => q.recorded
    | none => false)

/-- A barrier after its phase completes: the next phase, with the arrival that a faulted sequencer's barrier unit
supplies as soon as the phase begins (R173, R372). -/
def Barrier.next (m : Motif) (n : Nat) (b : Barrier) : Barrier :=
  { phase := b.phase + 1, arrivals := if suppliesArrival m n then 1 else 0, expected := none, marked := []
    seqIn := suppliesArrival m n }

/-- Slots waiting at a numbered barrier are released: each fetches its BAR again, which then goes on (R173). -/
def releaseBarrier (n : Nat) (t : Strand) : Strand :=
  let f := fun (x : Slot) => if x.wait = .barrier n then { x with wait := .ready, released := some n } else x
  { t with live := t.live.map f, stack := t.stack.map f }

/-- Completion of one numbered barrier is checked; a completed phase wakes its waiters (R173). -/
def checkBarrier (m : Motif) (n : Nat) : Motif :=
  let b := tget Barrier.reset m.barriers n
  if barrierComplete m b then
    { m with
      barriers := tset Barrier.reset m.barriers n (b.next m n)
      strands := m.strands.map (releaseBarrier n) }
  else m

/-- Completion of every numbered barrier is checked, lowest first (R173). -/
def checkBarriers (m : Motif) : Motif := (List.range 16).foldl checkBarrier m

/-- The slot that leaves the live set is replaced from the oldest stack entry, which becomes the younger live slot: which
of the two it becomes is the model's choice where the freed position was the older's (R135; log entry 69). -/
def refill (t : Strand) : Strand :=
  match t.stack with
  | [] => t
  | x :: rest => if t.live.length < 2 then { t with live := t.live ++ [x], stack := rest } else t

/-- The address of the join word that a slot waits at, and its triple. A slot that reached the word through a prefix that
says nothing waits at the same word as one that came straight to it (R70, R71, R136). -/
def Slot.joinAt (x : Slot) : Option (Dword × LaneMask) :=
  match x.wait with
  | .join _ t size => some (x.pc + BitVec.ofNat 64 size - 4, t)
  | _ => none

/-- Whether a slot waits at the join word of an address. -/
def Slot.waitsAt (word : Dword) (x : Slot) : Bool :=
  match x.joinAt with
  | some (p, _) => p == word
  | none => false

/-- The members of all slots of a strand that wait at a join word (R136). -/
def waitingAt (t : Strand) (word : Dword) : LaneMask :=
  (t.live ++ t.stack).foldl (fun m x => if x.waitsAt word then m ||| x.members else m) 0

/-- Lanes that count as ended for a join: ended or never launched (R136, R171). -/
def Strand.gone (t : Strand) : LaneMask := t.ended ||| ~~~t.launched

/-- Whether the slots waiting at a join word cover a triple (R136). -/
def joinCovered (t : Strand) (word : Dword) (triple : LaneMask) : Bool :=
  decide (triple &&& ~~~(waitingAt t word) &&& ~~~t.gone = 0)

/-- The slots waiting at a join word merge into the one at the given live position; the others are freed (R135, R136). -/
def mergeLive (t : Strand) (word : Dword) (keep : Nat) : Strand :=
  let all := waitingAt t word
  let live := t.live.zipIdx.filterMap fun e =>
    if e.2 = keep then some { e.1 with members := all, pc := word + 4, wait := .ready }
    else if e.1.waitsAt word then none else some e.1
  refill { t with live := live, stack := t.stack.filter fun x => !x.waitsAt word }

/-- The waiting slots merge into the oldest stack entry among them, with wait state 0 (R136). -/
def mergeStack (t : Strand) (word : Dword) : Strand :=
  let all := waitingAt t word
  let keep := (t.stack.zipIdx.find? fun e => e.1.waitsAt word).map (·.2)
  { t with stack := t.stack.zipIdx.filterMap fun e =>
      if some e.2 = keep then some { e.1 with members := all, pc := word + 4, wait := .ready }
      else if e.1.waitsAt word then none else some e.1 }

/-- Slots waiting at a join word merge at once when ending lanes complete the set: into the position of the oldest
waiting slot (R136). Among live and spilled slots the model takes a live one, the older first, as the oldest (log entry
69). -/
def mergeEnded (t : Strand) : Strand :=
  let done := (t.live ++ t.stack).find? fun x =>
    match x.joinAt with
    | some (p, tr) => joinCovered t p tr
    | none => false
  match done.bind Slot.joinAt with
  | none => t
  | some (word, _) =>
    match t.live.zipIdx.find? fun e => e.1.waitsAt word with
    | some e => mergeLive t word e.2
    | none => mergeStack t word

/-- Several waiting sets can be completed by one ending. -/
def mergeAll : Nat → Strand → Strand
  | 0, t => t
  | n + 1, t => mergeAll n (mergeEnded t)

/-- Lanes end: they leave their slot, their activity bits read 0, empty slots leave, waiting joins are tested again;
when no unheld slot is left the held ones resume in user mode (R115, R128, R135, R136, R364). -/
def endLanes (t : Strand) (lanes : LaneMask) : Strand :=
  let strip := fun (x : Slot) => { x with members := x.members &&& ~~~lanes }
  let t1 := { t with
    live := (t.live.map strip).filter fun x => decide (x.members ≠ 0)
    stack := (t.stack.map strip).filter fun x => decide (x.members ≠ 0)
    ended := t.ended ||| lanes
    mask := t.mask &&& ~~~lanes }
  let t2 := refill (refill t1)
  let t3 := mergeAll (t2.live.length + t2.stack.length) t2
  if (t3.live ++ t3.stack).all fun x => x.held then
    let free := fun (x : Slot) => { x with held := false }
    { t3 with handler := false, live := t3.live.map free, stack := t3.stack.map free }
  else t3

/-! ## The context error, the trap and the return -/

/-! ## Packets to other chips -/

/-- The package's own virtual chip number in a device's job (R200, R417, log entry 15). -/
def ownChip (s : State) (vd : Nat) : Nat := (vdevOf s vd).chip

/-- The header bytes that hcrc covers (R411). -/
def packetHead (p : Packet) : List Byte :=
  leBytes 2 p.cid.toNat ++
  leBytes 2 (p.dest.toNat + p.vc.toNat * 2 ^ 12 + p.cls.toNat * 2 ^ 14 + p.destRsv.toNat * 2 ^ 15) ++
  leBytes 2 (p.src.toNat + p.srcRsv.toNat * 2 ^ 12) ++ leBytes 1 p.op.toNat ++
  leBytes 1 (p.nlines.toNat + p.size.toNat * 16) ++ leBytes 8 p.addr.toNat ++ leBytes 4 p.rtag.toNat ++
  leBytes 4 p.tags.toNat ++ (List.range 8).flatMap (fun i => leBytes 4 ((p.checks.getD i 0).toNat)) ++
  leBytes 1 p.cut.toNat ++ leBytes 1 p.aop.toNat ++ leBytes 2 p.status.toNat

/-- A packet with its header's CRC (R411). -/
def sealPacket (p : Packet) : Packet := { p with hcrc := crc32c (packetHead p) }

/-- The output link of a route entry: its primary, or the alternate once the primary has failed (R414, R416). -/
def routeLink (s : State) (e : BitVec 16) : Nat :=
  let p := (e.extractLsb' 0 6).toNat
  if (linkOf s p).failed then (e.extractLsb' 6 6).toNat else p

/-- The flits of a packet: its header and its payload (R411). -/
def packetFlits (p : Packet) : Nat := 1 + (p.payload.length + 63) / 64

/-- The channel and class of a packet as the key of a link's tables (R412, R413). -/
def queueKey (p : Packet) : Nat := p.vc.toNat * 2 + p.cls.toNat

/-- A packet at the tail of the queue of its channel and class; a queue that was empty begins its time anew (R413,
R415). -/
def enqueue (clock : Nat) (q : Packet) (l : Link) : Link :=
  let key := queueKey q
  { l with
    out := l.out ++ [(q.vc.toNat, q.cls.toNat, q)]
    moved := if l.out.any fun e => e.1 == q.vc.toNat && e.2.1 == q.cls.toNat then l.moved else tset 0 l.moved key clock }

/-- Payload bytes filled to whole flits (R411). -/
def flitPad (b : List Byte) : List Byte := b ++ List.replicate ((64 - b.length % 64) % 64) 0

/-- The lines of a packet, expanded, each with its transport tag (R271, R272, R278, R411). -/
def packetLines (p : Packet) : List (Nat × List Byte) :=
  ((List.range p.nlines.toNat).foldl (fun (a : List (Nat × List Byte) × List Byte) i =>
    let tag := (p.tags.extractLsb' (4 * i) 4).toNat
    let n := 32 * tagSectors tag
    (a.1 ++ [(tag, expandForm (a.2.take n) tag)], a.2.drop n)) ([], p.payload)).1

/-- A packet whose lines are expanded, in packets of at most 4 lines; poison stays tag 15 (R277, R285, R411). -/
def expandPacket (p : Packet) : List Packet :=
  let ls := packetLines p
  (List.range ((ls.length + 3) / 4)).map fun i =>
    let part := (ls.drop (4 * i)).take 4
    { p with
      nlines := BitVec.ofNat 4 part.length, addr := p.addr + BitVec.ofNat 64 (512 * i)
      tags := BitVec.ofNat 32 ((part.zipIdx.map fun x => (if x.1.1 = 15 then 15 else 0) * 2 ^ (4 * x.2)).sum)
      checks := (p.checks.drop (4 * i)).take 4
      payload := flitPad (part.flatMap fun x => if x.1 = 15 then [] else x.2) }

/-- Whether a packet carries a line in a stored form that is not the expanded one. -/
def carriesForms (p : Packet) : Bool :=
  (p.op == 2 || p.op == 3) && p.size == 0 &&
  (List.range p.nlines.toNat).any fun i => let t := p.tags.extractLsb' (4 * i) 4; t != 0 && t != 15

/-- The packets that leave by a link: lines in stored form go only to an end that accepts them (R277). -/
def leavesAs (l : Link) (p : Packet) : List Packet := if !l.stored && carriesForms p then expandPacket p else [p]

/-- A packet placed behind the others of its link, channel and class; none without a valid entry (R277, R414, R415). -/
def routePacket (s : State) (p : Packet) : Option State :=
  let e := tget 0 (vdevOf s (cidVd p.cid)).route p.dest.toNat
  if !e.getLsbD 15 || e.extractLsb' 0 6 == 63 then none
  else
    let link := routeLink s e
    some ((leavesAs (linkOf s link) p).foldl (fun s q =>
      updLink s link (enqueue s.clock (sealPacket { q with cls := q.cls || e.getLsbD 12 }))) s)

/-- The payload flit of a CTRL packet: its kind, the cut, a cause or an answer (R451). -/
def ctrlPayload (kind cutid value : Nat) : List Byte :=
  leBytes 1 kind ++ leBytes 3 0 ++ leBytes 4 cutid ++ leBytes 4 value ++ leBytes 52 0

/-- A CTRL packet of a job sent to a chip; one without a route is dropped (R412, R414, R451). -/
def sendCtrl (s : State) (cid : Cid) (chip kind cutid value rtag : Nat) : State :=
  (routePacket s
    { cid := cid, dest := BitVec.ofNat 12 chip, vc := 3, cls := false, destRsv := false
      src := BitVec.ofNat 12 (ownChip s (cidVd cid)), srcRsv := 0, op := 9, nlines := 0, size := 0, addr := 0
      rtag := BitVec.ofNat 32 rtag, tags := 0, checks := [], cut := BitVec.ofNat 8 ((jobOf s cid).epoch % 3 + 4)
      aop := 0, status := 0, hcrc := 0, payload := ctrlPayload kind cutid value }).getD s

/-- The other chips that a device's route table reaches (R414, R453). -/
def routedChips (s : State) (vd : Nat) : List Nat :=
  ((vdevOf s vd).route.filter fun e => e.2.getLsbD 15 && e.2.extractLsb' 0 6 != 63).map (·.1)

/-- A cut that has failed on this chip: it stops logging and writing, and drops what it preserved (R453, R458). -/
def Cut.fail (c : Cut) (cause : Nat) : Cut :=
  { c with live := false, state := if cause = 4 then 6 else 5, cause := cause, preserved := [], logs := [] }

/-- The cuts of a job changed. -/
def mapCuts (s : State) (cid : Cid) (f : Cut → Cut) : State :=
  updJob s cid fun j => { j with colours := j.colours.map fun o => o.map f }

/-- Slots that wait for the end of a cut are woken (R456). -/
def wakeCut (s : State) (cid : Cid) (cutid : Nat) : State := wakeCtx s cid fun w => w == .cut (BitVec.ofNat 32 cutid)

/-- FAIL of a cut sent: to the coordinator, or by it to every chip (R453). -/
def sendFail (s : State) (cid : Cid) (c : Cut) (cause : Nat) : State :=
  if c.coord = ownChip s (cidVd cid) then
    (routedChips s (cidVd cid)).foldl (fun s x => sendCtrl s cid x 3 c.cutid cause 0) s
  else sendCtrl s cid c.coord 3 c.cutid cause 0

/-- A live cut failed on this chip: CUT is pending in every strand, waiters go on (R453, R456, R458). -/
def endCut (s : State) (cid : Cid) (cutid cause : Nat) : State :=
  let s1 := mapCuts s cid fun c => if c.cutid = cutid ∧ c.live then c.fail cause else c
  wakeCut (setEvent s1 cid 2) cid cutid

/-- An event of R453 on this chip: the live cuts that it concerns fail, and FAIL is sent. -/
def failCut (s : State) (cid : Cid) (cause : Nat) (p : Cut → Bool) : State :=
  ((jobOf s cid).recording.filter p).foldl (fun s c => sendFail (endCut s cid c.cutid cause) cid c cause) s

/-- A context error stops the whole context: strands, sequencers, commands, rings, records; its cuts fail with cause 2
(R365, R453). -/
def stopContext (s : State) (cid : Cid) : State :=
  let s1 := updCtx s cid fun c => { c with stopped := true }
  let s2 := { s1 with
    motifs := s1.motifs.map fun m => if m.cid = cid then { m with commands := [], preempt := none } else m
    rings := s1.rings.map fun e =>
      if e.2.owner = some (cidVd cid) ∧ e.2.ctx = cidCtx cid ∧ e.2.enable then (e.1, { e.2 with stopped := true, code := 0 })
      else e
    pendStores := s1.pendStores
    restores := s1.restores.filter fun r => !(r.vd == cidVd cid && r.ctx == cidCtx cid) }
  failCut s2 cid 2 fun _ => true

/-- A context error of a strand: reported with its motif, strand and place, then the context stops (R365, R368). -/
def contextError (s : State) (m : Motif) (strand : Nat) (code detail addr : Nat) : State :=
  let s1 := reportErr s { cid := m.cid, code := code, detail := detail, addr := addr, motif := m.motifid.toNat
                          strand := strand, die := m.die, cluster := m.cluster, stage := m.stage }
  stopContext s1 m.cid

/-- The live slot of a strand at a position changed. -/
def updSlot (t : Strand) (i : Nat) (f : Slot → Slot) : Strand :=
  { t with live := t.live.zipIdx.map fun e => if e.2 = i then f e.1 else e.1 }

/-- Whether a trap returns to the next word: TRAP, SVC and BRK (R30, R32). -/
def trapCompletes (cause : Nat) : Bool := cause == 5 || cause == 6 || cause == 8

/-- The strand as the trap leaves it: the trap registers written, handler mode, the slot at the handler, every other
slot held (R30, R364). -/
def enterHandler (t : Strand) (slot : Nat) (cause : Nat) (value : Word) (trappc handler : Dword) : Strand :=
  { t with
    handler := true
    trappc := trappc
    trapcause := BitVec.ofNat 32 cause
    trapval := value
    live := t.live.zipIdx.map fun e =>
      if e.2 = slot then { e.1 with pc := handler, wait := .ready } else { e.1 with held := true }
    stack := t.stack.map fun x => { x with held := true } }

/-- Taking a synchronous trap: a double trap or a missing handler is a context error, otherwise the handler is entered
(R30, R31, R32, R364). -/
def takeTrap (s : State) (m : Motif) (t : Strand) (slot : Nat) (cause : Nat) (value : Word) (at' next : Dword) : State :=
  if t.handler then contextError s m t.index 17 cause 0
  else if m.header.trap = 0 then contextError s m t.index 16 cause 0
  else updStrand s m.uid t.index fun t =>
    enterHandler t slot cause value (if trapCompletes cause then next else at') (m.image + BitVec.ofNat 64 m.header.trap)

/-- The return from the handler: the slot goes to trappc and every slot of the strand to user mode (R33, R364). -/
def leaveHandler (t : Strand) (slot : Nat) : Strand :=
  let t1 := updSlot t slot fun x => { x with pc := t.trappc }
  let free := fun (x : Slot) => { x with held := false }
  { t1 with handler := false, live := t1.live.map free, stack := t1.stack.map free }

/-- An arrival of n on a barrier object of the scratchpad: the state of the motif, whether the object was initialised,
and the phase before (R176). -/
def objectArrive (m : Motif) (off n : Nat) : Motif × Option Word :=
  let o := readBytes m.scratch off 16
  let count := fieldAt o 0 4
  let expected := fieldAt o 4 4
  let phase := fieldAt o 8 4
  if expected = 0 then (m, none)
  else
    let c := count + n
    if expected ≤ c then
      let waiters := fieldAt o 12 4
      let o' := leBytes 4 (c - expected) ++ leBytes 4 expected ++ leBytes 4 (phase + 1) ++ leBytes 4 0
      let m1 := { m with
        scratch := writeBytes m.scratch off o'
        strands := m.strands.map fun t => if bitAt waiters t.index then wakeSlots (fun w => w == .object off) t else t }
      (m1, some (BitVec.ofNat 32 phase))
    else ({ m with scratch := writeBytes m.scratch off (leBytes 4 c) }, some (BitVec.ofNat 32 phase))

end Sys2Proof.Machine
end

