-- ==== Sys2Proof/Machine/Flags.lean ====
section
/-! DEFINITION. The arithmetic flags of a strand, the arithmetic trap, and the stochastic-rounding generators
(R46 to R49). -/

namespace Sys2Proof.Machine

/-- The flags an instruction raised are ORed into fflags (R48). -/
def Strand.raise (t : Strand) (f : Flags) : Strand := { t with fflags := t.fflags ||| f.setWidth 32 }

/-- Whether an instruction that raised these flags takes the arithmetic trap (R29, R49). -/
def Strand.arithTraps (t : Strand) (f : Flags) : Bool :=
  !t.handler && decide (f &&& t.fexc.setWidth 5 ≠ 0)

/-- The state of a lane's generator: what a draw has left, which is never 0, or the seed (R46). -/
def Strand.gen (t : Strand) (lane : Nat) : BitVec 24 :=
  if tget 0 t.gens lane = 0 then srSeed t.srseed lane else tget 0 t.gens lane

/-- The strand with a lane's generator set (R46). -/
def Strand.setGen (t : Strand) (lane : Nat) (g : BitVec 24) : Strand := { t with gens := tset 0 t.gens lane g }

/-- A write of srseed seeds every lane (R46). -/
def Strand.seed (t : Strand) (v : Word) : Strand := { t with srseed := v, gens := [] }

/-- The generators a list of draws leaves. -/
def Strand.setGens (t : Strand) : List (Nat × BitVec 24) → Strand
  | [] => t
  | (l, g) :: rest => (t.setGen l g).setGens rest

/-- The rounding mode that a prefix's rm code selects; the dynamic mode is that of frm (R41, R42). -/
def rmodeOf (rm : BitVec 3) (frm : Word) : RMode :=
  let c := if rm = 6 then (frm.extractLsb' 0 3).toNat else rm.toNat
  match c with
  | 1 => .rz
  | 2 => .rd
  | 3 => .ru
  | 4 => .rna
  | 5 => .sr
  | _ => .rn

end Sys2Proof.Machine
end

