-- ==== Sys2Proof/Machine/Pending.lean ====
section
/-! DEFINITION. L1 copies of lines, writes at their point of performance, and stores that wait for it (R202, R228,
R232 to R243). -/

namespace Sys2Proof.Machine

/-- The L1 array that serves an access of a strand: its quadrant's, or by line address when fused (R202, R203). -/
def l1Quad (c : Cluster) (strand : Nat) (p : PAddr) : Nat := if c.fused then p.addr / 128 % 4 else strand % 4

/-- The copy that serves a load of an ordinary or an unordered page, if one exists and is younger than the refill bound;
a copy that an unordered page left, which no acquire renews, serves no ordinary load (R233, R242, R243). -/
def l1Hit (s : State) (m : Motif) (strand : Nat) (p : PAddr) (uo : Bool) : Option L1Line :=
  let c := clusterOf s m.die m.cluster
  c.l1.find? fun l => l.quad == l1Quad c strand p && l.line == p.line && (!l.uo || uo) && decide (s.clock < l.filled + 4096)

/-- A quadrant's copy of a line removed. -/
def l1Drop (s : State) (m : Motif) (strand : Nat) (p : PAddr) : State :=
  updCluster s m.die m.cluster fun c =>
    { c with l1 := c.l1.filter fun l => !(l.quad == l1Quad c strand p && l.line == p.line) }

/-- A line filled into a quadrant's L1 (R202). -/
def l1Fill (s : State) (m : Motif) (strand : Nat) (p : PAddr) (uo : Bool) (bytes : List Byte) : State :=
  updCluster (l1Drop s m strand p) m.die m.cluster fun c =>
    { c with l1 := c.l1 ++
        [{ quad := l1Quad c strand p, line := p.line, uo := uo, filled := s.clock, bytes := bytes }] }

/-- Whether a load of a device may leave an L1 copy of a line: L1 holds nothing that L2 does not have, and with way mask 0
an access allocates nothing; a host line may also be in L2 already (R202, R205). -/
def l1Allowed (s : State) (vd : Nat) (p : PAddr) : Bool :=
  (vdevOf s vd).waymask != 0 || (p.space == .host && hostHeld s p.line.addr (vdevOf s vd).port)

/-- A store updates a present L1 copy of the issuing quadrant (R202). -/
def l1Update (s : State) (m : Motif) (strand : Nat) (p : PAddr) (bytes : List Byte) : State :=
  updCluster s m.die m.cluster fun c =>
    { c with l1 := c.l1.map fun l =>
        if l.quad = l1Quad c strand p ∧ l.line = p.line then { l with bytes := putBytes l.bytes (p.addr % 128) bytes }
        else l }

/-- The issuing quadrant's copy after a write: it takes the bytes; the copy of a line whose home has discarded them as
poisoned goes (R202, R257). -/
def l1Wrote (s : State) (m : Motif) (strand : Nat) (p : PAddr) (bytes : List Byte) : State :=
  if p.space != .host && p.space != .window && isPoisoned s p then l1Drop s m strand p else l1Update s m strand p bytes

/-- An acquire leaves no copy that is older than what it synchronised with: the quadrant's copies go, unordered pages
apart (R236, R242). -/
def l1Acquire (s : State) (m : Motif) (strand : Nat) (uoToo : Bool) : State :=
  updCluster s m.die m.cluster fun c =>
    { c with l1 := c.l1.filter fun l => (l.uo && !uoToo) || !(c.fused || l.quad == strand % 4) }

/-- The 128 bytes that a load of a page that is not strongly ordered finds at the point of performance: host lines at
the L2 of the die of a port (R204, R228). -/
def pointLine (s : State) (port : Nat) (p : PAddr) : List Byte :=
  match p.space with
  | .host => (hostLineOf s p.line.addr port).bytes
  | _ => readLine s p

/-- A load of a host line at its home: the copy stays where the way mask lets it (R204, R205). -/
def hostFill (s : State) (u : HostUser) (p : PAddr) : State :=
  if hostKeeps s p.line.addr u.vd then
    putHostLine s ((hostLineOf s p.line.addr (vdevOf s u.vd).port).use { u with va := u.va / 128 * 128 })
  else s

/-- A write at the point of performance of a host page that is not strongly ordered: the device's copy changes, or host
memory where none is kept (R204, R205, R228). -/
def hostLineWrite (s : State) (u : HostUser) (a : Nat) (bytes : List Byte) : State :=
  if hostKeeps s (a / 128 * 128) u.vd then
    let h := (hostLineOf s (a / 128 * 128) (vdevOf s u.vd).port).use { u with va := u.va / 128 * 128 }
    let offs := (List.range bytes.length).map (a % 128 + ·)
    putHostLine s { h with bytes := putBytes h.bytes (a % 128) bytes
                           changed := h.changed ++ offs.filter fun o => !h.changed.contains o }
  else { s with hostMem := writeBytes s.hostMem a bytes }

/-- A strongly ordered access of a host line goes to host memory: a copy that the serving die holds is written back and
dropped first, so that every byte has one value (R228, R232, R233; log entry 71). -/
def hostDirect (s : State) (vd : Nat) (p : PAddr) : State :=
  if p.space = .host ∧ hostHeld s p.line.addr (vdevOf s vd).port then
    flushLines s (fun h => h.line == p.line.addr && h.port == (vdevOf s vd).port) true
  else s

/-- Who makes an access: containment, and the place that an error report names. -/
structure Who where
  cid : Cid
  pasid : Nat
  motif : Nat
  strand : Nat
  die : Nat
  cluster : Nat
  stage : Nat
  deriving DecidableEq, Repr

/-- The maker of an access as a user of a host line. -/
def Who.user (w : Who) (va : Nat) : HostUser := { vd := cidVd w.cid, cid := w.cid, pasid := w.pasid, va := va }

/-- The strand as the maker of an access. -/
def whoOf (m : Motif) (strand : Nat) : Who :=
  { cid := m.cid, pasid := m.desc.pasid, motif := m.motifid.toNat, strand := strand, die := m.die
    cluster := m.cluster, stage := m.stage }

/-- A write at its point of performance; a discarded one is reported with code 25 (R228, R257). -/
def performWrite (s : State) (w : Who) (p : PAddr) (so comp snap : Bool) (va epoch : Nat) (bytes : List Byte) : State :=
  match p.space with
  | .host =>
    if so then
      let s1 := hostDirect s (cidVd w.cid) p
      { s1 with hostMem := writeBytes s1.hostMem p.addr bytes }
    else hostLineWrite s (w.user va) p.addr bytes
  | .window => { s with window := writeBytes s.window p.addr bytes }
  | _ =>
    let r := homeWrite s w.cid epoch p comp snap va bytes
    if r.2 then
      reportErr r.1 { cid := w.cid, code := 25, addr := va, motif := w.motif, strand := w.strand, die := w.die
                      cluster := w.cluster, stage := w.stage }
    else r.1

/-- A host line's changed bytes moved to host memory, and on request every copy of it dropped in L1 and L2 (R247). -/
def moveLine (s : State) (drop : Bool) (p : PAddr) : State :=
  let s1 := flushLines s (fun h => h.line == p.line.addr) drop
  if drop then updL1 s1 fun l => l.filter fun c => c.line != p.line else s1

/-- A pending store or move performed (R228, R247). -/
def performPend (s : State) (d : PendStore) : State :=
  match d.move with
  | some drop => moveLine s drop d.target
  | none =>
    let m := motifOf s d.uid
    let w : Who := match m with
      | some m => whoOf m d.strand
      | none => { cid := d.cid, pasid := (d.host.map (·.2)).getD 0, motif := 0xFFFFFFFF, strand := d.strand, die := 0
                  cluster := 0, stage := 0 }
    let s1 := performWrite s w d.target false d.comp d.snap d.va d.epoch d.bytes
    match m with
    | some m => l1Wrote s1 m d.strand d.target d.bytes
    | none => s1

/-- The pending stores that satisfy a test are performed, oldest first; the others stay. -/
def performWhere (s : State) (p : PendStore → Bool) : State :=
  let go := s.pendStores.filter p
  go.foldl performPend { s with pendStores := s.pendStores.filter fun d => !p d }

/-- Whether a waiting store belongs to one of a strand's lanes (R226). -/
def PendStore.ofLanes (d : PendStore) (uid strand : Nat) (lanes : LaneMask) : Bool :=
  d.uid == uid && d.strand == strand && decide (d.lanes &&& lanes ≠ 0)

/-- A release performs the lane's earlier stores, unordered pages apart; at system scope its moves of host lines too (R234,
R236, R242, R247). -/
def releaseLane (s : State) (uid strand : Nat) (lanes : LaneMask) (uoToo : Bool) (scope : Nat) : State :=
  performWhere s fun d => d.ofLanes uid strand lanes && (uoToo || !d.uo) && (d.move.isNone || decide (6 ≤ scope))

/-- A release at motif scope orders the lane's earlier stores towards its motif only: they are performed once an acquire
of the motif may have read what the release wrote (R229, R235, R236). -/
def shareLane (s : State) (uid strand : Nat) (lanes : LaneMask) (uoToo : Bool) : State :=
  { s with pendStores := s.pendStores.map fun d =>
      if d.ofLanes uid strand lanes && (uoToo || !d.uo) && d.move.isNone then { d with shared := true } else d }

/-- A release at strand scope: the lanes of the strand find each other's stores as they are, but what any of them releases
later to others takes these stores with it (R229, R235, R236). -/
def strandLane (s : State) (uid strand : Nat) (lanes : LaneMask) (uoToo : Bool) : State :=
  { s with pendStores := s.pendStores.map fun d =>
      if d.ofLanes uid strand lanes && (uoToo || !d.uo) && d.move.isNone then { d with lanes := BitVec.allOnes 96 } else d }

/-- A release of lanes at a scope (R229, R236). -/
def releaseAt (s : State) (uid strand : Nat) (lanes : LaneMask) (uoToo : Bool) (scope : Nat) : State :=
  if scope = 0 then strandLane s uid strand lanes uoToo
  else if scope = 1 then shareLane s uid strand lanes uoToo
  else releaseLane s uid strand lanes uoToo scope

/-- An acquire of a strand at a scope: what its motif has released towards it is performed, and the quadrant's older
copies go; nothing at strand scope (R229, R235, R236). -/
def acquireAt (s : State) (m : Motif) (strand : Nat) (uoToo : Bool) (scope : Nat) : State :=
  if scope = 0 then s
  else l1Acquire (performWhere s fun d => d.uid == m.uid && d.shared) m strand uoToo

/-- A release of a whole strand (R239). -/
def releaseStrand (s : State) (uid strand : Nat) : State :=
  performWhere s fun d => d.uid == uid && d.strand == strand && !d.uo && d.move.isNone

/-- The pending stores and moves of a strand to a line are performed before the strand reads or combines it (R232,
R267). -/
def settleLine (s : State) (uid strand : Nat) (p : PAddr) : State :=
  performWhere s fun d => d.uid == uid && d.strand == strand && d.target.line == p.line

end Sys2Proof.Machine
end

