-- ==== Sys2Proof/Machine/Operands.lean ====
section
/-! DEFINITION. Operand forms: which register fields an instruction reads and writes, their widths and kinds, the
checks on them, reading and writing registers per lane and once, and the frame in which a strand instruction runs. -/

namespace Sys2Proof.Machine

/-- How a strand instruction ends other than normally: a precise trap, a trap after an effect that remains in the state
given (a poisoning found, a sticky flag), a context error, in a state given where a poisoning was found, or a wait of its slot in the state given (R30, R216, R365). -/
inductive Stop where
  | trap (cause : Nat) (value : Word)
  | trapIn (cause : Nat) (value : Word) (s : State)
  | ctx (code detail addr : Nat)
  | ctxIn (code detail addr : Nat) (s : State)
  | block (w : Wait) (s : State)
  deriving DecidableEq, Repr

/-- The instruction being issued: its motif, strand and slot as they stand, its active lanes, its address, the address
of the next word, its prefix, and what each of its queue sources popped, by register. -/
structure Iss where
  m : Motif
  t : Strand
  x : Slot
  slot : Nat
  act : LaneMask
  pc : Dword
  next : Dword
  p : Option Pfx
  popped : Table (Table Word)
  deriving DecidableEq, Repr

/-- The kind of register a position takes. -/
inductive RegKind where
  | any
  | vector
  | scalar
  | noQueue
  | perLane
  | range (lo hi : Nat)
  deriving DecidableEq, Repr

/-- One register operand: its position (0 d, 1 a, 2 b, 3 c), its field, how many registers, whether it is written. -/
structure Use where
  pos : Nat
  reg : Reg
  width : Nat
  write : Bool
  kind : RegKind
  deriving DecidableEq, Repr

/-- The illegal-operand trap for a field and its position (R31). -/
def opTrap (r : Reg) (pos : Nat) : Stop := .trap 2 (BitVec.ofNat 32 (r.toNat + 256 * pos))

/-- The alignment trap for an address (R31). -/
def alignTrap (a : Nat) : Stop := .trap 3 (BitVec.ofNat 32 a)

/-- The registers of a 64-bit integer type code (R66, R90). -/
def intW (fn : BitVec 3) : Nat := if fn = 2 ∨ fn = 3 then 2 else 1

/-- The registers of a float type code (R66, R152). -/
def fltW (fn : BitVec 3) : Nat := if fn = 1 then 2 else 1

/-- The registers of a width code of R25. -/
def memW (w : BitVec 3) : Nat := if w = 3 then 2 else if w = 4 then 4 else 1

/-- The width of a special register (R123). -/
def specialW (n : Nat) : Nat :=
  if n = 0x10 ∨ n = 0x20 ∨ n = 0x21 ∨ n = 0x40 ∨ n = 0x60 ∨ n = 0x81 then 2 else 1

/-- A destination of any kind. -/
def wr (r : Reg) (w : Nat) (k : RegKind := .any) : Use := { pos := 0, reg := r, width := w, write := true, kind := k }

/-- A source. -/
def rd (pos : Nat) (r : Reg) (w : Nat) (k : RegKind := .any) : Use :=
  { pos := pos, reg := r, width := w, write := false, kind := k }

/-- Whether a prefix says nothing: every field at its default, so that the instruction runs as if alone (R71, log entry
66). -/
def plainPrefix (p : Pfx) : Bool :=
  p == { mask := 0, rm := 0, c := 0, z := false, sat := false, mod := 0, xl := 0 }

/-- The fourth operand: the prefix's c, or d with no prefix (R70), and d under a prefix that says nothing (R71; log
entry 66). -/
def fourth (p : Option Pfx) (d : Reg) : Reg :=
  match p with
  | some p => if plainPrefix p then d else p.c
  | none => d

/-- The register operands of format A instructions (R90, R93 to R104, R109, R114, R151 to R180, R254 to R269, R299). A
queue register may stand for the vector a of QNT, QNTC and MATCH and for d of VOTE and REDUX (log entry 77). -/
def usesA (p : Option Pfx) (op : Nat) (w : FmtA) : List Use :=
  let c := fourth p w.d
  let n := intW w.fn
  let f := fltW w.fn
  match op with
  | 0x04 => [wr w.d n, rd 1 w.a n, rd 2 w.b n, rd 3 c n]
  | 0x0E | 0x0F | 0x10 | 0x11 => [wr w.d n, rd 1 w.a n, rd 2 w.b 1]
  | 0x12 | 0x13 => [wr w.d 1, rd 1 w.a n]
  | 0x14 | 0x1B => [wr w.d n, rd 1 w.a n]
  | 0x15 | 0x19 => [wr w.d 1, rd 1 w.a 1, rd 2 w.b 1]
  | 0x16 | 0x1E | 0x1F => [wr w.d 1, rd 1 w.a 1, rd 2 w.b 1, rd 3 c 1]
  | 0x17 => [wr w.d n, rd 1 w.a n, rd 2 w.b n, rd 3 c 1]
  | 0x18 => [wr w.d 1, rd 1 w.a n, rd 2 w.b n]
  | 0x1A => [wr w.d 2, rd 1 w.a 2, rd 2 w.b 2]
  | 0x1C => [wr w.d n .scalar, rd 1 w.a n .vector, rd 2 w.b 1 .scalar]
  | 0x1D => [wr w.d n .vector, rd 1 w.a n .scalar, rd 2 w.b 1 .scalar]
  | 0x38 => [wr w.d 2, rd 1 w.a 1, rd 2 w.b 1]
  | 0x39 => [wr w.d 2, rd 1 w.a 1, rd 2 w.b 1, rd 3 c 2]
  | 0x3A => [wr w.d 2, rd 1 w.a 2, rd 2 w.b 1]
  | 0x42 => [rd 1 w.a 1 (.range 1 26)]
  | 0x44 => [wr w.d 2 .scalar, rd 1 w.a 2 .scalar]
  | 0x45 => [rd 1 w.a 2 .scalar]
  | 0x46 => [rd 1 w.a 2 .noQueue]
  | 0x4B => [wr w.d 1 .scalar, rd 1 w.a 1 .scalar, rd 2 w.b 1 .scalar]
  | 0x4C | 0x58 => [rd 1 w.a 1 .scalar, rd 2 w.b 1 .scalar]
  | 0x4D => [rd 1 w.a 2 .scalar]
  | 0x52 => [wr w.d 1 .scalar]
  | 0x56 => [wr w.d 1 .scalar, rd 1 w.a 1 .scalar]
  | 0x57 => [wr w.d 1 .vector]
  | 0x63 => [wr w.d f, rd 1 w.a f, rd 2 w.b f, rd 3 c f]
  | 0x66 => [wr w.d 1, rd 1 w.a f, rd 2 w.b f]
  | 0x67 => let g := if w.fn.getLsbD 0 then 2 else 1
            [wr w.d 1, rd 1 w.a g, rd 2 w.b g]
  | 0x69 | 0x6A | 0x6B | 0x6C | 0x6D | 0x6E | 0x6F | 0x70 | 0x7A | 0x7D => [wr w.d f, rd 1 w.a f]
  | 0x71 => [wr w.d 1, rd 1 w.a f]
  | 0x72 =>
    [wr w.d (if w.b.extractLsb' 4 3 = 1 then 2 else 1), rd 1 w.a (if w.b.extractLsb' 0 3 = 1 then 2 else 1)]
  | 0x73 =>
    let it := (w.b.extractLsb' 3 3).toNat
    let iw := if it = 2 ∨ it = 3 then 2 else 1
    let fw := if w.b.extractLsb' 0 3 = 1 then 2 else 1
    if w.b.getLsbD 6 then [wr w.d iw, rd 1 w.a fw] else [wr w.d fw, rd 1 w.a iw]
  | 0x74 => [wr w.d 1, rd 1 w.a 1, rd 2 w.b 1]
  | 0x75 => [wr w.d 2, rd 1 w.a 1]
  | 0x76 | 0x77 => [wr w.d 1 .vector, rd 1 w.a 1]
  | 0x78 => [wr w.d 1, rd 1 w.a 1]
  | 0x79 => [wr w.d 1, rd 1 w.a 1, rd 2 w.b 1, rd 3 c 1]
  | 0x7B => [wr w.d f, rd 1 w.a f, rd 2 w.b 1]
  | 0x80 => [wr w.d 1 .vector, rd 1 w.a 1 .vector, rd 2 w.b 1 .noQueue]
  | 0x81 => [wr w.d 1, rd 1 w.a 1]
  | 0x82 => [wr w.d 1 (.range 1 29), rd 1 w.a 1 .perLane]
  | 0x83 => let g := if w.fn = 2 ∨ w.fn = 3 ∨ w.fn = 5 then 2 else 1
            [wr w.d g, rd 1 w.a g .vector]
  | 0x84 => let g := if w.fn = 2 ∨ w.fn = 3 ∨ w.fn = 5 then 2 else 1
            [wr w.d g .vector, rd 1 w.a g .vector]
  | 0x85 => [wr w.d 1 .vector, rd 1 w.a (if w.fn = 1 then 2 else 1) .perLane]
  | 0x8C => [wr w.d 1 .noQueue, rd 1 w.a 2 .noQueue, rd 2 w.b 1 .noQueue] ++
            (if w.fn = 3 then [rd 3 c 1 .noQueue] else [])
  | 0x8D => [wr w.d 2 .noQueue, rd 1 w.a 2 .noQueue, rd 2 w.b 2 .noQueue] ++
            (if w.fn = 3 then [rd 3 c 2 .noQueue] else [])
  | 0x8E => [rd 1 w.a 2 .noQueue, rd 2 w.b (if w.d = 1 then 2 else 1) .noQueue]
  | 0x8F => [wr w.d 1 .noQueue, rd 1 w.a 1 .noQueue, rd 2 w.b 1 .noQueue] ++
            (if w.fn = 3 then [rd 3 c 1 .noQueue] else [])
  | 0x98 => [wr w.d 2 .noQueue, rd 1 w.a 1 .noQueue, rd 2 w.b 2 .noQueue] ++
            (if w.fn = 3 then [rd 3 c 2 .noQueue] else [])
  | 0x91 | 0x92 => [rd 1 w.a 2 .noQueue, rd 2 w.b 1 .noQueue]
  | 0x94 => [wr w.d 2 .noQueue, rd 1 w.a 1 .noQueue]
  | 0x95 => if w.fn = 0 then [wr w.d 1 .noQueue, rd 1 w.a 2 .noQueue] else [rd 1 w.a 2 .noQueue, rd 2 w.b 1 .noQueue]
  | 0x96 => [wr w.d (if w.fn = 1 then 2 else 1) .noQueue, rd 1 w.a 1 (.range 1 31), rd 2 w.b 2 .noQueue]
  | 0x97 => [rd 0 w.d (if w.fn = 1 then 2 else 1) .noQueue, rd 1 w.a 1 (.range 1 31), rd 2 w.b 2 .noQueue]
  | 0xA0 | 0xA1 | 0xA2 | 0xB0 | 0xB1 | 0xB2 | 0xAB =>
    [wr w.d 1 (.range 0 28), rd 1 w.a 4 (.range 4 27), rd 2 w.b 1 .scalar]
  | 0xA3 => [rd 1 w.a 1 (.range 1 28), rd 2 w.b 2 .scalar]
  | 0xA4 => [wr w.d 2 .scalar]
  | 0xA5 => [wr w.d 1 (.range 0 28), rd 2 w.b 1 .scalar]
  | 0xA6 => [rd 1 w.a 1 .scalar]
  | 0xA7 => if w.fn = 0 then [rd 1 w.a 1 .scalar] else []
  | 0xA8 => [rd 0 w.d 1 .scalar, rd 1 w.a 1 .scalar, rd 2 w.b 1 .scalar]
  | 0xA9 => [rd 1 w.a 1 .scalar]
  | 0xAA => [wr w.d 1 .scalar, rd 1 w.a 1 .scalar]
  | 0xAC => [wr w.d 1 .vector, rd 1 w.a 2 .noQueue]
  | 0xAD => [wr w.d 1 (.range 1 28)]
  | 0xAE => [wr w.d 1 (.range 1 28), rd 1 w.a 1 .scalar]
  | 0xAF => [wr w.d (if w.fn = 3 then 2 else 1) .scalar, rd 1 w.a 1 .scalar]
  | 0xB3 => [wr w.d 1 (.range 0 28), rd 1 w.a 2 .scalar]
  | 0xB4 => [wr w.d 1 (.range 0 28), rd 1 w.a 2 .scalar]
  | _ =>
    if op ≤ 0x0D then [wr w.d n, rd 1 w.a n, rd 2 w.b n]
    else if 0x60 ≤ op ∧ op ≤ 0x7E then [wr w.d f, rd 1 w.a f, rd 2 w.b f]
    else []

/-- The register operands of a word (R63, R90, R105 to R108, R112, R113, R117, R122, R169, R173, R254). -/
def shapeUses (p : Option Pfx) : Shape → List Use
  | .a op w => usesA p op w
  | .b op w =>
    match op with
    | 0x30 => [rd 1 w.a 1 .scalar]
    | 0x36 | 0x3B | 0x3C => [wr w.d 2, rd 1 w.a 2]
    | 0x4A => [rd 1 w.a 1 .scalar]
    | 0x53 => [wr w.d 2 .noQueue]
    | _ => [wr w.d 1, rd 1 w.a 1]
  | .bc _ w => [wr w.d 1, rd 1 w.a 1]
  | .bf op w => if op = 0x34 then [wr w.d 1, rd 1 w.a 1, rd 0 w.d 1] else [wr w.d 1, rd 1 w.a 1]
  | .u op w =>
    match op with
    | 0x2C => [wr w.d 1, rd 0 w.d 1]
    | 0x2D => [wr w.d 2]
    | 0x31 => [wr w.d (if w.imm.getLsbD 16 then 2 else 1)]
    | 0x2E => [wr w.d (specialW w.imm.toNat)]
    | 0x2F => [rd 0 w.d (specialW w.imm.toNat) .scalar]
    | 0x4E | 0x4F | 0x55 => []
    | _ => [wr w.d 1]
  | .j op w =>
    match op with
    | 0x40 => if w.fn = 0 then [] else [rd 1 w.a 1 .scalar]
    | 0x41 => [rd 1 w.a 1 .noQueue]
    | _ => [rd 1 w.a 1 (.range 1 28)]
  | .l _ _ => [wr 122 2 .scalar]
  | .m op w =>
    match op with
    | 0x86 => [wr w.d (memW w.w) .noQueue, rd 1 w.a 2 .noQueue]
    | 0x87 => [rd 0 w.d (memW w.w) .noQueue, rd 1 w.a 2 .noQueue]
    | 0x88 | 0x99 => [wr w.d (memW w.w) .noQueue, rd 1 w.a 1 .noQueue]
    | 0x89 | 0x8B => [rd 0 w.d (memW w.w) .noQueue, rd 1 w.a 1 .noQueue]
    | 0x8A => [wr w.d (memW w.w) .vector, rd 1 w.a 1 .noQueue]
    | 0x93 => [rd 1 w.a 2 .noQueue]
    | _ => []

/-- The number of a scalar field. -/
def scalarNo (r : Reg) : Nat := r.toNat - 96

/-- Whether a field is of the kind its position takes. -/
def RegKind.admits (k : RegKind) (r : Reg) : Bool :=
  match k with
  | .any => true
  | .vector => r.isVector
  | .scalar => r.isScalar
  | .noQueue => !r.isQueue
  | .perLane => !r.isScalar
  | .range lo hi => r.isScalar && decide (lo ≤ scalarNo r ∧ scalarNo r ≤ hi)

/-- The binding byte of a queue register (R149). -/
def qbindOf (h : Header) (r : Reg) : Nat := (h.qbind.getD (r.toNat - 92) 0).toNat

/-- Whether the header binds a queue register (R16). -/
def qBound (h : Header) (r : Reg) : Bool := decide (128 ≤ qbindOf h r)

/-- Whether one operand is legal: kind, alignment, window, queue binding and direction (R11, R12, R15, R16, R145). -/
def Use.ok (u : Use) (m : Motif) (t : Strand) : Bool :=
  u.kind.admits u.reg &&
  (if u.reg.isQueue then
    u.width == 1 && qBound m.header u.reg && (if u.write then u.reg == 93 || u.reg == 95 else u.reg == 92 || u.reg == 94)
  else
    decide (u.reg.toNat % u.width = 0) &&
      (!u.reg.isVector || decide (t.wb + u.reg.toNat + u.width ≤ m.header.allot)))

/-- Whether a field is a vector or a queue register, which makes an instruction run per lane (R23, R87). -/
def perLaneReg (r : Reg) : Bool := r.isVector || r.isQueue

/-- Opcodes that define a scalar destination with a vector source: READLANE, VOTE, BALLOT, REDUX (R89, R102, R165 to
R167), and control instructions whose d is no destination of a per-lane result. -/
def scalarFromVector (op : Nat) : Bool := op == 0x1C || op == 0x81 || op == 0x82 || op == 0x83

/-- The first operand that is illegal by itself, in the order d, a, b, c (log entry 12). -/
def badUse (m : Motif) (t : Strand) (us : List Use) : Option Use := us.find? fun u => !u.ok m t

/-- Whether one input queue register stands in two source positions (R145): the later one. -/
def doubleQueue (us : List Use) : Option Use :=
  us.find? fun u => !u.write && u.reg.isQueue && us.any fun v => !v.write && v.reg == u.reg && decide (v.pos < u.pos)

/-- A scalar destination with a vector or queue source (R23, R92, R145). -/
def scalarClash (op : Nat) (us : List Use) : Option Use :=
  us.find? fun u => u.write && u.reg.isScalar &&
    us.any fun v => !v.write && (v.reg.isQueue || (v.reg.isVector && !scalarFromVector op))

/-- Step 5 of R77: the operand checks of an instruction; the trap of the first that fails. -/
def operandStop (m : Motif) (t : Strand) (op : Nat) (us : List Use) : Option Stop :=
  match badUse m t us with
  | some u => some (opTrap u.reg u.pos)
  | none =>
    match doubleQueue us with
    | some u => some (opTrap u.reg u.pos)
    | none => (scalarClash op us).map fun u => opTrap u.reg u.pos

/-! ## Reading and writing registers -/

/-- A scalar register (R13). -/
def Strand.sreg (t : Strand) (n : Nat) : Word :=
  if n = 0 then 0 else if n ≤ 28 then tget 0 t.sregs n else t.mask.extractLsb' (32 * (n - 29)) 32

/-- The number of a register, a pair or a quad of scalars; the pair s0 reads 0 (R10, R13). -/
def Strand.scalars (t : Strand) (n w : Nat) : Nat :=
  if n = 0 ∧ w = 2 then 0
  else ((List.range w).map fun i => (t.sreg (n + i)).toNat * 2 ^ (32 * i)).sum

/-- The key of a vector register of a lane. -/
def vkey (r lane : Nat) : Nat := r * 96 + lane

/-- A vector register of a lane, by absolute number (R12). -/
def Strand.vreg (t : Strand) (r lane : Nat) : Word := tget 0 t.vregs (vkey r lane)

/-- The number of a vector register, pair or quad of a lane (R10). -/
def Strand.vectors (t : Strand) (r w lane : Nat) : Nat :=
  ((List.range w).map fun i => (t.vreg (r + i) lane).toNat * 2 ^ (32 * i)).sum

/-- A register operand as a lane reads it (R89). -/
def Iss.read (q : Iss) (r : Reg) (w lane : Nat) : Nat :=
  if r.isVector then q.t.vectors (q.t.wb + r.toNat) w lane
  else if r.isQueue then (tget 0 (tget [] q.popped r.toNat) lane).toNat
  else q.t.scalars (scalarNo r) w

/-- The partner lane of a cross-lane code (R69); none outside the strand. -/
def partner (xl lane : Nat) : Option Nat :=
  let p : Option Nat := match xl with
    | 0 => some lane
    | 1 => some (lane ^^^ 1)
    | 2 => some (lane ^^^ 2)
    | 3 => some (lane ^^^ 4)
    | 4 => some (lane ^^^ 8)
    | 5 => some (lane ^^^ 16)
    | 6 => some (lane ^^^ 32)
    | 7 => some (lane ^^^ 64)
    | 8 => some (lane + 1)
    | 9 => if lane = 0 then none else some (lane - 1)
    | 10 => some (lane / 32 * 32)
    | 11 => some 0
    | _ => some (lane / 32 * 32 + (31 - lane % 32))
  p.bind fun p => if p < 96 then some p else none

/-- The prefix's cross-lane code. -/
def Iss.xl (q : Iss) : Nat := match q.p with
  | some p => p.xl.toNat
  | none => 0

/-- The prefix's rounding or ordering code. -/
def Iss.rm (q : Iss) : BitVec 3 := match q.p with
  | some p => p.rm
  | none => 0

/-- The prefix's sat. -/
def Iss.sat (q : Iss) : Bool := match q.p with
  | some p => p.sat
  | none => false

/-- The prefix's mod field. -/
def Iss.mod (q : Iss) : BitVec 3 := match q.p with
  | some p => p.mod
  | none => 0

/-- The prefix's z. -/
def Iss.z (q : Iss) : Bool := match q.p with
  | some p => p.z
  | none => false

/-- The rounding mode of the instruction (R41). -/
def Iss.rmode (q : Iss) : RMode := rmodeOf q.rm q.t.frm

/-- What a lane delivers to a cross-lane read: never launched lanes deliver 0 (R69, R163). -/
def Iss.readOf (q : Iss) (r : Reg) (w : Nat) (lane : Option Nat) : Nat :=
  match lane with
  | none => 0
  | some l => if q.t.launched.getLsbD l then q.read r w l else 0

/-- The first source as a lane reads it, from its partner under xl (R69, R89). Of a queue source a partner delivers what
the pop gave it, so an inactive one delivers 0 (R145; log entry 67). -/
def Iss.srcA (q : Iss) (r : Reg) (w lane : Nat) : Nat :=
  if q.xl = 0 then q.read r w lane else q.readOf r w (partner q.xl lane)

/-- A register instruction's result: its destination, how many registers, a value for each lane it computed (or one for
a uniform form), the flags raised, the generators advanced, and the field that a trap of the write names (R31). -/
structure RegOut where
  dst : Reg
  width : Nat
  vals : List (Nat × Nat)
  flags : Flags := 0
  gens : List (Nat × BitVec 24) := []
  field : Reg := dst
  deriving DecidableEq, Repr

/-- The words of a value. -/
def wordsOf : Nat → Nat → List Word
  | 0, _ => []
  | n + 1, v => BitVec.ofNat 32 v :: wordsOf n (v / 2 ^ 32)

/-- The entries that put consecutive words from a register number on. -/
def numbered : Nat → List Word → List (Nat × Word)
  | _, [] => []
  | n, w :: ws => (n, w) :: numbered (n + 1) ws

/-- A write of vector registers of one lane. -/
def Strand.setVec (t : Strand) (r lane : Nat) (ws : List Word) : Strand :=
  { t with vregs := tsetMany 0 t.vregs ((numbered 0 ws).map fun e => (vkey (r + e.1) lane, e.2)) }

/-- The mask image that a write of some of m0 to m2 gives, before the membership rule. -/
def maskImage (old : LaneMask) (ws : List (Nat × Word)) : LaneMask :=
  let part := fun (i : Nat) => ((ws.find? fun e => e.1 == 29 + i).map (·.2)).getD (old.extractLsb' (32 * i) 32)
  part 2 ++ part 1 ++ part 0

/-- A write of scalar registers by a slot with the given members: s0 discards, a write of the masks takes effect within
the slot's membership and fails when it would leave the slot no active lane (R13, R14, R128). -/
def Strand.setScalars (t : Strand) (members : LaneMask) (n : Nat) (ws : List Word) : Option Strand :=
  if n = 0 ∧ ws.length = 2 then some t
  else
    let es := numbered n ws
    let plain := es.filter fun e => decide (1 ≤ e.1 ∧ e.1 ≤ 28)
    let t1 := { t with sregs := tsetMany 0 t.sregs plain }
    if es.any fun e => decide (29 ≤ e.1) then
      let img := maskImage t.mask es
      let new := (img &&& members) ||| (t.mask &&& ~~~members)
      if new &&& members = 0 then none else some { t1 with mask := new }
    else some t1

/-- The vector register file after a per-lane write: active lanes receive their values, the others keep theirs, or
are zeroed under z (R69, R89). -/
def Strand.writeVec (t : Strand) (act : LaneMask) (z : Bool) (r w : Nat) (vals : List (Nat × Nat)) : Strand :=
  let t1 := vals.foldl (fun t e => t.setVec r e.1 (wordsOf w e.2)) t
  if z then
    ((List.range 96).filter fun l => !act.getLsbD l).foldl (fun t l => t.setVec r l (List.replicate w 0)) t1
  else t1

/-- A register instruction's result written to its destination (R89); a mask write that empties the slot traps (R14),
naming the word's field d and position 0, which is the model's choice (log entry 68). -/
def Iss.write (q : Iss) (t : Strand) (o : RegOut) : Except Stop Strand :=
  if o.dst.isVector then .ok (t.writeVec q.act q.z (q.t.wb + o.dst.toNat) o.width o.vals)
  else if o.dst.isQueue then .ok t
  else
    match o.vals with
    | [] => .ok t
    | (_, v) :: _ =>
      match t.setScalars q.x.members (scalarNo o.dst) (wordsOf o.width v) with
      | some t' => .ok t'
      | none => .error (opTrap o.field 0)

/-! ## Queues -/

/-- The pattern queue that a bound queue register names (R145, R149). -/
def queueOf (s : State) (m : Motif) (r : Reg) : Option PQueue :=
  (recordOf s m.ring m.record).bind fun rec => rec.queues[qbindOf m.header r % 8]?

/-- The state with the queue of a bound register changed. -/
def updQueue (s : State) (m : Motif) (r : Reg) (f : PQueue → PQueue) : State :=
  updRecord s m.ring m.record fun rec =>
    { rec with queues := rec.queues.zipIdx.map fun e => if e.2 = qbindOf m.header r % 8 then f e.1 else e.1 }

/-- The queues that a stage pushes to: those bound to its output registers (R16, R144). -/
def outQueues (h : Header) : List Nat :=
  [1, 3].filterMap fun i =>
    let b := (h.qbind.getD i 0).toNat
    if 128 ≤ b then some (b % 8) else none

/-- Whether a stage has finished: no motif left to create, none resident or saved (R144). -/
def stageFinished (queues : List PQueue) (st : Stage) : Bool :=
  decide (st.retired = st.created) &&
  (match st.input with
   | none => decide (st.created = st.grid)
   | some i => match queues[i]? with
     | some q => q.closed && q.items.isEmpty
     | none => true)

/-- The queues of a begun record that every pushing stage has finished with are closed (R144). A queue to which no stage
pushes is closed when the record begins: no stage is left that could push, and the spec does not name the case (the
model's choice, log entry 85). -/
def closeOnce (r : Record) : Record :=
  let doneWith := fun (j : Nat) => r.stages.all fun st => !(outQueues st.header).contains j || stageFinished r.queues st
  { r with queues := r.queues.zipIdx.map fun e => if doneWith e.2 then { e.1 with closed := true } else e.1 }

/-- Closing a queue can finish a stage and so close the next. -/
def closeRecord : Nat → Record → Record
  | 0, r => r
  | n + 1, r => closeRecord n (closeOnce r)

/-- The queues of a record closed where R144 closes them. -/
def closeQueues (s : State) (ring n : Nat) : State := updRecord s ring n (closeRecord 9)

/-- Slots of the record's motifs that wait on a queue are woken. -/
def wakeQueues (s : State) (m : Motif) : State :=
  let w := fun (x : Wait) => match x with
    | .queue _ => true
    | _ => false
  { s with motifs := s.motifs.map fun n =>
      if n.ring = m.ring ∧ n.record = m.record then { n with strands := n.strands.map (wakeSlots w) } else n }

/-- Whether a pop can proceed: enough items, or a closed queue (R145). -/
def PQueue.canPop (q : PQueue) (n : Nat) : Bool := q.closed || decide (n ≤ q.items.length)

/-- The queue sources among operands, in operand order (R145). -/
def queueSources (us : List Use) : List Use := us.filter fun u => !u.write && u.reg.isQueue

/-- The items that an instruction's pops take from an operand's queue before the operand: two registers bound to one
queue pop it in operand order, and a push follows every pop (R145). -/
def takenBefore (m : Motif) (n : Nat) (us : List Use) (u : Use) : Nat :=
  n * ((queueSources us).filter fun v =>
    qbindOf m.header v.reg % 8 == qbindOf m.header u.reg % 8 && (u.write || decide (v.pos < u.pos))).length

/-- A queue as a source or a destination of an instruction with n active lanes, `taken` items of it popped before: a trap,
a wait, or nothing (R145). -/
def queueStop (s : State) (m : Motif) (n taken : Nat) (u : Use) : Option Stop :=
  if !u.reg.isQueue then none
  else
    match queueOf s m u.reg with
    | none => some (opTrap u.reg u.pos)
    | some q =>
      if q.capacity < n then some (opTrap u.reg u.pos)
      else if u.write then
        if q.closed then some (opTrap u.reg u.pos)
        else if q.items.length - taken + n ≤ q.capacity then none else some (.block (.queue u.reg.toNat) s)
      else if q.canPop (taken + n) then none else some (.block (.queue u.reg.toNat) s)

/-- The items popped, given to the lowest active lanes (R145). -/
def popped (act : LaneMask) (items : List Word) : Table Word :=
  ((lanesOf act).zip items).filter fun e => decide (e.2 ≠ 0)

/-- A pop: the queue's oldest items leave; what their pushes or the close released is acquired (R145, R146, R178). -/
def popQueue (s : State) (q : Iss) (r : Reg) : State × Table Word × Nat :=
  match queueOf s q.m r with
  | none => (s, [], 0)
  | some p =>
    let k := min (laneCount q.act) p.items.length
    let s1 := if k = 0 ∧ !p.closed then s else l1Acquire s q.m q.t.index false
    let s2 := closeQueues (updQueue s1 q.m r fun p => { p with items := p.items.drop k }) q.m.ring q.m.record
    (wakeQueues s2 q.m, popped q.act (p.items.take k), k)

/-- Queue sources popped one after the other: the state, the issue with what each gave, and the count of the last pop
(R145). -/
def popSources (us : List Use) (s : State) (q : Iss) : State × Iss × Option Nat :=
  (queueSources us).foldl (fun r u =>
    let p := popQueue r.1 r.2.1 u.reg
    (p.1, { r.2.1 with popped := tset [] r.2.1.popped u.reg.toNat p.2.1 }, some p.2.2)) (s, q, none)

/-- A push: each active lane's value, in increasing lane number, after the lanes' earlier writes (R145, R146). -/
def pushQueue (s : State) (q : Iss) (r : Reg) (vals : List Word) : State :=
  wakeQueues (updQueue (releaseLane s q.m.uid q.t.index q.act false 4) q.m r
    fun p => { p with items := p.items ++ vals }) q.m

/-! ## The frame of a strand instruction -/

/-- The bits of a mask triple sN to sN+2 (R69). -/
def Strand.triple (t : Strand) (n : Nat) : LaneMask := t.sreg (n + 2) ++ t.sreg (n + 1) ++ t.sreg n

/-- The slot that issues, with its active lanes before any prefix; none when `cur` names no slot. -/
def issuerOf (s : State) : Option Iss :=
  match s.cur with
  | some (.slot uid j k) =>
    (motifOf s uid).bind fun m => (strandOf m j).bind fun t => (t.live[k]?).map fun x =>
      { m := m, t := t, x := x, slot := k, act := t.mask &&& x.members, pc := x.pc, next := x.pc, p := none, popped := [] }
  | _ => none

/-- The feature that an opcode needs beyond bit 0 (R422). -/
def opFeature (op : Nat) : Option Nat :=
  match op with
  | 0xA9 | 0xAB | 0xAC => some 4
  | 0xA2 => some 6
  | 0xAD | 0xAE | 0xAF => some 7
  | 0x91 | 0x92 => some 10
  | 0x95 => some 11
  | 0x51 | 0x52 | 0x57 => some 12
  | _ => none

/-- Whether a word is a vector FP64 form (R422, bit 1). -/
def fp64Form : Shape → Bool
  | .a op w =>
    match op with
    | 0x67 => w.fn.getLsbD 0
    | 0x72 => w.b.extractLsb' 4 3 == 1 || w.b.extractLsb' 0 3 == 1
    | 0x73 => w.b.extractLsb' 0 3 == 1
    | 0x74 | 0x75 | 0x76 | 0x77 | 0x78 => false
    | 0x83 | 0x84 => w.fn == 5
    | 0x8D | 0x98 => w.fn == 1
    | 0x8E => w.fn == 1 && w.d == 1
    | 0x96 | 0x97 => w.fn == 1
    | _ => decide (0x60 ≤ op ∧ op ≤ 0x7E) && w.fn == 1
  | .u op w => op == 0x31 && w.imm.getLsbD 16
  | _ => false

/-- The refusal of a feature that the device has not accepted: trapval the word, or the prefix for rnd=sr (R76, R422). -/
def featureStop (s : State) (vd : Nat) (i : Instr) : Option Stop :=
  match i.shape with
  | none => none
  | some (p, sh) =>
    let refused := match opFeature sh.op with
      | some b => !featureOn s vd b
      | none => false
    if refused || (fp64Form sh && !featureOn s vd 1) then some (.trap 1 i.mainWord)
    else
      match p with
      | some p =>
        if p.rm = 5 && (acceptsOf sh.op).rm == .rounding && !featureOn s vd 5 then some (.trap 1 i.firstWord) else none
      | none => none

/-- The scalar registers that an instruction touches: its operands, its prefix's mask triple, the triples of JOIN and
BALLOT; XYIELD itself waits for its status register (R316). -/
def touchedScalars (p : Option Pfx) (sh : Shape) (us : List Use) : List Nat :=
  let triple := fun (n : Nat) => [n, n + 1, n + 2]
  us.flatMap (fun u => if u.reg.isScalar && !(sh.op == 0xA3 && u.pos == 1) then
    (List.range u.width).map (scalarNo u.reg + ·) else []) ++
  (match p with
    | some p => if p.mask = 0 then [] else triple p.mask.toNat
    | none => []) ++
  (match sh with
    | .a op w => if op = 0x42 then triple (scalarNo w.a) else if op = 0x82 then triple (scalarNo w.d) else []
    | _ => [])

/-- An instruction whose prefix's triple holds a register still to be written by an engine command waits for it before its
active lanes are known (R77, R137, R301). -/
def tripleStop (s : State) (t : Strand) (p : Option Pfx) : Option Stop :=
  let regs := match p with
    | some p => if p.mask = 0 then [] else [p.mask.toNat, p.mask.toNat + 1, p.mask.toNat + 2]
    | none => []
  (regs.find? fun n => t.pending.any fun e => e.reg == n).map fun n => .block (.status n) s

/-- An instruction that touches a register still to be written by an engine command waits for it (R137, R301). -/
def statusStop (s : State) (t : Strand) (p : Option Pfx) (sh : Shape) (us : List Use) : Option Stop :=
  ((touchedScalars p sh us).find? fun n => t.pending.any fun e => e.reg == n).map fun n => .block (.status n) s

/-- The slot whose turn follows, and the swap with the stack after the second turn (R138). -/
def passTurn (t : Strand) : Strand :=
  if t.turn = 0 ∧ 2 ≤ t.live.length then { t with turn := 1 }
  else
    match t.live, t.stack with
    | older :: rest, y :: ys => { t with turn := 0, live := rest ++ [y], stack := ys ++ [older] }
    | _, _ => { t with turn := 0 }

/-- Time passes (R4). -/
def elapse (s : State) (n : Nat) : State := { s with clock := s.clock + n }

/-- The cycles of an issue grant: the clock, and the slice counter of the issuing cluster unless it is frozen, which also
takes the cycles since the load of its context began, at the first grant after it (R4, R127, R190, R399). -/
def spend (s : State) (m : Motif) (n : Nat) : State :=
  let load := fun (c : Cluster) => match c.loading with
    | some t => s.clock - t
    | none => 0
  updCluster (elapse s n) m.die m.cluster fun c =>
    if c.frozen then { c with loading := none } else { c with slice := c.slice + load c + n, loading := none }

/-- Whether a word runs per lane: an operand says so, or it is STP, which has no uniform form (R127, R254, R260). -/
def beatsRun (sh : Shape) (us : List Use) : Bool := sh.op == 0x8B || us.any fun u => perLaneReg u.reg

/-- Beats of an instruction: one cycle when uniform, else one per beat that holds an active lane (R127). -/
def cyclesOf (act : LaneMask) (sh : Shape) (us : List Use) : Nat := if beatsRun sh us then beatsOf act else 1

/-- The energy event of an opcode's beat (R395). -/
def energyIndex (sh : Shape) : Nat :=
  let op := sh.op
  if fp64Form sh then 3
  else if decide (0x6A ≤ op ∧ op ≤ 0x70) || op == 0x76 || op == 0x77 || decide (0x80 ≤ op ∧ op ≤ 0x85) then 4
  else if decide (0x60 ≤ op ∧ op ≤ 0x7E) then 2
  else 1

/-- The turn after an issue: a split, a merge or the end of a slot starts a new pair; otherwise the turn passes (R138). -/
def turnAfter (before t : Strand) : Strand :=
  if t.live.length + t.stack.length = before.live.length + before.stack.length then passTurn t else { t with turn := 0 }

/-- What an issue leaves after its effect: the turn, the cycles and the energy (R127, R138, R395). -/
def afterIssue (q : Iss) (sh : Shape) (us : List Use) (s : State) : State :=
  let n := cyclesOf q.act sh us
  let s1 := updStrand s q.m.uid q.t.index (turnAfter q.t)
  let s2 := if beatsRun sh us then charge s1 (cidVd q.m.cid) (energyIndex sh) n
            else charge s1 (cidVd q.m.cid) 0 1
  spend s2 q.m n

/-- How a stop takes effect (R30, R137, R216, R365). -/
def settle (q : Iss) (s : State) : Stop → State
  | .trap cause value => takeTrap s q.m q.t q.slot cause value q.pc q.next
  | .trapIn cause value s' => takeTrap s' q.m q.t q.slot cause value q.pc q.next
  | .ctx code detail addr => contextError s q.m q.t.index code detail addr
  | .ctxIn code detail addr s' => contextError s' q.m q.t.index code detail addr
  | .block w s' => updStrand s' q.m.uid q.t.index fun t => updSlot t q.slot fun x => { x with wait := w }

/-- The slot goes on at the next word, ready (R21). -/
def advance (q : Iss) (s : State) : State :=
  updStrand s q.m.uid q.t.index fun t => updSlot t q.slot fun x => { x with pc := q.next, wait := .ready }

/-- A word that R77 makes a no-operation: the PC advances, one cycle, no beat (R77, R127). -/
def skip (q : Iss) (s : State) : State :=
  let s1 := advance q s
  spend (updStrand s1 q.m.uid q.t.index passTurn) q.m 1

/-- The issue with the instruction's address, size and prefix, and the lanes its mask triple leaves active (R77). -/
def Iss.enter (q : Iss) (i : Instr) : Iss :=
  let p := (i.shape.bind fun e => e.1)
  let act := match p with
    | some p => if p.mask = 0 then q.act else q.act &&& q.t.triple p.mask.toNat
    | none => q.act
  { q with act := act, p := p, next := q.pc + BitVec.ofNat 64 i.size }

/-- The instructions that only the producer strand may issue (R141). -/
def producerOnly (op : Nat) : Bool :=
  op == 0xA0 || op == 0xA1 || op == 0xB0 || op == 0xB1 || op == 0xB2 || op == 0xB3 || op == 0xB4

/-- The instructions of a kernel that takes part in cuts (R432). -/
def cutOnly (op : Nat) : Bool := op == 0xAD || op == 0xAE || op == 0xAF

/-- Whether a word is a BAR on a numbered barrier that the header does not mark (R173). -/
def unmarkedBar (m : Motif) : Shape → Bool
  | .b op w => op == 0x4A && !m.header.barriers.getLsbD (w.imm.extractLsb' 0 4).toNat
  | _ => false

/-- The illegal-instruction trap of an engine instruction outside the producer strand, of a cut instruction in a kernel
without the participation bit, and of BAR on a barrier that the header does not mark (R141, R173, R432). -/
def producerStop (m : Motif) (t : Strand) (i : Instr) (sh : Shape) : Option Stop :=
  if (producerOnly sh.op && t.index != m.header.producer) || (cutOnly sh.op && !m.header.cut) || unmarkedBar m sh then
    some (.trap 1 i.mainWord)
  else none

/-- What a word of no instruction costs: one cycle and the uniform event, whatever fields it has; a refused opcode is such
a word in every respect (R76, R127, R395). -/
def noShape : Shape := .l 0 { off := 0 }

/-- What a stop of an instruction's effect leaves. A short stall, which is a block that leaves the slot ready, keeps the
turn: time passes, and no slot has issued (R137, R138). Every other stop ends an issue. -/
def afterStop (q : Iss) (sh : Shape) (us : List Use) (s : State) : Stop → State
  | .block .ready s' => { elapse s' 1 with cur := none }
  | e => afterIssue q sh us (settle q s e)

/-- One strand instruction of an issuing slot: predication, features, operands, the effect, what it leaves (R77). The
effect itself says where the PC goes when `moves` holds. -/
def strandStep (i : Instr) (moves : Bool) (body : Iss → State → Except Stop State) (q0 : Iss) (s : State) : State :=
  let q := q0.enter i
  match tripleStop s q.t q.p with
  | some e => afterIssue q noShape [] (settle q s e)
  | none =>
    if q.act = 0 then skip q s
    else
      match i.shape with
      | none => s
      | some (p, sh) =>
        match featureStop s (cidVd q.m.cid) i with
        | some e => afterIssue q noShape [] (settle q s e)
        | none =>
          let us := shapeUses p sh
          let stopped := match producerStop q.m q.t i sh with
            | some e => some e
            | none =>
              match operandStop q.m q.t sh.op us with
              | some e => some e
              | none => statusStop s q.t p sh us
          match stopped with
          | some e => afterIssue q sh us (settle q s e)
          | none =>
            match body q s with
            | .ok s' => afterIssue q sh us (if moves then s' else advance q s')
            | .error e => afterStop q sh us s e

/-- A strand instruction: a fault when nothing issues it. -/
def runStrand (i : Instr) (body : Iss → State → Except Stop State) (s : State) : Host.Outcome State Fault Refusal :=
  match issuerOf s with
  | none => .fault .noIssuer
  | some q => .next (strandStep i false body q s)

/-- A strand instruction that itself moves its slot. -/
def runControl (i : Instr) (body : Iss → State → Except Stop State) (s : State) : Host.Outcome State Fault Refusal :=
  match issuerOf s with
  | none => .fault .noIssuer
  | some q => .next (strandStep i true body q s)

/-- The operands of an instruction. -/
def instrUses (i : Instr) : List Use :=
  match i.shape with
  | some (p, sh) => shapeUses p sh
  | none => []

/-- A stop as a condition. -/
def orStop : Option Stop → Except Stop Unit
  | some e => .error e
  | none => .ok ()

/-- The first stop of a list of queue operands: the pops come before the push (R145). -/
def queueStops (s : State) (m : Motif) (n : Nat) (us : List Use) : Option Stop :=
  (queueSources us ++ us.filter fun u => u.write).findSome? fun u => queueStop s m n (takenBefore m n us u) u

/-- The state with the issuing strand replaced. -/
def putStrand (s : State) (q : Iss) (t : Strand) : State := updStrand s q.m.uid q.t.index fun _ => t

/-- The body of an instruction that computes registers from registers: the pops, the computation, the write of the
destination, the arithmetic trap, which a trap of the write precedes (R49), the push (R89, R145). -/
def regBody (i : Instr) (f : Iss → Except Stop RegOut) (q : Iss) (s : State) : Except Stop State :=
  let us := instrUses i
  match queueStops s q.m (laneCount q.act) us with
  | some e => .error e
  | none =>
    let pop := popSources us s q
    let q1 := pop.2.1
    match f q1 with
    | .error e => .error e
    | .ok o =>
      let t1 := { ((q.t.setGens o.gens).raise o.flags) with lastPop := (pop.2.2.map (BitVec.ofNat 32)).getD q.t.lastPop }
      match q1.write t1 o with
      | .error e => .error e
      | .ok t2 =>
        if q.t.arithTraps o.flags then .error (.trap 4 (o.flags.setWidth 32))
        else
          let s0 := putStrand pop.1 q t2
          let s1 := if pop.2.2.isSome then wakeQueues s0 q.m else s0
          if o.dst.isQueue then .ok (pushQueue s1 q o.dst (o.vals.map fun e => BitVec.ofNat 32 e.2)) else .ok s1

/-- A register instruction (R89). -/
def runReg (i : Instr) (f : Iss → Except Stop RegOut) (s : State) : Host.Outcome State Fault Refusal :=
  runStrand i (regBody i f) s

/-- Whether an instruction runs per lane (R23, R87). -/
def runsPerLane (i : Instr) : Bool := (instrUses i).any fun u => perLaneReg u.reg

/-- The lanes an instruction computes: its active lanes, or the one lane 0 stands for a uniform run. -/
def Iss.lanes (q : Iss) (i : Instr) : List Nat := if runsPerLane i then lanesOf q.act else [0]

/-- A per-element or per-lane integer result for each lane (R89): no flag, no draw. -/
def laneMap (q : Iss) (i : Instr) (dst : Reg) (width : Nat) (f : Nat → Nat) : Except Stop RegOut :=
  .ok { dst := dst, width := width, vals := (q.lanes i).map fun l => (l, f l) }

end Sys2Proof.Machine
end

