-- ==== Sys2Proof/Machine/Integer.lean ====
section
/-! DEFINITION. Integer, immediate, constant and wide instructions (R87 to R109). -/

namespace Sys2Proof.Machine

/-- An integer type: element width, elements, signedness (R34, R66). -/
structure IntTy where
  n : Nat
  count : Nat
  sgn : Bool
  deriving DecidableEq, Repr

/-- The type that fn names (R66); .b32 is taken as .i32. -/
def intTy (fn : BitVec 3) : IntTy :=
  match fn.toNat with
  | 0 => { n := 32, count := 1, sgn := true }
  | 1 => { n := 32, count := 1, sgn := false }
  | 2 => { n := 64, count := 1, sgn := true }
  | 3 => { n := 64, count := 1, sgn := false }
  | 4 => { n := 16, count := 2, sgn := true }
  | 5 => { n := 16, count := 2, sgn := false }
  | 6 => { n := 8, count := 4, sgn := true }
  | _ => { n := 8, count := 4, sgn := false }

/-- Element i of a value (R34). -/
def elemAt (n i v : Nat) : Nat := v / 2 ^ (n * i) % 2 ^ n

/-- Elements put together, element 0 lowest (R34). -/
def joinElems (n : Nat) : List Nat → Nat
  | [] => 0
  | e :: es => e % 2 ^ n + 2 ^ n * joinElems n es

/-- An operation on every element of two sources (R93). -/
def perElem (ty : IntTy) (f : Nat → Nat → Nat) (a b : Nat) : Nat :=
  joinElems ty.n ((List.range ty.count).map fun i => f (elemAt ty.n i a) (elemAt ty.n i b))

/-- An element as the integer it stands for (R34). -/
def IntTy.val (ty : IntTy) (v : Nat) : Int := if ty.sgn then signed ty.n v else (v % 2 ^ ty.n : Nat)

/-- The least value of a type. -/
def IntTy.lo (ty : IntTy) : Int := if ty.sgn then -(2 ^ (ty.n - 1) : Nat) else 0

/-- The greatest value of a type. -/
def IntTy.hi (ty : IntTy) : Int := if ty.sgn then (2 ^ (ty.n - 1) : Nat) - 1 else (2 ^ ty.n : Nat) - 1

/-- An integer clamped to an interval. -/
def clampInt (lo hi v : Int) : Int := if v < lo then lo else if hi < v then hi else v

/-- An exact result as an element: wrapped, or clamped under sat (R35). -/
def IntTy.fit (ty : IntTy) (sat : Bool) (v : Int) : Nat :=
  wrapN ty.n (if sat then clampInt ty.lo ty.hi v else v)

/-- Truncated division with the results of R35 for zero and overflow. -/
def truncQuot (a b : Int) : Int :=
  if b = 0 then -1 else Int.tdiv a b

/-- The remainder with the sign of the dividend (R35, R93). -/
def truncRest (a b : Int) : Int := if b = 0 then a else Int.tmod a b

/-- Shift left by the whole count (R35). -/
def shlN (n v c : Nat) : Nat := if n ≤ c then 0 else v * 2 ^ c % 2 ^ n

/-- Shift right with zero fill (R35). -/
def shrN (n v c : Nat) : Nat := if n ≤ c then 0 else v % 2 ^ n / 2 ^ c

/-- Shift right with sign fill (R35). -/
def sraN (n v c : Nat) : Nat := wrapN n (signed n v / 2 ^ (min c n))

/-- Rotate left (R93). -/
def rotlN (n v c : Nat) : Nat :=
  let k := c % n
  (v * 2 ^ k + v % 2 ^ n / 2 ^ (n - k)) % 2 ^ n

/-- Leading zero bits of an n-bit value (R94). -/
def clzN (n v : Nat) : Nat := if v % 2 ^ n = 0 then n else n - 1 - Nat.log2 (v % 2 ^ n)

/-- One bits among the low n (R94). -/
def popN (n v : Nat) : Nat := ((List.range n).filter fun i => bitAt v i).length

/-- The n bits in reverse order (R94). -/
def revN (n v : Nat) : Nat := ((List.range n).map fun i => if bitAt v i then 2 ^ (n - 1 - i) else 0).sum

/-- Sign extension of the low n bits to 32 (R95). -/
def sext32 (n v : Nat) : Nat := wrapN 32 (signed n v)

/-- The length that a 5-bit field gives: 0 stands for 32 (R95). -/
def fieldLen (l : Nat) : Nat := if l % 32 = 0 then 32 else l % 32

/-- BFE's field of a (R95). -/
def extractField (sgn : Bool) (a pos len : Nat) : Nat :=
  let wide := if sgn then wrapN 64 (signed 32 a) else a % 2 ^ 32
  let t := wide / 2 ^ pos % 2 ^ len
  if sgn then sext32 len t else t

/-- BFI's insertion of the low len bits of v into old (R96, R107). -/
def insertField (old v pos len : Nat) : Nat :=
  let msk := (2 ^ len - 1) * 2 ^ pos % 2 ^ 32
  (old &&& (2 ^ 32 - 1 - msk)) ||| (v * 2 ^ pos % 2 ^ 32 &&& msk)

/-- A condition of R67 on two 32-bit values. -/
def condHolds (c : Nat) (a b : Nat) : Bool :=
  let x := signed 32 a
  let y := signed 32 b
  match c with
  | 0 => a % 2 ^ 32 == b % 2 ^ 32
  | 1 => a % 2 ^ 32 != b % 2 ^ 32
  | 2 => decide (x < y)
  | 3 => decide (x ≤ y)
  | 4 => decide (y < x)
  | 5 => decide (y ≤ x)
  | 6 => decide (a % 2 ^ 32 < b % 2 ^ 32)
  | _ => decide (b % 2 ^ 32 ≤ a % 2 ^ 32)

/-- The immediate of a BC-format comparison: signed, unsigned for ltu and geu (R67). -/
def condImm (w : FmtBC) : Nat := if 6 ≤ w.cond.toNat then w.imm.toNat else wrapN 32 w.imm.toInt

/-- A two-source element instruction of the type that fn names (R90, R93). -/
def intBinary (i : Instr) (w : FmtA) (f : IntTy → Bool → Nat → Nat → Nat) (s : State) :
    Host.Outcome State Fault Refusal :=
  runReg i (fun q => laneMap q i w.d (intW w.fn) fun l =>
    perElem (intTy w.fn) (f (intTy w.fn) q.sat) (q.srcA w.a (intW w.fn) l) (q.read w.b (intW w.fn) l)) s

/-- An arithmetic instruction whose element result is an exact integer, then fitted (R35, R93). -/
def intArith (i : Instr) (w : FmtA) (f : IntTy → Int → Int → Int) (s : State) : Host.Outcome State Fault Refusal :=
  intBinary i w (fun ty sat a b => ty.fit sat (f ty (ty.val a) (ty.val b))) s

/-- A shift: the count is one 32-bit register, or an element for packed types (R93). -/
def intShift (i : Instr) (w : FmtA) (f : Nat → Nat → Nat → Nat) (s : State) : Host.Outcome State Fault Refusal :=
  runReg i (fun q => laneMap q i w.d (intW w.fn) fun l =>
    let ty := intTy w.fn
    let a := q.srcA w.a (intW w.fn) l
    let b := q.read w.b 1 l
    if ty.count = 1 then f ty.n a b else perElem ty (f ty.n) a b) s

/-- A one-source instruction with a destination of a width (R94). -/
def intUnary (i : Instr) (w : FmtA) (wd : Nat) (f : Nat → Nat → Nat) (s : State) : Host.Outcome State Fault Refusal :=
  runReg i (fun q => laneMap q i w.d wd fun l => f (intTy w.fn).n (q.srcA w.a (intW w.fn) l)) s

/-- ADD (R93). -/
def execAdd (p : Option Pfx) (w : FmtA) (s : State) : Host.Outcome State Fault Refusal :=
  intArith (.add p w) w (fun _ a b => a + b) s

/-- SUB (R93). -/
def execSub (p : Option Pfx) (w : FmtA) (s : State) : Host.Outcome State Fault Refusal :=
  intArith (.sub p w) w (fun _ a b => a - b) s

/-- MUL (R93). -/
def execMul (p : Option Pfx) (w : FmtA) (s : State) : Host.Outcome State Fault Refusal :=
  intArith (.mul p w) w (fun _ a b => a * b) s

/-- MULH (R93). -/
def execMulh (p : Option Pfx) (w : FmtA) (s : State) : Host.Outcome State Fault Refusal :=
  intArith (.mulh p w) w (fun ty a b => a * b / 2 ^ ty.n) s

/-- MAD (R93). -/
def execMad (p : Option Pfx) (w : FmtA) (s : State) : Host.Outcome State Fault Refusal :=
  let i := Instr.mad p w
  runReg i (fun q => laneMap q i w.d (intW w.fn) fun l =>
    let ty := intTy w.fn
    let n := intW w.fn
    let a := q.srcA w.a n l
    let b := q.read w.b n l
    let c := q.read (fourth p w.d) n l
    joinElems ty.n ((List.range ty.count).map fun k =>
      ty.fit q.sat (ty.val (elemAt ty.n k a) * ty.val (elemAt ty.n k b) + ty.val (elemAt ty.n k c)))) s

/-- DIV (R35, R93). -/
def execDiv (p : Option Pfx) (w : FmtA) (s : State) : Host.Outcome State Fault Refusal :=
  intArith (.div p w) w (fun _ a b => truncQuot a b) s

/-- REM (R35, R93). -/
def execRem (p : Option Pfx) (w : FmtA) (s : State) : Host.Outcome State Fault Refusal :=
  intArith (.rem p w) w (fun _ a b => truncRest a b) s

/-- MIN (R93). -/
def execMin (p : Option Pfx) (w : FmtA) (s : State) : Host.Outcome State Fault Refusal :=
  intArith (.min p w) w (fun _ a b => if a ≤ b then a else b) s

/-- MAX (R93). -/
def execMax (p : Option Pfx) (w : FmtA) (s : State) : Host.Outcome State Fault Refusal :=
  intArith (.max p w) w (fun _ a b => if a ≤ b then b else a) s

/-- ABSD (R93). -/
def execAbsd (p : Option Pfx) (w : FmtA) (s : State) : Host.Outcome State Fault Refusal :=
  intArith (.absd p w) w (fun _ a b => (a - b).natAbs) s

/-- AND (R93). -/
def execAnd (p : Option Pfx) (w : FmtA) (s : State) : Host.Outcome State Fault Refusal :=
  intBinary (.and p w) w (fun _ _ a b => a &&& b) s

/-- OR (R93). -/
def execOr (p : Option Pfx) (w : FmtA) (s : State) : Host.Outcome State Fault Refusal :=
  intBinary (.or p w) w (fun _ _ a b => a ||| b) s

/-- XOR (R93). -/
def execXor (p : Option Pfx) (w : FmtA) (s : State) : Host.Outcome State Fault Refusal :=
  intBinary (.xor p w) w (fun _ _ a b => a ^^^ b) s

/-- ANDN (R93). -/
def execAndn (p : Option Pfx) (w : FmtA) (s : State) : Host.Outcome State Fault Refusal :=
  intBinary (.andn p w) w (fun ty _ a b => a &&& (2 ^ ty.n - 1 - b)) s

/-- SHL (R35, R93). -/
def execShl (p : Option Pfx) (w : FmtA) (s : State) : Host.Outcome State Fault Refusal := intShift (.shl p w) w shlN s

/-- SHR (R35, R93). -/
def execShr (p : Option Pfx) (w : FmtA) (s : State) : Host.Outcome State Fault Refusal := intShift (.shr p w) w shrN s

/-- SRA (R35, R93). -/
def execSra (p : Option Pfx) (w : FmtA) (s : State) : Host.Outcome State Fault Refusal := intShift (.sra p w) w sraN s

/-- ROTL (R93). -/
def execRotl (p : Option Pfx) (w : FmtA) (s : State) : Host.Outcome State Fault Refusal := intShift (.rotl p w) w rotlN s

/-- CLZ (R94). -/
def execClz (p : Option Pfx) (w : FmtA) (s : State) : Host.Outcome State Fault Refusal := intUnary (.clz p w) w 1 clzN s

/-- POPC (R94). -/
def execPopc (p : Option Pfx) (w : FmtA) (s : State) : Host.Outcome State Fault Refusal := intUnary (.popc p w) w 1 popN s

/-- BREV (R94). -/
def execBrev (p : Option Pfx) (w : FmtA) (s : State) : Host.Outcome State Fault Refusal :=
  intUnary (.brev p w) w (intW w.fn) revN s

/-- BFE (R95). -/
def execBfe (p : Option Pfx) (w : FmtA) (s : State) : Host.Outcome State Fault Refusal :=
  let i := Instr.bfe p w
  runReg i (fun q => laneMap q i w.d 1 fun l =>
    let b := q.read w.b 1 l
    extractField (w.fn == 0) (q.srcA w.a 1 l) (bitsAt b 0 5) (fieldLen (bitsAt b 8 5))) s

/-- BFI (R96). -/
def execBfi (p : Option Pfx) (w : FmtA) (s : State) : Host.Outcome State Fault Refusal :=
  let i := Instr.bfi p w
  runReg i (fun q => laneMap q i w.d 1 fun l =>
    let c := q.read (fourth p w.d) 1 l
    insertField (q.srcA w.a 1 l) (q.read w.b 1 l) (bitsAt c 0 5) (fieldLen (bitsAt c 8 5))) s

/-- SEL (R97). -/
def execSel (p : Option Pfx) (w : FmtA) (s : State) : Host.Outcome State Fault Refusal :=
  let i := Instr.sel p w
  runReg i (fun q => laneMap q i w.d (intW w.fn) fun l =>
    if q.read (fourth p w.d) 1 l ≠ 0 then q.srcA w.a (intW w.fn) l else q.read w.b (intW w.fn) l) s

/-- CMP (R98). -/
def execCmp (p : Option Pfx) (w : FmtA) (s : State) : Host.Outcome State Fault Refusal :=
  let i := Instr.cmp p w
  runReg i (fun q => laneMap q i w.d 1 fun l =>
    let ty := intTy w.fn
    let n := if ty.n = 64 then 32 else ty.n
    let a := q.srcA w.a (intW w.fn) l
    let b := q.read w.b (intW w.fn) l
    joinElems n ((List.range ty.count).map fun k =>
      let x := ty.val (elemAt ty.n k a)
      let y := ty.val (elemAt ty.n k b)
      if x < y then 2 ^ n - 1 else if x = y then 0 else 1)) s

/-- SETCC (R67, R99). -/
def execSetcc (p : Option Pfx) (w : FmtA) (s : State) : Host.Outcome State Fault Refusal :=
  let i := Instr.setcc p w
  runReg i (fun q => laneMap q i w.d 1 fun l =>
    if condHolds w.fn.toNat (q.srcA w.a 1 l) (q.read w.b 1 l) then 1 else 0) s

/-- LEA (R100). -/
def execLea (p : Option Pfx) (w : FmtA) (s : State) : Host.Outcome State Fault Refusal :=
  let i := Instr.lea p w
  runReg i (fun q => laneMap q i w.d 2 fun l =>
    (q.srcA w.a 2 l + q.read w.b 2 l * 2 ^ w.fn.toNat) % 2 ^ 64) s

/-- MOV (R101). -/
def execMov (p : Option Pfx) (w : FmtA) (s : State) : Host.Outcome State Fault Refusal :=
  let i := Instr.mov p w
  runReg i (fun q => laneMap q i w.d (intW w.fn) fun l => q.srcA w.a (intW w.fn) l) s

/-- READLANE (R102). -/
def execReadlane (p : Option Pfx) (w : FmtA) (s : State) : Host.Outcome State Fault Refusal :=
  runReg (.readlane p w) (fun q =>
    let idx := q.read w.b 1 0
    .ok { dst := w.d, width := intW w.fn
          vals := [(0, q.readOf w.a (intW w.fn) (if idx < 96 then some idx else none))] }) s

/-- WRITELANE (R102). -/
def execWritelane (p : Option Pfx) (w : FmtA) (s : State) : Host.Outcome State Fault Refusal :=
  runReg (.writelane p w) (fun q =>
    let idx := q.read w.b 1 0
    .ok { dst := w.d, width := intW w.fn
          vals := if idx < 96 ∧ q.act.getLsbD idx then [(idx, q.read w.a (intW w.fn) 0)] else [] }) s

/-- The byte that a selector nibble of PRMT picks (R103). -/
def permByte (src c i : Nat) : Nat :=
  let sel := bitsAt c (4 * i) 4
  let b := elemAt 8 (sel % 8) src
  if 8 ≤ sel then (if 128 ≤ b then 255 else 0) else b

/-- PRMT (R103). -/
def execPrmt (p : Option Pfx) (w : FmtA) (s : State) : Host.Outcome State Fault Refusal :=
  let i := Instr.prmt p w
  runReg i (fun q => laneMap q i w.d 1 fun l =>
    let src := q.srcA w.a 1 l + 2 ^ 32 * q.read w.b 1 l
    let c := q.read (fourth p w.d) 1 l
    joinElems 8 ((List.range 4).map (permByte src c))) s

/-- DOT4 (R104). -/
def execDot4 (p : Option Pfx) (w : FmtA) (s : State) : Host.Outcome State Fault Refusal :=
  let i := Instr.dot4 p w
  runReg i (fun q => laneMap q i w.d 1 fun l =>
    let ty := intTy w.fn
    let out : IntTy := { n := 32, count := 1, sgn := ty.sgn }
    let a := q.srcA w.a 1 l
    let b := q.read w.b 1 l
    let sum := ((List.range ty.count).map fun k => ty.val (elemAt ty.n k a) * ty.val (elemAt ty.n k b)).sum
    out.fit q.sat (out.val (q.read (fourth p w.d) 1 l) + sum)) s

/-! ## Immediates and constants -/

/-- The .i32 type. -/
def i32 : IntTy := { n := 32, count := 1, sgn := true }

/-- A B-format instruction on single registers (R105). -/
def immOp (i : Instr) (w : FmtB) (f : Iss → Nat → Nat) (s : State) : Host.Outcome State Fault Refusal :=
  runReg i (fun q => laneMap q i w.d 1 fun l => f q (q.srcA w.a 1 l)) s

/-- A B-format instruction on pairs (R105). -/
def immPair (i : Instr) (w : FmtB) (f : Iss → Nat → Nat) (s : State) : Host.Outcome State Fault Refusal :=
  runReg i (fun q => laneMap q i w.d 2 fun l => f q (q.srcA w.a 2 l)) s

/-- The sign-extended immediate as 32 bits (R105). -/
def imm32 (w : FmtB) : Nat := wrapN 32 w.imm.toInt

/-- ADDI (R105). -/
def execAddi (p : Option Pfx) (w : FmtB) (s : State) : Host.Outcome State Fault Refusal :=
  immOp (.addi p w) w (fun q a => i32.fit q.sat (signed 32 a + w.imm.toInt)) s

/-- MULI (R105). -/
def execMuli (p : Option Pfx) (w : FmtB) (s : State) : Host.Outcome State Fault Refusal :=
  immOp (.muli p w) w (fun q a => i32.fit q.sat (signed 32 a * w.imm.toInt)) s

/-- ANDI (R105). -/
def execAndi (p : Option Pfx) (w : FmtB) (s : State) : Host.Outcome State Fault Refusal :=
  immOp (.andi p w) w (fun _ a => a &&& imm32 w) s

/-- ORI (R105). -/
def execOri (p : Option Pfx) (w : FmtB) (s : State) : Host.Outcome State Fault Refusal :=
  immOp (.ori p w) w (fun _ a => a ||| imm32 w) s

/-- XORI (R105). -/
def execXori (p : Option Pfx) (w : FmtB) (s : State) : Host.Outcome State Fault Refusal :=
  immOp (.xori p w) w (fun _ a => a ^^^ imm32 w) s

/-- SHLI (R35, R105). -/
def execShli (p : Option Pfx) (w : FmtB) (s : State) : Host.Outcome State Fault Refusal :=
  immOp (.shli p w) w (fun _ a => shlN 32 a w.imm.toNat) s

/-- SHRI (R35, R105). -/
def execShri (p : Option Pfx) (w : FmtB) (s : State) : Host.Outcome State Fault Refusal :=
  immOp (.shri p w) w (fun _ a => shrN 32 a w.imm.toNat) s

/-- SRAI (R35, R105). -/
def execSrai (p : Option Pfx) (w : FmtB) (s : State) : Host.Outcome State Fault Refusal :=
  immOp (.srai p w) w (fun _ a => sraN 32 a w.imm.toNat) s

/-- CMPI (R106). -/
def execCmpi (p : Option Pfx) (w : FmtBC) (s : State) : Host.Outcome State Fault Refusal :=
  let i := Instr.cmpi p w
  runReg i (fun q => laneMap q i w.d 1 fun l =>
    if condHolds w.cond.toNat (q.srcA w.a 1 l) (condImm w) then 2 ^ 32 - 1 else 0) s

/-- MINI (R105). -/
def execMini (p : Option Pfx) (w : FmtB) (s : State) : Host.Outcome State Fault Refusal :=
  immOp (.mini p w) w (fun _ a => wrapN 32 (if signed 32 a ≤ w.imm.toInt then signed 32 a else w.imm.toInt)) s

/-- MAXI (R105). -/
def execMaxi (p : Option Pfx) (w : FmtB) (s : State) : Host.Outcome State Fault Refusal :=
  immOp (.maxi p w) w (fun _ a => wrapN 32 (if signed 32 a ≤ w.imm.toInt then w.imm.toInt else signed 32 a)) s

/-- A U-format constant (R108). -/
def constOp (i : Instr) (d : Reg) (wd v : Nat) (s : State) : Host.Outcome State Fault Refusal :=
  runReg i (fun q => laneMap q i d wd fun _ => v) s

/-- LUI (R108). -/
def execLui (p : Option Pfx) (w : FmtU) (s : State) : Host.Outcome State Fault Refusal :=
  constOp (.lui p w) w.d 1 (w.imm.toNat * 2 ^ 15) s

/-- LLO (R108). -/
def execLlo (p : Option Pfx) (w : FmtU) (s : State) : Host.Outcome State Fault Refusal :=
  let i := Instr.llo p w
  runReg i (fun q => laneMap q i w.d 1 fun l =>
    q.read w.d 1 l / 2 ^ 15 * 2 ^ 15 + w.imm.toNat % 2 ^ 15) s

/-- LUIH (R108): only the odd register of the pair is written; the pair s0 discards the write (R13); a trap of the write
names the word's field (R31). -/
def execLuih (p : Option Pfx) (w : FmtU) (s : State) : Host.Outcome State Fault Refusal :=
  let i := Instr.luih p w
  runReg i (fun q => .ok { dst := w.d + 1, width := 1
                           vals := if w.d = 96 then [] else (q.lanes i).map fun l => (l, w.imm.toNat * 2 ^ 15)
                           field := w.d }) s

/-- FLI (R108). -/
def execFli (p : Option Pfx) (w : FmtU) (s : State) : Host.Outcome State Fault Refusal :=
  let wide := w.imm.getLsbD 16
  constOp (.fli p w) w.d (if wide then 2 else 1)
    (convertF f16 (if wide then f64 else f32) .rn false 1 (w.imm.toNat % 2 ^ 16)).bits s

/-- MOVI (R108). -/
def execMovi (p : Option Pfx) (w : FmtU) (s : State) : Host.Outcome State Fault Refusal :=
  constOp (.movi p w) w.d 1 (wrapN 32 w.imm.toInt) s

/-- BFEI (R107). -/
def execBfei (p : Option Pfx) (w : FmtBF) (s : State) : Host.Outcome State Fault Refusal :=
  let i := Instr.bfei p w
  runReg i (fun q => laneMap q i w.d 1 fun l =>
    extractField false (q.srcA w.a 1 l) w.pos.toNat (fieldLen w.len.toNat)) s

/-- BFII (R107). -/
def execBfii (p : Option Pfx) (w : FmtBF) (s : State) : Host.Outcome State Fault Refusal :=
  let i := Instr.bfii p w
  runReg i (fun q => laneMap q i w.d 1 fun l =>
    insertField (q.read w.d 1 l) (q.srcA w.a 1 l) w.pos.toNat (fieldLen w.len.toNat)) s

/-- ROTLI (R105). -/
def execRotli (p : Option Pfx) (w : FmtB) (s : State) : Host.Outcome State Fault Refusal :=
  immOp (.rotli p w) w (fun _ a => rotlN 32 a w.imm.toNat) s

/-- ADDIP (R105). -/
def execAddip (p : Option Pfx) (w : FmtB) (s : State) : Host.Outcome State Fault Refusal :=
  immPair (.addip p w) w (fun q a => (intTy 2).fit q.sat (signed 64 a + w.imm.toInt)) s

/-- SETCCI (R106). -/
def execSetcci (p : Option Pfx) (w : FmtBC) (s : State) : Host.Outcome State Fault Refusal :=
  let i := Instr.setcci p w
  runReg i (fun q => laneMap q i w.d 1 fun l =>
    if condHolds w.cond.toNat (q.srcA w.a 1 l) (condImm w) then 1 else 0) s

/-- SHLP (R105). -/
def execShlp (p : Option Pfx) (w : FmtB) (s : State) : Host.Outcome State Fault Refusal :=
  immPair (.shlp p w) w (fun _ a => shlN 64 a w.imm.toNat) s

/-- SHRP (R105). -/
def execShrp (p : Option Pfx) (w : FmtB) (s : State) : Host.Outcome State Fault Refusal :=
  immPair (.shrp p w) w (fun _ a => shrN 64 a w.imm.toNat) s

/-! ## Wide instructions -/

/-- A 32-bit source as fn 0 (signed) or fn 1 (unsigned) reads it (R109). -/
def wideVal (fn : BitVec 3) (v : Nat) : Int := if fn = 0 then signed 32 v else (v % 2 ^ 32 : Nat)

/-- MULW (R109). -/
def execMulw (p : Option Pfx) (w : FmtA) (s : State) : Host.Outcome State Fault Refusal :=
  let i := Instr.mulw p w
  runReg i (fun q => laneMap q i w.d 2 fun l =>
    wrapN 64 (wideVal w.fn (q.srcA w.a 1 l) * wideVal w.fn (q.read w.b 1 l))) s

/-- MADW (R109). -/
def execMadw (p : Option Pfx) (w : FmtA) (s : State) : Host.Outcome State Fault Refusal :=
  let i := Instr.madw p w
  runReg i (fun q => laneMap q i w.d 2 fun l =>
    let ty : IntTy := { n := 64, count := 1, sgn := w.fn == 0 }
    ty.fit q.sat (wideVal w.fn (q.srcA w.a 1 l) * wideVal w.fn (q.read w.b 1 l) +
      ty.val (q.read (fourth p w.d) 2 l))) s

/-- ADDP (R109). -/
def execAddp (p : Option Pfx) (w : FmtA) (s : State) : Host.Outcome State Fault Refusal :=
  let i := Instr.addp p w
  runReg i (fun q => laneMap q i w.d 2 fun l =>
    wrapN 64 (q.srcA w.a 2 l + wideVal w.fn (q.read w.b 1 l))) s

end Sys2Proof.Machine
end

