-- ==== Sys2Proof/Machine/Transcendental.lean ====
section
/-! DEFINITION. The transcendental functions of R155, correctly rounded: exact where the value is a dyadic number, else
from an enclosure in fixed point, made closer when a rounding boundary splits it; where the closest is still split, a free
bit says on which side the value lies (log entry 8). -/

namespace Sys2Proof.Machine

/-- An enclosure: the value lies strictly between lo and hi in units of 2^-p. -/
structure Encl where
  lo : Nat
  hi : Nat
  p : Nat
  deriving DecidableEq, Repr

/-- Working bits for an operand m × 2^e: enough beyond the least bit of the operand, more at each closer attempt. -/
def workBits (e : Int) (times closer : Nat) : Nat := 208 + 512 * closer + times * (-e).toNat

/-- The error that the series below may have, in units of the working precision. -/
def slack : Nat := 2 ^ 20

/-- The odd series z + z^3/3 + z^5/5 + ..., in units of 2^-p; t is z^(2k+1), z2 is z^2. -/
def atanhSum (p z2 : Nat) : Nat → Nat → Nat → Nat → Nat
  | 0, _, _, acc => acc
  | n + 1, k, t, acc => if t = 0 then acc else atanhSum p z2 n (k + 2) (t * z2 / 2 ^ p) (acc + t / k)

/-- ln 2 in units of 2^-p, as 2 atanh (1/3). -/
def ln2At (p : Nat) : Nat :=
  let z := 2 ^ p / 3
  2 * atanhSum p (2 ^ p / 9) p 1 z 0

/-- The alternating series of atan (1/x) in units of 2^-p: the terms of both signs apart. -/
def atanSum (x2 : Nat) : Nat → Nat → Nat → Nat → Nat → Nat
  | 0, _, _, pos, neg => pos - neg
  | n + 1, k, t, pos, neg =>
    if t = 0 then pos - neg
    else if k % 4 = 1 then atanSum x2 n (k + 2) (t / x2) (pos + t / k) neg
    else atanSum x2 n (k + 2) (t / x2) pos (neg + t / k)

/-- π in units of 2^-p, by 16 atan (1/5) - 4 atan (1/239). -/
def piAt (p : Nat) : Nat :=
  16 * atanSum 25 p 1 (2 ^ p / 5) 0 0 - 4 * atanSum 57121 p 1 (2 ^ p / 239) 0 0

/-- The exponential series of y in units of 2^-p. -/
def expSum (p y : Nat) : Nat → Nat → Nat → Nat → Nat
  | 0, _, _, acc => acc
  | n + 1, k, t, acc => if t = 0 then acc else expSum p y n (k + 1) (t * y / 2 ^ p / k) (acc + t)

/-- The sine series of y in units of 2^-p; y2 is y^2. -/
def sinSum (p y2 : Nat) : Nat → Nat → Nat → Nat → Nat → Nat
  | 0, _, _, pos, neg => pos - neg
  | n + 1, k, t, pos, neg =>
    let t' := t * y2 / 2 ^ p / ((k + 1) * (k + 2))
    if t = 0 then pos - neg
    else if k % 4 = 1 then sinSum p y2 n (k + 2) t' (pos + t) neg
    else sinSum p y2 n (k + 2) t' pos (neg + t)

/-- An enclosure around a computed value, kept above a floor and below a ceiling that the function has. -/
def around (p v floor ceil : Nat) : Encl := { lo := max floor (v - slack), hi := min ceil (v + slack), p := p }

/-- e^y for y in units of 2^-p, 0 ≤ y < 1. -/
def expAt (p y : Nat) : Nat := expSum p y p 1 (2 ^ p) 0

/-- A magnitude enclosed, rounded into a format: none when a rounding boundary splits the enclosure. `shift` scales it by
a power of two. -/
def roundEncl (f : FFmt) (mode : RMode) (sat : Bool) (g : BitVec 24) (neg : Bool) (x : Encl) (shift : Int) :
    Option FRes :=
  let e : Int := shift - x.p - 1
  let a := f.roundFin mode sat g neg (2 * x.lo + 1) e
  let b := f.roundFin mode sat g neg (2 * x.hi - 1) e
  if a = b then some a else none

/-- The end of an enclosure that lies on the free side, rounded (R155, log entry 8). -/
def roundSide (f : FFmt) (mode : RMode) (sat : Bool) (g : BitVec 24) (neg : Bool) (x : Encl) (shift : Int) (far : Bool) :
    FRes :=
  f.roundFin mode sat g neg (if far then 2 * x.hi - 1 else 2 * x.lo + 1) (shift - x.p - 1)

/-- The value that closer and closer enclosures give, rounded with its flags and its draw: the first that no rounding
boundary splits, or the side of the closest that a free bit chooses (R155, log entry 8). -/
def decided (f : FFmt) (mode : RMode) (sat : Bool) (g : BitVec 24) (neg : Bool) (shift : Int) (op bits : Nat)
    (x : Nat → Encl) : FRes :=
  match [0, 1, 2].findSome? fun k => roundEncl f mode sat g neg (x k) shift with
  | some r => r
  | none => roundSide f mode sat g neg (x 2) shift (Config.freeSide bits op)

/-- 2^a (R155). -/
def FFmt.exp2 (f : FFmt) (mode : RMode) (sat : Bool) (g : BitVec 24) (bits : Nat) : FRes :=
  match f.unpack bits with
  | .nan s => f.nanRes (if s then fNV else 0) g
  | .inf n => if n then { bits := 0, flags := 0, g := g } else f.infRes sat false 0 g
  | .fin n m e =>
    let u := unitsOf m e 0
    if u.rem = 0 then
      let k : Int := if 20000 < u.lo then 20000 else u.lo
      f.roundFin mode sat g false 1 (if n then -k else k)
    else
      let whole : Int := if 20000 < u.lo then (if n then -20000 else 20000) else if n then -(u.lo : Int) - 1 else u.lo
      decided f mode sat g false whole 0x6C bits fun closer =>
        let p := workBits e 1 closer
        let frac := u.rem * 2 ^ (p - u.s)
        let y := (if n then 2 ^ p - frac else frac) * ln2At p / 2 ^ p
        around p (expAt p y) (2 ^ p) (2 ^ (p + 1))

/-- log2 a (R155). -/
def FFmt.log2 (f : FFmt) (mode : RMode) (sat : Bool) (g : BitVec 24) (bits : Nat) : FRes :=
  match f.unpack bits with
  | .nan s => f.nanRes (if s then fNV else 0) g
  | .inf n => if n then f.nanRes fNV g else f.infRes sat false 0 g
  | .fin n m e =>
    if m = 0 then f.infRes sat true fDZ g
    else if n then f.nanRes fNV g
    else
      let k := Nat.log2 m
      let t : Int := k + e
      if m = 2 ^ k then f.roundFin mode sat g (decide (t < 0)) t.natAbs 0
      else
        decided f mode sat g (decide (t < 0)) 0 0x6D bits fun closer =>
          let p := workBits 0 1 closer
          let num := (m - 2 ^ k) * 2 ^ p
          let z := num / (m + 2 ^ k)
          let lg := 2 * atanhSum p (z * z / 2 ^ p) p 1 z 0 * 2 ^ p / ln2At p
          let v : Int := t * (2 ^ p : Nat) + lg
          around p v.natAbs 0 (v.natAbs + slack)

/-- The enclosure of sin (π r) for r in units of 2^-p, 0 < r < 1/2. -/
def sinPi (p r : Nat) : Encl :=
  let y := r * piAt p / 2 ^ p
  around p (sinSum p (y * y / 2 ^ p) p 1 y 0 0) 0 (2 ^ p)

/-- sin (π × a), or cos (π × a) (R155). -/
def FFmt.sinCos (f : FFmt) (cosine : Bool) (mode : RMode) (sat : Bool) (g : BitVec 24) (bits : Nat) : FRes :=
  match f.unpack bits with
  | .nan s => f.nanRes (if s then fNV else 0) g
  | .inf _ => f.nanRes fNV g
  | .fin n m e =>
    -- a in units of 2^-p, modulo 2, and in quarters of the turn
    let turn := fun (p : Nat) => (unitsOf m e (-(p : Int))).lo % 2 ^ (p + 1)
    let p0 := workBits e 2 0
    let quarter := turn p0 / 2 ^ (p0 - 1)
    if turn p0 % 2 ^ (p0 - 1) = 0 then
      let one := fun (neg : Bool) => f.roundFin mode sat g neg 1 0
      match cosine, quarter with
      | false, 1 => one n
      | false, 3 => one !n
      | false, _ => { bits := f.signBit n, flags := 0, g := g }
      | true, 0 => one false
      | true, 2 => one true
      | true, _ => { bits := 0, flags := 0, g := g }
    else
      let rising := quarter % 2 = 0
      let neg := if cosine then decide (quarter = 1 ∨ quarter = 2) else (decide (2 ≤ quarter) != n)
      decided f mode sat g neg 0 (if cosine then 0x6F else 0x6E) bits fun closer =>
        let p := workBits e 2 closer
        let half := 2 ^ (p - 1)
        let r := turn p % half
        sinPi p (if cosine then (if rising then half - r else r) else (if rising then r else half - r))

/-- tanh a (R155). -/
def FFmt.tanh (f : FFmt) (mode : RMode) (sat : Bool) (g : BitVec 24) (bits : Nat) : FRes :=
  match f.unpack bits with
  | .nan s => f.nanRes (if s then fNV else 0) g
  | .inf n => f.roundFin mode sat g n 1 0
  | .fin n m e =>
    if m = 0 then { bits := f.signBit n, flags := 0, g := g }
    else if 7 ≤ topExp m e then
      decided f mode sat g n 0 0x70 bits fun _ => { lo := 2 ^ 208 - 2 ^ 40, hi := 2 ^ 208, p := 208 }
    else
      decided f mode sat g n 0 0x70 bits fun closer =>
        let p := workBits e 3 closer
        let y := (unitsOf (2 * m) e (-(p : Int))).lo
        let ln2 := ln2At p
        let k := y / ln2
        let ex := expAt p (y - k * ln2) * 2 ^ k
        let err := slack * 2 ^ (k + 1)
        let q := fun (v : Nat) => (v - 2 ^ p) * 2 ^ p / (v + 2 ^ p)
        { lo := q (ex - err), hi := min (2 ^ p) (q (ex + err) + 1), p := p }

/-- 1 / (1 + e^-a), the sigmoid of the epilogue, with the edges of R155's functions (R342). -/
def FFmt.sigmoid (f : FFmt) (g : BitVec 24) (bits : Nat) : FRes :=
  match f.unpack bits with
  | .nan s => f.nanRes (if s then fNV else 0) g
  | .inf n => if n then { bits := 0, flags := 0, g := g } else f.roundFin .rn false g false 1 0
  | .fin n m e =>
    if m = 0 then f.roundFin .rn false g false 1 (-1)
    else if 11 ≤ topExp m e then
      let x : Encl := if n then { lo := 0, hi := 1, p := 2900 } else { lo := 2 ^ 208 - 2 ^ 40, hi := 2 ^ 208, p := 208 }
      decided f .rn false g false 0 0x100 bits fun _ => x
    else
      decided f .rn false g false 0 0x100 bits fun closer =>
        let p := workBits e 1 closer
        let y := (unitsOf m e (-(p : Int))).lo
        let ln2 := ln2At p
        let k := y / ln2
        let ex := expAt p (y - k * ln2) * 2 ^ k
        let err := slack * 2 ^ (k + 1)
        let w := p + k + 64
        let up := fun (v : Nat) => v * 2 ^ w / (v + 2 ^ p)
        let down := fun (v : Nat) => 2 ^ (p + w) / (v + 2 ^ p)
        if n then { lo := down (ex + err), hi := down (ex - err) + 1, p := w }
        else { lo := up (ex - err), hi := min (2 ^ w) (up (ex + err) + 1), p := w }

end Sys2Proof.Machine
end

