-- ==== Sys2Proof/Machine/FloatOps.lean ====
section
/-! DEFINITION. The floating-point, conversion, packing and block-quantisation instructions (R151 to R162). -/

namespace Sys2Proof.Machine

/-- A float type: its format and its elements (R66). -/
structure FltTy where
  f : FFmt
  count : Nat
  deriving DecidableEq, Repr

/-- The type that fn names (R66). -/
def fltTy (fn : BitVec 3) : FltTy :=
  match fn.toNat with
  | 0 => { f := f32, count := 1 }
  | 1 => { f := f64, count := 1 }
  | 2 => { f := bf16, count := 2 }
  | _ => { f := f16, count := 2 }

/-- The lane whose generator a computed lane draws from: its own, or the lowest active lane's for a uniform run (R46). -/
def drawLane (q : Iss) (i : Instr) (lane : Nat) : Nat := if runsPerLane i then lane else (lowest q.act).getD 0

/-- Elements computed one after another, element 0 first, each of a width, threading the generator (R45). -/
def eachElem (w : Nat) (f : Nat → BitVec 24 → FRes) : List Nat → BitVec 24 → FRes
  | [], g => { bits := 0, flags := 0, g := g }
  | k :: ks, g =>
    let r := f k g
    let more := eachElem w f ks r.g
    { bits := r.bits * 2 ^ (w * k) + more.bits, flags := r.flags ||| more.flags, g := more.g }

/-- A float instruction over its lanes: values, flags of all lanes together, generators that advanced (R46, R48, R152). -/
def floatOut (q : Iss) (i : Instr) (d : Reg) (width : Nat) (f : Nat → BitVec 24 → FRes) : Except Stop RegOut :=
  let rs := (q.lanes i).map fun l =>
    let gl := drawLane q i l
    (l, gl, f l (q.t.gen gl))
  .ok { dst := d, width := width, vals := rs.map fun r => (r.1, r.2.2.bits)
        flags := rs.foldl (fun a r => a ||| r.2.2.flags) 0
        gens := rs.filterMap fun r => if r.2.2.g = q.t.gen r.2.1 then none else some (r.2.1, r.2.2.g) }

/-- Element k of a source under the prefix's sign modifiers for a (R38, R69). -/
def Iss.modA (q : Iss) (f : FFmt) (v k : Nat) : Nat := f.modify (q.mod.getLsbD 2) (q.mod.getLsbD 0) (elemAt f.width k v)

/-- Element k of a source under the prefix's sign modifier for b (R38, R69). -/
def Iss.modB (q : Iss) (f : FFmt) (v k : Nat) : Nat := f.modify false (q.mod.getLsbD 1) (elemAt f.width k v)

/-- A two-source float instruction on the elements' encodings (R152). -/
def floatBinary (i : Instr) (w : FmtA) (f : FFmt → RMode → Bool → BitVec 24 → Nat → Nat → FRes) (s : State) :
    Host.Outcome State Fault Refusal :=
  runReg i (fun q =>
    let ty := fltTy w.fn
    let n := fltW w.fn
    floatOut q i w.d n fun l g =>
      let a := q.srcA w.a n l
      let b := q.read w.b n l
      eachElem ty.f.width (fun k g => f ty.f q.rmode q.sat g (q.modA ty.f a k) (q.modB ty.f b k)) (List.range ty.count) g) s

/-- A one-source float instruction (R152). -/
def floatUnary (i : Instr) (w : FmtA) (f : FFmt → RMode → Bool → BitVec 24 → Nat → FRes) (s : State) :
    Host.Outcome State Fault Refusal :=
  runReg i (fun q =>
    let ty := fltTy w.fn
    let n := fltW w.fn
    floatOut q i w.d n fun l g =>
      let a := q.srcA w.a n l
      eachElem ty.f.width (fun k g => f ty.f q.rmode q.sat g (q.modA ty.f a k)) (List.range ty.count) g) s

/-- FADD (R153, R154). -/
def execFadd (p : Option Pfx) (w : FmtA) (s : State) : Host.Outcome State Fault Refusal :=
  floatBinary (.fadd p w) w (fun f m st g a b => f.add m st g (f.unpack a) (f.unpack b)) s

/-- FSUB (R153, R154). -/
def execFsub (p : Option Pfx) (w : FmtA) (s : State) : Host.Outcome State Fault Refusal :=
  floatBinary (.fsub p w) w (fun f m st g a b => f.add m st g (f.unpack a) (f.unpack b).negate) s

/-- FMUL (R153). -/
def execFmul (p : Option Pfx) (w : FmtA) (s : State) : Host.Outcome State Fault Refusal :=
  floatBinary (.fmul p w) w (fun f m st g a b => f.mul m st g (f.unpack a) (f.unpack b)) s

/-- FFMA (R58, R153). -/
def execFfma (p : Option Pfx) (w : FmtA) (s : State) : Host.Outcome State Fault Refusal :=
  let i := Instr.ffma p w
  runReg i (fun q =>
    let ty := fltTy w.fn
    let n := fltW w.fn
    let c := fourth p w.d
    floatOut q i w.d n fun l g =>
      let av := q.srcA w.a n l
      let bv := q.read w.b n l
      let cv := q.read c n l
      let f := ty.f
      eachElem f.width (fun k g => f.fma q.rmode q.sat g (f.unpack (q.modA f av k)) (f.unpack (q.modB f bv k))
        (f.unpack (elemAt f.width k cv))) (List.range ty.count) g) s

/-- FMIN (R156). -/
def execFmin (p : Option Pfx) (w : FmtA) (s : State) : Host.Outcome State Fault Refusal :=
  floatBinary (.fmin p w) w (fun f _ _ g a b => let r := f.minmax false a b
                                                { bits := r.1, flags := r.2, g := g }) s

/-- FMAX (R156). -/
def execFmax (p : Option Pfx) (w : FmtA) (s : State) : Host.Outcome State Fault Refusal :=
  floatBinary (.fmax p w) w (fun f _ _ g a b => let r := f.minmax true a b
                                                { bits := r.1, flags := r.2, g := g }) s

/-- FCMP: −1, 0, +1 or 2, in one register for .f32 and .f64, per 16-bit element otherwise (R156). -/
def execFcmp (p : Option Pfx) (w : FmtA) (s : State) : Host.Outcome State Fault Refusal :=
  let i := Instr.fcmp p w
  runReg i (fun q =>
    let ty := fltTy w.fn
    let n := fltW w.fn
    let f := ty.f
    let ow := if ty.count = 1 then 32 else 16
    floatOut q i w.d 1 fun l g =>
      let a := q.srcA w.a n l
      let b := q.read w.b n l
      eachElem ow (fun k g =>
        let x := f.unpack (q.modA f a k)
        let y := f.unpack (q.modB f b k)
        let v := match cmpFV x y with
          | .lt => 2 ^ ow - 1
          | .eq => 0
          | .gt => 1
          | .un => 2
        { bits := v, flags := if x.snan || y.snan then fNV else 0, g := g }) (List.range ty.count) g) s

/-- FSETCC: fn[0] the type, fn[2:1] the condition (R156). -/
def execFsetcc (p : Option Pfx) (w : FmtA) (s : State) : Host.Outcome State Fault Refusal :=
  let i := Instr.fsetcc p w
  runReg i (fun q =>
    let f := if w.fn.getLsbD 0 then f64 else f32
    let n := if w.fn.getLsbD 0 then 2 else 1
    let cond := w.fn.toNat / 2
    floatOut q i w.d 1 fun l g =>
      let x := f.unpack (q.modA f (q.srcA w.a n l) 0)
      let y := f.unpack (q.modB f (q.read w.b n l) 0)
      let c := cmpFV x y
      let holds : Bool := match cond with
        | 0 => c == .eq
        | 1 => c == .lt
        | 2 => c == .lt || c == .eq
        | _ => c == .un
      let nv := x.snan || y.snan || (c == .un && (cond == 1 || cond == 2))
      { bits := if holds then 2 ^ 32 - 1 else 0, flags := if nv then fNV else 0, g := g }) s

/-- FDIV (R153, R154). -/
def execFdiv (p : Option Pfx) (w : FmtA) (s : State) : Host.Outcome State Fault Refusal :=
  floatBinary (.fdiv p w) w (fun f m st g a b => f.div m st g (f.unpack a) (f.unpack b)) s

/-- FSQRT (R153, R154). -/
def execFsqrt (p : Option Pfx) (w : FmtA) (s : State) : Host.Outcome State Fault Refusal :=
  floatUnary (.fsqrt p w) w (fun f m st g a => f.sqrt m st g (f.unpack a)) s

/-- FRCP (R155). -/
def execFrcp (p : Option Pfx) (w : FmtA) (s : State) : Host.Outcome State Fault Refusal :=
  floatUnary (.frcp p w) w (fun f m st g a => f.div m st g FV.one (f.unpack a)) s

/-- FRSQ (R155). -/
def execFrsq (p : Option Pfx) (w : FmtA) (s : State) : Host.Outcome State Fault Refusal :=
  floatUnary (.frsq p w) w (fun f m st g a => f.rsqrt m st g (f.unpack a)) s

/-- FEXP2 (R155). -/
def execFexp2 (p : Option Pfx) (w : FmtA) (s : State) : Host.Outcome State Fault Refusal :=
  floatUnary (.fexp2 p w) w (fun f m st g a => f.exp2 m st g a) s

/-- FLOG2 (R155). -/
def execFlog2 (p : Option Pfx) (w : FmtA) (s : State) : Host.Outcome State Fault Refusal :=
  floatUnary (.flog2 p w) w (fun f m st g a => f.log2 m st g a) s

/-- FSIN (R155). -/
def execFsin (p : Option Pfx) (w : FmtA) (s : State) : Host.Outcome State Fault Refusal :=
  floatUnary (.fsin p w) w (fun f m st g a => f.sinCos false m st g a) s

/-- FCOS (R155). -/
def execFcos (p : Option Pfx) (w : FmtA) (s : State) : Host.Outcome State Fault Refusal :=
  floatUnary (.fcos p w) w (fun f m st g a => f.sinCos true m st g a) s

/-- FTANH (R155). -/
def execFtanh (p : Option Pfx) (w : FmtA) (s : State) : Host.Outcome State Fault Refusal :=
  floatUnary (.ftanh p w) w (fun f m st g a => f.tanh m st g a) s

/-- FCLASS (R156). -/
def execFclass (p : Option Pfx) (w : FmtA) (s : State) : Host.Outcome State Fault Refusal :=
  let i := Instr.fclass p w
  runReg i (fun q => laneMap q i w.d 1 fun l =>
    let ty := fltTy w.fn
    let a := q.srcA w.a (fltW w.fn) l
    joinElems (if ty.count = 1 then 32 else 16)
      ((List.range ty.count).map fun k => ty.f.classify (elemAt ty.f.width k a))) s

/-- A float format by the codes of FCVT (R157). -/
def cvtFmt (c : Nat) : FFmt :=
  match c with
  | 0 => f32
  | 1 => f64
  | 2 => f16
  | 3 => bf16
  | 4 => e4m3
  | _ => e5m2

/-- FCVT (R157). -/
def execFcvt (p : Option Pfx) (w : FmtA) (s : State) : Host.Outcome State Fault Refusal :=
  let i := Instr.fcvt p w
  runReg i (fun q =>
    let dst := (w.b.extractLsb' 4 3).toNat
    let src := (w.b.extractLsb' 0 3).toNat
    let f := cvtFmt src
    floatOut q i w.d (if dst = 1 then 2 else 1) fun l g =>
      convertF f (cvtFmt dst) q.rmode q.sat g (q.modA f (q.srcA w.a (if src = 1 then 2 else 1) l) w.fn.toNat)) s

/-- The integer type of ICVT's code (R158). -/
def icvtTy (c : Nat) : IntTy :=
  match c with
  | 0 => { n := 32, count := 1, sgn := true }
  | 1 => { n := 32, count := 1, sgn := false }
  | 2 => { n := 64, count := 1, sgn := true }
  | 3 => { n := 64, count := 1, sgn := false }
  | 4 => { n := 16, count := 1, sgn := true }
  | 5 => { n := 16, count := 1, sgn := false }
  | 6 => { n := 8, count := 1, sgn := true }
  | _ => { n := 8, count := 1, sgn := false }

/-- ICVT (R44, R158). -/
def execIcvt (p : Option Pfx) (w : FmtA) (s : State) : Host.Outcome State Fault Refusal :=
  let i := Instr.icvt p w
  runReg i (fun q =>
    let ty := icvtTy (w.b.extractLsb' 3 3).toNat
    let fc := (w.b.extractLsb' 0 3).toNat
    let f := cvtFmt fc
    let iw := if ty.n = 64 then 2 else 1
    let fw := if fc = 1 then 2 else 1
    if w.b.getLsbD 6 then
      floatOut q i w.d iw fun l g =>
        let r := toIntRange q.rmode g ty.lo ty.hi (f.unpack (q.modA f (q.srcA w.a fw l) 0))
        { bits := wrapN (32 * iw) r.1, flags := r.2.1, g := r.2.2 }
    else
      floatOut q i w.d fw fun l g => f.ofInt q.rmode q.sat g (ty.val (q.srcA w.a iw l))) s

/-- FPACK: a's elements first, then b's (R159). -/
def execFpack (p : Option Pfx) (w : FmtA) (s : State) : Host.Outcome State Fault Refusal :=
  let i := Instr.fpack p w
  runReg i (fun q =>
    let src := if w.fn.toNat < 2 then f32 else if w.fn.toNat < 4 then bf16 else f16
    let dst := match w.fn.toNat with
      | 0 => bf16
      | 1 => f16
      | 2 => e4m3
      | 3 => e5m2
      | 4 => e4m3
      | _ => e5m2
    let n := 32 / src.width
    floatOut q i w.d 1 fun l g =>
      let a := q.srcA w.a 1 l
      let b := q.read w.b 1 l
      eachElem dst.width (fun k g =>
        convertF src dst q.rmode q.sat g (elemAt src.width (k % n) (if k < n then a else b))) (List.range (2 * n)) g) s

/-- FUNPK: every element widened into the pair (R160). -/
def execFunpk (p : Option Pfx) (w : FmtA) (s : State) : Host.Outcome State Fault Refusal :=
  let i := Instr.funpk p w
  runReg i (fun q =>
    let src := match w.fn.toNat with
      | 0 => bf16
      | 1 => f16
      | 2 => e4m3
      | 3 => e5m2
      | 4 => e4m3
      | _ => e5m2
    let dst := if w.fn.toNat < 2 then f32 else if w.fn.toNat < 4 then bf16 else f16
    floatOut q i w.d 2 fun l g =>
      let a := q.srcA w.a 1 l
      eachElem dst.width (fun k g => convertF src dst .rn q.sat g (elemAt src.width k a))
        (List.range (64 / dst.width)) g) s

/-- Quantisation of each beat as one block (R161). -/
def quantise (compat : Bool) (w : FmtA) (q : Iss) : Except Stop RegOut :=
  let ty := w.fn.toNat
  let beats := (List.range 3).map fun b => (lanesOf q.act).filter fun l => l / 32 == b
  let outs := beats.filterMap fun ls =>
    if ls.isEmpty then none
    else
      let vs := ls.map fun l => f32.unpack (q.srcA w.a 1 l)
      let e := blockScale compat ty q.rmode vs
      let r := blockCodes ty q.rmode e (vs.zip (ls.map q.t.gen))
      some (ls.zip r.1, e, r.2)
  .ok { dst := w.d, width := 1
        vals := outs.flatMap fun o => o.1.map fun x => (x.1, scaleByte ty o.2.1 * 256 + x.2.1)
        flags := outs.foldl (fun a o => a ||| o.2.2) 0
        gens := outs.flatMap fun o => o.1.filterMap fun x => if x.2.2 = q.t.gen x.1 then none else some (x.1, x.2.2) }

/-- QNT: the native scale rule (R55, R161). -/
def execQnt (p : Option Pfx) (w : FmtA) (s : State) : Host.Outcome State Fault Refusal :=
  runReg (.qnt p w) (quantise false w) s

/-- QNTC: the compatibility scale rule (R56, R161). -/
def execQntc (p : Option Pfx) (w : FmtA) (s : State) : Host.Outcome State Fault Refusal :=
  runReg (.qntc p w) (quantise true w) s

/-- DQNT (R52, R53, R162). -/
def execDqnt (p : Option Pfx) (w : FmtA) (s : State) : Host.Outcome State Fault Refusal :=
  let i := Instr.dqnt p w
  runReg i (fun q =>
    let fn := w.fn.toNat
    let dst := if fn = 0 ∨ fn = 2 ∨ fn = 3 then f32 else bf16
    floatOut q i w.d 1 fun l g =>
      let v := q.srcA w.a 1 l
      let code := bitsAt v 0 8
      let scale := bitsAt v 8 8
      let r := if fn ≤ 1 then (q4Value scale code, (0 : Flags))
               else q8Value (if fn = 2 ∨ fn = 4 then 4 else 5) scale code
      dst.round .rn false g r.2 r.1) s

/-- FDOT2 (R58, R153). -/
def execFdot2 (p : Option Pfx) (w : FmtA) (s : State) : Host.Outcome State Fault Refusal :=
  let i := Instr.fdot2 p w
  runReg i (fun q =>
    let f := (fltTy w.fn).f
    floatOut q i w.d 1 fun l g =>
      let a := q.srcA w.a 1 l
      let b := q.read w.b 1 l
      f32.dot2 q.rmode q.sat g (f.unpack (q.modA f a 0)) (f.unpack (q.modB f b 0)) (f.unpack (q.modA f a 1))
        (f.unpack (q.modB f b 1)) (f32.unpack (q.read (fourth p w.d) 1 l))) s

/-- FRND (R153, R154). -/
def execFrnd (p : Option Pfx) (w : FmtA) (s : State) : Host.Outcome State Fault Refusal :=
  floatUnary (.frnd p w) w (fun f m st g a => f.rnd m st g (f.unpack a)) s

/-- FSCALE: b is one signed 32-bit register for every element (R153, R154; log entry 18 on the sign modifier). -/
def execFscale (p : Option Pfx) (w : FmtA) (s : State) : Host.Outcome State Fault Refusal :=
  let i := Instr.fscale p w
  runReg i (fun q =>
    let ty := fltTy w.fn
    let n := fltW w.fn
    let f := ty.f
    floatOut q i w.d n fun l g =>
      let a := q.srcA w.a n l
      let b := signed 32 (q.read w.b 1 l)
      eachElem f.width (fun k g => f.scale q.rmode q.sat g (f.unpack (q.modA f a k)) b) (List.range ty.count) g) s

/-- FSGN (R153, R154). -/
def execFsgn (p : Option Pfx) (w : FmtA) (s : State) : Host.Outcome State Fault Refusal :=
  floatBinary (.fsgn p w) w (fun f _ _ g a b => { bits := f.sgn a b, flags := 0, g := g }) s

/-- FFRC (R153, R154). -/
def execFfrc (p : Option Pfx) (w : FmtA) (s : State) : Host.Outcome State Fault Refusal :=
  floatUnary (.ffrc p w) w (fun f _ _ g a => f.frc g (f.unpack a)) s

/-- FDIVA (R153, R154). -/
def execFdiva (p : Option Pfx) (w : FmtA) (s : State) : Host.Outcome State Fault Refusal :=
  floatBinary (.fdiva p w) w (fun f m st g a b => f.diva m st g (f.unpack a) (f.unpack b)) s

end Sys2Proof.Machine
end

