-- ==== Sys2Proof/Machine/Translate.lean ====
section
/-! DEFINITION. Addresses: the virtual space and its windows, the two-stage page tables, cached translations, host
pages, and where an access of a motif reaches (R194 to R201, R208 to R225). -/

namespace Sys2Proof.Machine

/-- A translation fault: whether stage two faulted, the kind of R216, the faulting page; for the aperture fault of an
access of the chip's own region, the kind and the offset that the target reports (R201); the half and the address that the
faulting walk translated. Kind 0 is no fault: the walk met a frame that is being formatted, for which it waits (R219). -/
structure XFault where
  stage2 : Bool
  kind : Nat
  page : Nat
  own : Option (Nat × Nat) := none
  walked : Option (Bool × Nat) := none
  deriving DecidableEq, Repr

/-- Kinds 1 to 4 are replayable (R216). -/
def XFault.replayable (f : XFault) : Bool := decide (1 ≤ f.kind ∧ f.kind ≤ 4)

/-- A leaf that a walk found: the entry, the bytes it maps, the base it maps them to (R209, R211). -/
structure Leaf where
  e : Nat
  size : Nat
  base : Nat
  deriving DecidableEq, Repr

/-- The address field of a page-table entry (R210). -/
def pteAddr (e : Nat) : Nat := e / 4096 % 2 ^ 44 * 4096

/-- The coherent window's physical range (R225). -/
def windowBase : Nat := 0x00FFFFC000000000

/-- Whether a physical address lies in the coherent window (R225). -/
def inWindow (a : Nat) : Bool := decide (windowBase ≤ a ∧ a < windowBase + 0x40000)

/-- Whether a valid entry of a level is malformed in itself (R210, R211, R212); stage two has no HOST. Features 9 and
10 make TIER and HOST malformed where they are not accepted (R422). -/
def pteMalformed (stage2 tierOn hostOn : Bool) (level e : Nat) : Bool :=
  let table := bitAt e 1
  let addr := pteAddr e
  decide (bitsAt e 58 6 ≠ 0) ||
  (if table then level == 1 || decide (bitsAt e 2 10 ≠ 0) || decide (bitsAt e 56 2 ≠ 0)
   else
    decide (4 ≤ level) || bitsAt e 4 2 == 3 || bitsAt e 6 2 == 3 || (bitAt e 57 && level != 1) ||
    (level == 3 && decide (addr % 2 ^ 30 ≠ 0)) || (level == 2 && decide (addr % 2 ^ 21 ≠ 0)) ||
    (bitAt e 10 && (stage2 || !hostOn || bitAt e 11 || bitAt e 56 || bitAt e 8 || decide (bitsAt e 6 2 ≠ 0) ||
      decide (addr ≠ 0))) ||
    (bitAt e 11 && (!tierOn || decide (bitsAt e 6 2 ≠ 0))))

/-- The bytes a leaf of a level maps (R209). -/
def leafSize (level e : Nat) : Nat :=
  if level = 3 then 2 ^ 30 else if level = 2 then 2 ^ 21 else if bitAt e 57 then 2 ^ 16 else 4096

/-- The base of a leaf: an S64 leaf's is that of its 64 KiB (R211). -/
def leafBase (level e : Nat) : Nat :=
  if level = 1 ∧ bitAt e 57 then pteAddr e / 2 ^ 16 * 2 ^ 16 else pteAddr e

/-- Whether an S64 leaf of entry index j does not map the j-th 4 KiB of its 64 KiB (R211, log entry 13); a HOST leaf maps
no frame (R212, R220). -/
def s64Wrong (level e idx : Nat) : Bool :=
  level == 1 && bitAt e 57 && !bitAt e 10 && decide (pteAddr e / 4096 % 16 ≠ idx % 16)

/-- The index of an address at a level (R209). -/
def levelIndex (level a : Nat) : Nat := a / 2 ^ (12 + 9 * (level - 1)) % 512

/-- The bytes that an entry of a level covers (R209). -/
def entrySpan (level : Nat) : Nat := 2 ^ (12 + 9 * (level - 1))

/-- The entry of a level for an address that a walk need not read: a table entry in the die's walk cache (R214), or the
leaf that rules a 64 KiB page since the last invalidation of it (R211). -/
def knownEntry (s : State) (die : Option Nat) (cid : Cid) (stage2 pod : Bool) (level a : Nat) : Option Nat :=
  let mine := fun (w : WalkEntry) => w.cid == cid && w.stage2 == stage2 && w.pod == pod && w.level == level
  let cached := if level = 1 then
      s.firstRead.find? fun w => mine w && w.base == a / 2 ^ 16 * 2 ^ 16
    else (die.map fun d => tget [] s.walkCaches d).getD [] |>.find? fun w =>
      mine w && w.base == a / entrySpan level * entrySpan level
  cached.map (·.e)

/-- Whether a job of a device has a cut live on this chip: its frame-format command waits (R444, log entry
21). -/
def cutLive (s : State) (vd : Nat) : Bool := s.jobs.any fun j => cidVd j.cid == vd && !j.recording.isEmpty

/-- Whether a physical address lies in a frame that is being formatted: what reaches it waits. A format that waits for a cut
has not begun (R219, R444). -/
def frameBusy (s : State) (a : Nat) : Bool := s.vdevs.any fun e => match e.2.fmtBusy with
  | some (f, _) => f == a / 2 ^ 21 && !cutLive s e.1
  | none => false

/-- A stage-two walk of a device from a level down, reading each entry at its home (R209, R211, R214). -/
def walk2 (s : State) (die : Option Nat) (vd gpa : Nat) : Nat → Nat → Except XFault Leaf
  | 0, _ => .error { stage2 := true, kind := 7, page := gpa / 4096 * 4096 }
  | level + 1, table =>
    let a := table + 8 * levelIndex (level + 1) gpa
    let bad := fun k => Except.error { stage2 := true, kind := k, page := gpa / 4096 * 4096 }
    let known := knownEntry s die (cidOf vd 0) true false (level + 1) gpa
    if known.isNone && frameBusy s a then bad 0
    else if known.isNone && isPoisoned s { space := .device, addr := a } then bad 7
    else
      let e := known.getD (leNat (readBytes s.mem a 8))
      if !bitAt e 0 then bad 3
      else if pteMalformed true ((vdevOf s vd).accepted.getLsbD 9) true (level + 1) e ||
          (known.isNone && s64Wrong (level + 1) e (levelIndex (level + 1) gpa)) then bad 7
      else if bitAt e 1 then walk2 s die vd gpa level (pteAddr e)
      else .ok { e := e, size := leafSize (level + 1) e, base := leafBase (level + 1) e }

/-- The leaf that stands for a disabled stage two: everything allowed, the address itself (R208). -/
def idLeaf (a : Nat) : Leaf := { e := 0x00D, size := 2 ^ 56, base := a - a }

/-- Stage two of a device for a guest-physical address (R208, R209). -/
def stage2Leaf (s : State) (die : Option Nat) (vd gpa : Nat) : Except XFault Leaf :=
  let v := vdevOf s vd
  if v.s2on then walk2 s die vd (gpa % 2 ^ 56) 5 v.vroot else .ok (idLeaf gpa)

/-- The physical address of a guest-physical one under its leaf. -/
def Leaf.at (l : Leaf) (a : Nat) : Nat := l.base + a % l.size

/-- The store that a leaf's frame lies in. -/
def leafSpace (tier : Bool) (a : Nat) : PAddr :=
  if tier then { space := .tier2, addr := a }
  else if inWindow a then { space := .window, addr := a - windowBase }
  else { space := .device, addr := a }

/-- The stronger of two page kinds: SO over RC over UO (R213). -/
def strongerOrd (a b : Nat) : Nat := if a = 1 ∨ b = 1 then 1 else if a = 0 ∨ b = 0 then 0 else 2

/-- The usable bytes of a frame of an ECC mode (R217). -/
def usableBytes (mode : Nat) : Nat := if mode = 0 then 2080768 else if mode = 1 then 1966080 else 1835008

/-- Whether two ranges of bytes meet. -/
def spansMeet (a n b m : Nat) : Bool := decide (a < b + m ∧ b < a + n)

/-- A leaf that holds a window address keeps R225: 4 KiB, RC or SO, no HOST, TIER, COMP, SNAP or ECC, in the device's
slice. -/
def windowLeafOk (s : State) (vd : Nat) (l : Leaf) : Bool :=
  l.size == 4096 && !bitAt l.e 10 && !bitAt l.e 11 && !bitAt l.e 8 && !bitAt l.e 56 && bitsAt l.e 6 2 == 0 &&
  bitsAt l.e 4 2 != 2 && (vdevOf s vd).winslice == some ((l.base - windowBase) / 8192)

/-- What is wrong with a leaf that holds a physical address: it meets the coherent window and breaks R225, its ECC is not
its frame's, or it is small and reaches into the frame's tail (R212, R217, R218, R225). A frame that is being formatted is
judged once it is formatted (R219). -/
def leafStop (s : State) (vd : Nat) (l : Leaf) (a : Nat) : Option Nat :=
  let ecc := bitsAt l.e 6 2
  if spansMeet l.base l.size windowBase 0x40000 then (if windowLeafOk s vd l then none else some 7)
  else if bitAt l.e 11 || frameBusy s a then none
  else if ecc ≠ (frameOf s a).mode then some 7
  else if l.size ≤ 2 ^ 16 ∧ usableBytes ecc < l.base % 2 ^ 21 + l.size then some 6
  else none

/-- Stage two of a device for bytes that a walk or the device's own logic reads: their leaf is judged, and their place in
the frame (R208, R209, R212, R218). -/
def stage2 (s : State) (die : Option Nat) (vd gpa n : Nat) : Except XFault Leaf :=
  match stage2Leaf s die vd gpa with
  | .error f => .error f
  | .ok l =>
    let a := l.at gpa
    let bad := fun k => Except.error { stage2 := true, kind := k, page := gpa / 4096 * 4096 }
    if !(vdevOf s vd).s2on then .ok l
    else
      match leafStop s vd l a with
      | some k => bad k
      | none =>
        if !bitAt l.e 11 && !inWindow a && frameBusy s a then bad 0
        else if !bitAt l.e 11 && !inWindow a && decide (usableBytes (bitsAt l.e 6 2) < a % 2 ^ 21 + n) then bad 6 else .ok l

/-- Bytes of memory at a guest-physical address as the device's own logic reads them: none where stage two faults or a
line is poisoned (R208, R214). -/
def readGuest (s : State) (vd gpa n : Nat) : Option (List Byte) :=
  match stage2 s none vd gpa n with
  | .error _ => none
  | .ok l =>
    let p := leafSpace (bitAt l.e 11) (l.at gpa)
    if isPoisoned s p then none else some (readBytes (spaceMem s p.space) p.addr n)

/-- What the poison check finds in a line that the device's own logic reads for a context (R283, R284). -/
def noticeGuest (s : State) (cid : Cid) (gpa n : Nat) : State :=
  match stage2 s none (cidVd cid) gpa n with
  | .error _ => s
  | .ok l => discover s (leafSpace (bitAt l.e 11) (l.at gpa)) cid

/-- Whether a stage-one leaf gives an ECC where stage two is enabled, whose leaf alone may give one (R212, R213). -/
def eccUnderTwo (on : Bool) (e : Nat) : Bool := on && !bitAt e 1 && !bitAt e 10 && decide (bitsAt e 6 2 ≠ 0)

/-- A stage-one walk of a context from a level down: each table address is translated by stage two (R209, R211, R214). -/
def walk1 (s : State) (die : Option Nat) (cid : Cid) (pod : Bool) (va : Nat) : Nat → Nat → Except XFault Leaf
  | 0, _ => .error { stage2 := false, kind := 7, page := va / 4096 * 4096 }
  | level + 1, table =>
    let g := table + 8 * levelIndex (level + 1) va
    let bad := fun k => Except.error { stage2 := false, kind := k, page := va / 4096 * 4096 }
    let v := vdevOf s (cidVd cid)
    let next := fun (e : Nat) (fresh : Bool) =>
      if !bitAt e 0 then bad 1
      else if pteMalformed false (v.accepted.getLsbD 9) (v.accepted.getLsbD 10) (level + 1) e ||
          (fresh && s64Wrong (level + 1) e (levelIndex (level + 1) va)) || eccUnderTwo v.s2on e then bad 7
      else if bitAt e 1 then walk1 s die cid pod va level (pteAddr e)
      else .ok { e := e, size := leafSize (level + 1) e, base := leafBase (level + 1) e }
    match knownEntry s die cid false pod (level + 1) va with
    | some e => next e false
    | none =>
      match stage2 s die (cidVd cid) g 8 with
      | .error f => .error f
      | .ok l2 =>
        let p := leafSpace (bitAt l2.e 11) (l2.at g)
        if !(v.s2on) && p.space == .device && frameBusy s p.addr then bad 0
        else if isPoisoned s p then bad 7 else next (leNat (readBytes (spaceMem s p.space) p.addr 8)) true

/-- The two leaves combined into one cached translation of an address (R213), with the checks of the leaf that gives the
physical address: the frame's mode, the window, and the frame tail of a small leaf (R212, R217, R218, R225). A small
stage-one leaf under a larger stage-two leaf maps part of its bytes, and each access is judged by itself; the spec does not
say whether such a leaf is judged whole (log entry 86). -/
def combine (s : State) (cid : Cid) (pod : Bool) (va : Nat) (l1 l2 : Leaf) : Except XFault TlbEntry :=
  let vd := cidVd cid
  let on := (vdevOf s vd).s2on
  let bad := fun k st => Except.error { stage2 := st, kind := k, page := va / 4096 * 4096 }
  let host := bitAt l1.e 10
  let gpa := l1.at va
  let size := if host || !on then l1.size else min l1.size l2.size
  let fl := if on then l2 else l1
  let a := if on && !host then l2.at gpa else gpa
  let tier := !host && bitAt fl.e 11
  let ecc := if host then 0 else bitsAt fl.e 6 2
  let entry : TlbEntry :=
    { cid := cid, pod := pod, vbase := va / size * size, size := size, pbase := a - va % size
      r := true, w1 := bitAt l1.e 2, w := bitAt l1.e 2 && (host || !on || bitAt l2.e 2)
      x1 := bitAt l1.e 3, x := bitAt l1.e 3 && (host || !on || bitAt l2.e 3)
      sealed := bitAt l1.e 9 || (!host && on && bitAt l2.e 9)
      snap := bitAt l1.e 56 || (!host && on && bitAt l2.e 56)
      comp := bitAt l1.e 8 && (host || !on || bitAt l2.e 8)
      ord := if host || !on then bitsAt l1.e 4 2 else strongerOrd (bitsAt l1.e 4 2) (bitsAt l2.e 4 2)
      ecc := ecc, tier := tier, host := host, gpbase := gpa - va % size, via := va }
  if host then .ok entry
  else
    match leafStop s vd fl a with
    | some k => bad k on
    | none => .ok entry

/-- The level and the table at which a walk of a context's half begins: the local half, or the pod-shared region, of
which a context may have none (R208, R209). -/
def walkRoot (d : Desc) (pod : Bool) (va : Nat) : Option (Nat × Nat) :=
  if !pod then some (5, d.sroot) else if d.podroot = 0 ∨ 2 ^ 44 ≤ va then none else some (4, d.podroot)

/-- A full walk of the local half, or of the pod-shared region by its level-4 root (R208, R209, R213). -/
def walk (s : State) (die : Option Nat) (cid : Cid) (d : Desc) (pod : Bool) (va : Nat) : Except XFault TlbEntry :=
  let vd := cidVd cid
  match walkRoot d pod va with
  | none => .error { stage2 := false, kind := 1, page := va / 4096 * 4096 }
  | some (level, root) =>
    match walk1 s die cid pod va level root with
    | .error f => .error f
    | .ok l1 =>
      if bitAt l1.e 10 then combine s cid pod va l1 (idLeaf 0)
      else
        match stage2Leaf s die vd (l1.at va) with
        | .error f => .error f
        | .ok l2 => combine s cid pod va l1 l2

/-- An entry that a walk reads: where it lies, and the entry as a cache would hold it. -/
structure WalkRead where
  line : PAddr
  entry : WalkEntry
  deriving DecidableEq, Repr

/-- The first address that an entry of a level rules: an S64 leaf rules its 64 KiB (R209, R211). -/
def entryBase (level e a : Nat) : Nat :=
  if level = 1 ∧ bitAt e 57 then a / 2 ^ 16 * 2 ^ 16 else a / entrySpan level * entrySpan level

/-- The entries that a stage-two walk reads, down to the first poisoned one (R212, R214). -/
def walk2Reads (s : State) (die : Option Nat) (vd gpa : Nat) : Nat → Nat → List WalkRead
  | 0, _ => []
  | level + 1, table =>
    match knownEntry s die (cidOf vd 0) true false (level + 1) gpa with
    | some e => if bitAt e 1 then walk2Reads s die vd gpa level (pteAddr e) else []
    | none =>
      let p : PAddr := { space := .device, addr := table + 8 * levelIndex (level + 1) gpa }
      let e := leNat (readBytes s.mem p.addr 8)
      { line := p
        entry := { cid := cidOf vd 0, stage2 := true, pod := false, level := level + 1
                   base := entryBase (level + 1) e gpa, e := e } } ::
      (if !isPoisoned s p && bitAt e 0 && bitAt e 1 then walk2Reads s die vd gpa level (pteAddr e) else [])

/-- The entries that stage two of a device reads for a guest-physical address. -/
def stage2Reads (s : State) (die : Option Nat) (vd gpa : Nat) : List WalkRead :=
  let v := vdevOf s vd
  if v.s2on then walk2Reads s die vd (gpa % 2 ^ 56) 5 v.vroot else []

/-- The entries that a walk of both stages reads (R212, R214). -/
def walk1Reads (s : State) (die : Option Nat) (cid : Cid) (pod : Bool) (va : Nat) : Nat → Nat → List WalkRead
  | 0, _ => []
  | level + 1, table =>
    let vd := cidVd cid
    let g := table + 8 * levelIndex (level + 1) va
    let on := fun (e : Nat) =>
      if bitAt e 1 then walk1Reads s die cid pod va level (pteAddr e)
      else if bitAt e 10 then []
      else stage2Reads s die vd (leafBase (level + 1) e + va % leafSize (level + 1) e)
    match knownEntry s die cid false pod (level + 1) va with
    | some e => on e
    | none =>
      stage2Reads s die vd g ++ (match stage2 s die vd g 8 with
        | .error _ => []
        | .ok l =>
          let p := leafSpace (bitAt l.e 11) (l.at g)
          let e := leNat (readBytes (spaceMem s p.space) p.addr 8)
          { line := p
            entry := { cid := cid, stage2 := false, pod := pod, level := level + 1
                       base := entryBase (level + 1) e va, e := e } } ::
          (if isPoisoned s p || !bitAt e 0 then [] else on e))

/-- The entries that a walk of a context's half reads. -/
def walkReads (s : State) (die : Option Nat) (cid : Cid) (d : Desc) (pod : Bool) (va : Nat) : List WalkRead :=
  match walkRoot d pod va with
  | none => []
  | some (level, root) => walk1Reads s die cid pod va level root

/-- A walk that meets an error nothing has found yet finds it: the line is poisoned and reported (R212, R284). -/
def discoverWalk (s : State) (die : Nat) (cid : Cid) (d : Desc) (pod : Bool) (va : Nat) : State :=
  (walkReads s (some die) cid d pod va).foldl (fun s r => discover s r.line cid) s

/-- Entries added to those that a cache holds. -/
def addEntries (l : List WalkEntry) (ws : List WalkEntry) : List WalkEntry :=
  ws.foldl (fun l w => if l.contains w then l else l ++ [w]) l

/-- The entries that a walk reads and that rule their 64 KiB pages from then on (R211). -/
def noteFirsts (s : State) (die : Nat) (cid : Cid) (d : Desc) (pod : Bool) (va : Nat) : State :=
  let firsts := ((walkReads s (some die) cid d pod va).map (·.entry)).filter fun w => w.level == 1 && bitAt w.e 57
  { s with firstRead := addEntries s.firstRead firsts }

/-- What a walk without a fault leaves beside its translation: the errors that the ECC corrected in the lines it read, the
table entries in the die's walk cache, and the entries that rule their 64 KiB pages from now on (R211, R214, R283). -/
def noteWalk (s : State) (die : Nat) (cid : Cid) (d : Desc) (pod : Bool) (va : Nat) : State :=
  let tables := ((walkReads s (some die) cid d pod va).map (·.entry)).filter fun w => bitAt w.e 1
  let s1 := noteFirsts (discoverWalk s die cid d pod va) die cid d pod va
  if tables.isEmpty then s1
  else { s1 with walkCaches := tset [] s1.walkCaches die (addEntries (tget [] s1.walkCaches die) tables) }

/-- The cluster number under which a die's command front ends hold their translations; no cluster has it. -/
def frontCluster : Nat := 63

/-- Whether a cached translation covers an address (R214). -/
def TlbEntry.covers (e : TlbEntry) (cid : Cid) (pod : Bool) (va : Nat) : Bool :=
  e.cid == cid && e.pod == pod && decide (e.vbase ≤ va ∧ va < e.vbase + e.size)

/-- The address space view of a motif's agents; a strand's names its quadrant, whose TLB it uses (R214). -/
structure View where
  cid : Cid
  desc : Desc
  die : Nat
  cluster : Nat
  quad : Option Nat
  place : Nat
  priv : Nat
  scratch : Nat
  deriving DecidableEq, Repr

/-- A cached translation: of the quadrant's TLB, then of the cluster's (R214). -/
def cachedTlb (s : State) (v : View) (pod : Bool) (va : Nat) : Option TlbEntry :=
  let c := clusterOf s v.die v.cluster
  match c.qtlb.find? fun e => v.quad == some e.1 && e.2.covers v.cid pod va with
  | some e => some e.2
  | none => c.tlb.find? fun e => e.covers v.cid pod va

/-- A translation: the cached one, or what a walk finds now (R214). -/
def lookup (s : State) (v : View) (pod : Bool) (va : Nat) : Except XFault TlbEntry :=
  match cachedTlb s v pod va with
  | some e => .ok e
  | none => walk s (some v.die) v.cid v.desc pod va

/-- Whether a cached translation makes another one needless. -/
def TlbEntry.subsumes (f e : TlbEntry) : Bool := f.covers e.cid e.pod e.vbase && decide (e.size ≤ f.size)

/-- A translation put into a quadrant's TLB, which holds 64 entries; the oldest goes (R214). -/
def cacheQuad (k : Nat) (e : TlbEntry) (l : List (Nat × TlbEntry)) : List (Nat × TlbEntry) :=
  if l.any fun x => x.1 == k && x.2.subsumes e then l
  else (if 64 ≤ (l.filter fun x => x.1 == k).length then l.eraseP fun x => x.1 == k else l) ++ [(k, e)]

/-- A translation is cached in the agent's quadrant and its cluster, whose TLB holds 4096 entries; one that a walk has
just found leaves what the walk read (R214). -/
def cacheTlb (s : State) (v : View) (e : TlbEntry) : State :=
  let c := clusterOf s v.die v.cluster
  let known := c.tlb.any fun f => f.subsumes e
  let s1 := if known || c.qtlb.any (fun x => v.quad == some x.1 && x.2.subsumes e) then s
    else noteWalk s v.die e.cid v.desc e.pod e.via
  updCluster s1 v.die v.cluster fun c =>
    { c with
      tlb := if known then c.tlb else (c.tlb ++ [e]).drop (c.tlb.length + 1 - 4096)
      qtlb := match v.quad with
        | some k => cacheQuad k e c.qtlb
        | none => c.qtlb }

/-- What an access wants is denied: the sealed fault comes first, then the stage that denies it (R216). -/
def denied (e : TlbEntry) (acc : Access) : Option (Bool × Nat) :=
  match acc with
  | .read => none
  | .write => if e.sealed then some (false, 12) else if !e.w1 then some (false, 2) else if !e.w then some (true, 4) else none
  | .fetch => if !e.x1 then some (false, 2) else if !e.x then some (true, 4) else none

/-- The page that a permission fault reports: the virtual page for stage one, the guest-physical for stage two
(R369, log entry 14). -/
def deniedPage (e : TlbEntry) (stage2 : Bool) (va : Nat) : Nat :=
  if stage2 then (e.gpbase + (va - e.vbase)) / 4096 * 4096 else va / 4096 * 4096

/-- Where an access reaches. -/
inductive Target where
  | scratch (off : Nat)
  | phys (p : PAddr) (e : TlbEntry)
  | pod (chip off : Nat)
  | fault (f : XFault)
  | hostMiss (page : Nat)
  deriving DecidableEq, Repr

/-- Whether a target lies in host memory. -/
def Target.isHost : Target → Bool
  | .phys p _ => p.space == .host
  | _ => false

/-- The view of a strand. -/
def Iss.view (q : Iss) : View :=
  { cid := q.m.cid, desc := q.m.desc, die := q.m.die, cluster := q.m.cluster, quad := some (q.t.index % 4), place := q.t.place
    priv := q.m.header.priv, scratch := q.m.header.scratch * 1024 }

/-- The view of a motif's engines and sequencer. -/
def motifView (m : Motif) : View :=
  { cid := m.cid, desc := m.desc, die := m.die, cluster := m.cluster, quad := none, place := 0, priv := 0
    scratch := m.header.scratch * 1024 }

/-- A page translated for an access: a frame, a host page, or a fault. -/
def pageTarget (s : State) (v : View) (pod : Bool) (va n : Nat) (acc : Access) : Target :=
  let vd := cidVd v.cid
  match lookup s v pod va with
  | .error f => .fault { f with walked := some (pod, va) }
  | .ok e =>
    match denied e acc with
    | some (st, k) => .fault { stage2 := st, kind := k, page := deniedPage e st va }
    | none =>
      if e.host then
        let page := va / 4096 * 4096
        match (clusterOf s v.die v.cluster).atc.find? fun a => a.cid == v.cid && a.pasid == v.desc.pasid && a.page == page with
        | none => .hostMiss page
        | some a =>
          let granted := match acc with
            | .read => a.r
            | .write => a.w
            | .fetch => a.x
          if granted then .phys { space := .host, addr := a.frame + va % 4096 } e else .hostMiss page
      else
        let a := e.pbase + (va - e.vbase)
        let p := leafSpace e.tier a
        if p.space = .device ∧ frameBusy s a then .phys p e
        else if p.space = .device ∧ 2 ^ 21 < e.size ∧ e.ecc ≠ (frameOf s a).mode then
          .fault { stage2 := (vdevOf s vd).s2on, kind := 7, page := va / 4096 * 4096 }
        else if p.space = .device ∧ usableBytes e.ecc < a % 2 ^ 21 + n then
          .fault { stage2 := false, kind := 6, page := va / 4096 * 4096 }
        else .phys p e

/-- A fault that is not replayable, of a kind. -/
def hardFault (kind va : Nat) : Target := .fault { stage2 := false, kind := kind, page := va / 4096 * 4096 }

/-- Whether an address lies in the motif save region (R378). -/
def inSaveRegion (d : Desc) (va : Nat) : Bool := decide (d.msave ≤ va ∧ va < d.msave + 2 ^ 21 * d.mslots)

/-- Whether an address is canonical (R194). -/
def canonical (va : Nat) : Bool := va / 2 ^ 56 % 256 == 0 || va / 2 ^ 56 % 256 == 255

/-- Whether a device's table has a valid entry to another chip of its job (R201, R414). -/
def routed (s : State) (vd chip : Nat) : Bool :=
  let e := tget 0 (vdevOf s vd).route chip
  e.getLsbD 15 && e.extractLsb' 0 6 != 63

/-- An access of the pod-shared region at its home. The spec does not say what a HOST leaf means there: it is judged as a
malformed entry, whether or not its host page is known (R201; log entry 87). -/
def podPage (s : State) (v : View) (off n : Nat) (acc : Access) : Target :=
  match pageTarget s v true off n acc with
  | .hostMiss _ => hardFault 7 off
  | t => if t.isHost then hardFault 7 off else t

/-- An access of the pod aperture: this chip's own region, or another chip's; a number outside the job and a fault at
the own region are the aperture fault (R200, R201). Without feature 8 every such access is (R422). -/
def podTarget (s : State) (v : View) (va n : Nat) (acc : Access) : Target :=
  let chip := va / 2 ^ 44 % 4096
  let off := va % 2 ^ 44
  if !featureOn s (cidVd v.cid) 8 || acc == .fetch then hardFault 11 va
  else if chip = ownChip s (cidVd v.cid) then
    match podPage s v off n acc with
    | .fault f =>
      if f.kind = 0 then .fault f
      else .fault { stage2 := false, kind := 11, page := va / 4096 * 4096, own := some (f.kind, off), walked := f.walked }
    | t => t
  else if routed s (cidVd v.cid) chip then .pod chip off
  else hardFault 11 va

/-- Where n bytes at an ordinary address of the local half reach: the page tables map nothing in the windows, and the
system region and the save region are closed (R195, R199, R378). -/
def ordinaryTarget (s : State) (v : View) (va n : Nat) (acc : Access) : Target :=
  if !canonical va then hardFault 8 va
  else if 0x00FFFFFE00000000 ≤ va then .fault { stage2 := false, kind := 1, page := va / 4096 * 4096 }
  else if 0x00FFFFFC00000000 ≤ va ∨ inSaveRegion v.desc va then hardFault 10 va
  else pageTarget s v false va n acc

/-- The address that a private access of a lane is translated under (R197, R198). -/
def aliasOf (v : View) (l off : Nat) : Nat := v.desc.pbase + (v.place * 96 + l) * v.priv + off

/-- Where n bytes at a virtual address reach for a lane's own instruction (R194 to R201); `lane` is none for engines,
the sequencer and the hardware's own accesses, to which the private window is closed (R197). -/
def resolve (s : State) (v : View) (lane : Option Nat) (va n : Nat) (acc : Access) : Target :=
  if !canonical va then hardFault 8 va
  else if va / 2 ^ 56 = 255 then podTarget s v va n acc
  else if 0x00FFFFFF00000000 ≤ va then
    if acc = .fetch then hardFault 9 va
    else if va % 2 ^ 32 + n ≤ v.scratch then .scratch (va % 2 ^ 32) else hardFault 9 va
  else if 0x00FFFFFE00000000 ≤ va then
    match lane with
    | none => hardFault 9 va
    | some l =>
      if acc = .fetch ∨ v.priv < va % 2 ^ 32 + n then hardFault 9 va
      else ordinaryTarget s v (aliasOf v l (va % 2 ^ 32)) n acc
  else ordinaryTarget s v va n acc

/-- What a fault that no driver resolves leaves beside the error: a walk's poisoned table line found, and the target's
own report of an access that names this chip (R201, R212, R284, R368). -/
def noticeFault (s : State) (v : View) (f : XFault) : State :=
  let s1 := match f.walked with
    | some (pod, va) => discoverWalk s v.die v.cid v.desc pod va
    | none => s
  match f.own with
  | some (k, off) => reportErr s1 { cid := v.cid, code := 20, detail := k, addr := off }
  | none => s1

end Sys2Proof.Machine
end

