-- ==== Sys2Proof/Machine/Access.lean ====
section
/-! DEFINITION. Accesses of lanes: which bytes an instruction reaches, the faults and waits of its translation,
reading, writing and combining at the point of performance, L1 copies, pending stores, host lines, and requests
through the pod aperture (R200, R216, R221, R222, R226 to R243, R254 to R265). -/

namespace Sys2Proof.Machine

/-! ## Cut blocks and packets -/

/-- A cut block that holds no reserved bit and no value out of range (R431). -/
structure CutBlock where
  links : Nat
  coord : Nat
  nchips : Nat
  kind : Nat
  img : List Nat
  size : Nat
  deriving DecidableEq, Repr

/-- The cut block of a context; none when its device has none or the block breaks R431. -/
def cutBlockOf (s : State) (cid : Cid) : Option CutBlock :=
  let v := vdevOf s (cidVd cid)
  if v.cutbase = 0 then none
  else
    match readGuest s (cidVd cid) (v.cutbase + 64 * cidCtx cid) 64 with
    | none => none
    | some b =>
      let nchips := fieldAt b 8 2
      let i0 := fieldAt b 0x10 8
      let i1 := fieldAt b 0x18 8
      let size := fieldAt b 0x20 8
      if nchips = 0 ∨ 4096 < nchips ∨ 4095 < fieldAt b 6 2 ∨ 1 < fieldAt b 0xA 1 ∨ fieldAt b 0xB 5 ≠ 0 ∨
          i0 % 4096 ≠ 0 ∨ i1 % 4096 ≠ 0 ∨ size % 4096 ≠ 0 ∨ fieldAt b 0x28 24 ≠ 0 then none
      else some { links := fieldAt b 0 6, coord := fieldAt b 6 2, nchips := nchips, kind := fieldAt b 0xA 1
                  img := [i0, i1], size := size }

/-- What the read of a context's cut block finds in its line (R283, R284). -/
def noticeBlock (s : State) (cid : Cid) : State :=
  let v := vdevOf s (cidVd cid)
  if v.cutbase = 0 then s else noticeGuest s cid (v.cutbase + 64 * cidCtx cid) 64

/-- Byte 0x38 of a packet that is no marker, for a transaction of an epoch (R435, R449). -/
def cutByte (s : State) (cid : Cid) (epoch : Nat) : BitVec 8 :=
  if (cutBlockOf s cid).isSome then BitVec.ofNat 8 (epoch % 3 + 4) else 0

/-- A packet of an operation, from this chip, on the channel of R412. -/
def newPacket (s : State) (cid : Cid) (chip vc op : Nat) (epoch : Nat) : Packet :=
  { cid := cid, dest := BitVec.ofNat 12 chip, vc := BitVec.ofNat 2 vc, cls := false, destRsv := false
    src := BitVec.ofNat 12 (ownChip s (cidVd cid)), srcRsv := 0, op := BitVec.ofNat 8 op, nlines := 0, size := 0
    addr := 0, rtag := 0, tags := 0, checks := [], cut := cutByte s cid epoch, aop := 0, status := 0, hcrc := 0
    payload := [] }

/-- The size code of a sub-line access (R411). -/
def sizeCode (n : Nat) : BitVec 4 :=
  if n = 1 then 1 else if n = 2 then 2 else if n = 4 then 3 else if n = 8 then 4 else 5

/-- The bytes of a sub-line size code (R411). -/
def sizeBytes (c : BitVec 4) : Nat := 2 ^ (c.toNat - 1)

/-! ## What lanes reach -/

/-- The location an access names: a generic address, an offset of the scratchpad, or of the lane's private memory. -/
inductive Loc where
  | generic (va : Nat)
  | scratch (off : Int)
  | priv (off : Int)
  deriving DecidableEq, Repr

/-- The number whose alignment is judged and whose low 32 bits a trap delivers. -/
def Loc.num : Loc → Nat
  | .generic va => va
  | .scratch off => wrapN 64 off
  | .priv off => wrapN 64 off

/-- The virtual address that an error report carries (R368). -/
def Loc.addr : Loc → Nat
  | .generic va => va
  | .scratch off => wrapN 64 (0x00FFFFFF00000000 + off)
  | .priv off => wrapN 64 (0x00FFFFFE00000000 + off)

/-- One access: the lane that makes it (the lowest active one for a uniform access) and its location. -/
structure LaneAcc where
  lane : Nat
  loc : Loc
  deriving DecidableEq, Repr

/-- The address of the memory that an access reaches: the lane's private memory lies at its alias (R197, R198). -/
def LaneAcc.reached (a : LaneAcc) (v : View) : Nat :=
  match a.loc with
  | .generic va => if va / 2 ^ 32 = 0x00FFFFFE then aliasOf v a.lane (va % 2 ^ 32) else va
  | .priv off => aliasOf v a.lane off.toNat
  | .scratch _ => a.loc.addr

/-- Where an access of n bytes reaches (R194 to R201, R258). -/
def locTarget (s : State) (v : View) (a : LaneAcc) (n : Nat) (acc : Access) : Target :=
  match a.loc with
  | .generic va => resolve s v (some a.lane) va n acc
  | .scratch off =>
    if 0 ≤ off ∧ off + n ≤ v.scratch then .scratch off.toNat else hardFault 9 a.loc.addr
  | .priv off =>
    if 0 ≤ off ∧ off + n ≤ v.priv then ordinaryTarget s v (aliasOf v a.lane off.toNat) n acc
    else hardFault 9 a.loc.addr

/-- The lowest lane whose address is not a multiple of the access size (R26, R255). -/
def misaligned (as : List LaneAcc) (n : Nat) : Option Stop :=
  (as.find? fun a => decide (a.loc.num % n ≠ 0)).map fun a => alignTrap a.loc.num

/-- The access byte of a fault-queue entry; the sequencer and the work that it queues show bit 4 alone (R369; log entry 14). -/
def accessBits (acc : Access) (engine seq : Bool) : BitVec 8 :=
  (match acc with
   | .read => (1 : BitVec 8)
   | .write => 2
   | .fetch => 4) ||| (if engine then 8 else 0) ||| (if seq then 16 else 0)

/-- The code of an access kind in the device's own tables of outstanding ATS requests. -/
def accessNo : Access → Nat
  | .read => 1
  | .write => 2
  | .fetch => 4

/-- Whether an outstanding ATS request of a die is for a page and PASID of a device (R406). -/
def AtsAsk.isFor (a : AtsAsk) (die vd pasid page : Nat) : Bool :=
  a.die == die && cidVd a.cid == vd && a.pasid == pasid && a.page == page

/-- Whether an outstanding page request is for a page, PASID and access kind of a device (R406). -/
def PriAsk.isFor (p : PriAsk) (vd pasid page : Nat) (acc : Access) : Bool :=
  cidVd p.cid == vd && p.pasid == pasid && p.page == page && p.access == acc

/-- The wait for a host page that no cached translation grants: an outstanding page request, an outstanding translation
request, or a new one (R221, R222, R406). -/
def hostWait (s : State) (v : View) (page : Nat) (acc : Access) : State × PageWait :=
  let vd := cidVd v.cid
  let pasid := v.desc.pasid
  let front := v.cluster == frontCluster
  if s.pri.any fun p => p.isFor vd pasid page acc then
    ({ s with pri := s.pri.map fun p => if p.isFor vd pasid page acc then { p with front := p.front || front } else p },
     .pri vd pasid page acc)
  else
    let w : PageWait := .ats vd pasid page acc
    if s.ats.any fun a => a.isFor v.die vd pasid page then
      ({ s with ats := s.ats.map fun a =>
          if a.isFor v.die vd pasid page then { a with mask := a.mask ||| accessNo acc, front := a.front || front } else a }, w)
    else
      (send { s with ats := s.ats ++
          [{ die := v.die, cid := v.cid, pasid := pasid, page := page, mask := accessNo acc, front := front }] }
        (.atsRequest v.cid pasid page (acc == .fetch)), w)

/-- The waits that the targets of one instruction need: every faulting page reported once, every missing host page
requested (R216, R369). -/
def pageWaits (s : State) (v : View) (acc : Access) (engine seq : Bool) : List Target → State × List PageWait
  | [] => (s, [])
  | t :: ts =>
    match t with
    | .fault f =>
      if f.replayable then
        let r := raiseFault s f.stage2 v.cid f.page f.kind (accessBits acc engine seq)
        let rest := pageWaits r.1 v acc engine seq ts
        (rest.1, if rest.2.contains (.fault r.2) then rest.2 else .fault r.2 :: rest.2)
      else pageWaits s v acc engine seq ts
    | .hostMiss page =>
      let r := hostWait s v page acc
      let rest := pageWaits r.1 v acc engine seq ts
      (rest.1, if rest.2.contains r.2 then rest.2 else r.2 :: rest.2)
    | _ => pageWaits s v acc engine seq ts

/-- The first target with a fault that is not replayable (R216). -/
def hardOf (ts : List (Nat × Target)) : Option (Nat × XFault) :=
  ts.findSome? fun e => match e.2 with
    | .fault f => if f.replayable || f.kind == 0 then none else some (e.1, f)
    | _ => none

/-- Whether an access or its walk meets a frame that is being formatted, for which it waits (R219). -/
def formatting (s : State) : Target → Bool
  | .phys p _ => p.space == .device && frameBusy s p.addr
  | .fault f => f.kind == 0
  | _ => false

/-- Step 5 of R255 over the targets of an instruction: a context error, a blocking wait, or nothing. -/
def targetStop (s : State) (v : View) (acc : Access) (ts : List (Nat × Target)) : Option Stop :=
  match hardOf ts with
  | some (va, f) =>
    some (.ctxIn 19 f.kind va (noticeFault s v f))
  | none =>
    let r := pageWaits s v acc false false (ts.map (·.2))
    if r.2 ≠ [] then some (.block (.pages r.2) r.1)
    else if ts.any fun e => formatting s e.2 then some (.block .ready s)
    else none

/-- The translations that an instruction used are cached (R214). -/
def cacheTargets (s : State) (v : View) : List Target → State
  | [] => s
  | .phys _ e :: ts => cacheTargets (cacheTlb s v e) v ts
  | _ :: ts => cacheTargets s v ts

/-- Lines that the poison check found in error are poisoned and reported (R283, R284). -/
def discoverAll (s : State) (cid : Cid) (ts : List (Nat × Target)) : State :=
  ts.foldl (fun s e => match e.2 with
    | .phys p _ => discover s p cid
    | _ => s) s

/-- The lowest lane whose target line is poisoned (R257): the trap that it gives. -/
def poisonStop (s : State) (cid : Cid) (ts : List (Nat × Target)) : Option Stop :=
  ts.findSome? fun e => match e.2 with
    | .phys p _ => if p.space != .host && p.space != .window && isPoisoned s p then
        some (.trapIn 9 (BitVec.ofNat 32 (e.1 / 128 * 128)) (discoverAll s cid ts)) else none
    | _ => none

/-- Whether an aperture store of a lane still awaits its acknowledgement (R252). -/
def putsOpen (s : State) (uid strand : Nat) : Bool :=
  s.requests.any fun r => r.uid == uid && r.strand == strand && (r.op == 3 || r.op == 7) && r.answer.isNone

/-- The ordering that an access carries: whether it acquires, releases, and at which scope. -/
structure Order where
  acq : Bool
  rel : Bool
  scope : Nat
  hint : Nat
  deriving DecidableEq, Repr

/-- The ordering of the issuing instruction's prefix (R72). -/
def Iss.order (q : Iss) : Order :=
  let rm := q.rm.toNat
  { acq := rm == 1 || rm == 3, rel := rm == 2 || rm == 3, scope := q.mod.toNat, hint := rm }

/-- An access that carries no ordering (R240). -/
def Order.plain : Order := { acq := false, rel := false, scope := 0, hint := 0 }

/-- Whether a target is on a strongly ordered page (R240). -/
def Target.so : Target → Bool
  | .phys _ e => e.ord == 1
  | _ => false

/-- Whether a target is on an unordered page (R242). -/
def Target.uo : Target → Bool
  | .phys _ e => e.ord == 2
  | _ => false

/-- The chip's part of a release before an access of a lane, at system scope for a write of a strongly ordered page (R236,
R241). -/
def beforeAccess (s : State) (q : Iss) (o : Order) (t : Target) (writes : Bool) : State :=
  if writes && t.so then releaseLane s q.m.uid q.t.index q.act false 6
  else if o.rel then releaseAt s q.m.uid q.t.index q.act false o.scope
  else s

/-- The chip's part of an acquire after an access, at system scope for a read of a strongly ordered page (R236, R241). -/
def afterAccess (s : State) (q : Iss) (o : Order) (t : Target) (reads : Bool) : State :=
  if reads && t.so then acquireAt s q.m q.t.index false 6
  else if o.acq then acquireAt s q.m q.t.index false o.scope
  else s

/-! ## Loading, storing, combining -/

/-- The scratchpad of a motif as the state holds it now. -/
def scratchOf (s : State) (uid : Nat) : Memory := ((motifOf s uid).map (·.scratch)).getD []

/-- The state with bytes written to a motif's scratchpad (R196). -/
def putScratch (s : State) (uid off : Nat) (bytes : List Byte) : State :=
  updMotif s uid fun m => { m with scratch := writeBytes m.scratch off bytes }

/-- Whether an access goes to its point of performance and leaves no copy: strongly ordered pages, the coherent window,
the pod-shared region (R202, R228). -/
def direct (p : PAddr) (e : TlbEntry) : Bool := e.ord == 1 || e.pod || p.space == .window

/-- The issuing lanes as a user of a host line. -/
def Iss.user (q : Iss) (va : Nat) : HostUser := { vd := cidVd q.m.cid, cid := q.m.cid, pasid := q.m.desc.pasid, va := va }

/-- The line that a load of a lane finds at its point of performance, and the state it leaves there: a strongly ordered
access of a host page reads host memory (R204, R228). -/
def homeLine (s : State) (q : Iss) (va : Nat) (p : PAddr) (e : TlbEntry) : State × List Byte :=
  if p.space = .host ∧ e.ord ≠ 1 then
    (hostFill s (q.user va) p, pointLine s (vdevOf s (cidVd q.m.cid)).port p)
  else
    let s1 := hostDirect s (cidVd q.m.cid) p
    (s1, readLine s1 p)

/-- The bytes that a load of a lane returns and the state it leaves: its line may be served by L1 and may fill it (R202,
R228, R233, R237). -/
def loadAt (s : State) (q : Iss) (o : Order) (va : Nat) (t : Target) (n : Nat) : State × List Byte :=
  match t with
  | .scratch off => (s, readBytes (scratchOf s q.m.uid) off n)
  | .phys p e =>
    let r := homeLine (settleLine s q.m.uid q.t.index p) q va p e
    let cut := fun (l : List Byte) => (l.drop (p.addr % 128)).take n
    if !r.1.weak then (r.1, cut r.2)
    else if direct p e || o.hint == 5 || o.acq || !l1Allowed r.1 (cidVd q.m.cid) p then (l1Drop r.1 q.m q.t.index p, cut r.2)
    else
      match l1Hit r.1 q.m q.t.index p (e.ord == 2) with
      | some l => (r.1, cut l.bytes)
      | none => (l1Fill r.1 q.m q.t.index p (e.ord == 2) r.2, cut r.2)
  | _ => (s, List.replicate n 0)

/-- Whether a release has to be performed before later accesses: one wider than its motif (R229, R236). -/
def Order.forced (o : Order) : Bool := o.rel && decide (1 < o.scope)

/-- The pieces in which a store is performed: a 16-byte store to a host page is two halves (R230). -/
def storeHalves (p : PAddr) (va : Nat) (bytes : List Byte) : List (PAddr × Nat × List Byte) :=
  if p.space = .host ∧ bytes.length = 16 then
    [(p, va, bytes.take 8), ({ p with addr := p.addr + 8 }, va + 8, bytes.drop 8)]
  else [(p, va, bytes)]

/-- A store of an instruction: performed at once, or left pending on a page that is not strongly ordered. It belongs to
the lanes given (R226, R228, R237, R243, R256). -/
def storeAt (s : State) (q : Iss) (o : Order) (lanes : LaneMask) (va : Nat) (t : Target) (bytes : List Byte) : State :=
  match t with
  | .scratch off => putScratch s q.m.uid off bytes
  | .phys p e =>
    let epoch := (jobOf s q.m.cid).epoch
    let s0 := if o.hint = 5 ∧ !direct p e then l1Drop s q.m q.t.index p else s
    if s0.weak && !direct p e && !o.forced then
      { s0 with pendStores := s0.pendStores ++ (storeHalves p va bytes).map fun h =>
          { uid := q.m.uid, strand := q.t.index, lanes := lanes, shared := false, move := none, target := h.1, va := h.2.1
            bytes := h.2.2, comp := e.comp, snap := e.snap, host := if e.host then some (q.m.cid, q.m.desc.pasid) else none
            uo := e.ord == 2, issued := s0.clock, epoch := epoch, cid := q.m.cid } }
    else
      l1Wrote (performWrite (settleLine s0 q.m.uid q.t.index p) (whoOf q.m q.t.index) p (e.ord == 1) e.comp e.snap va
        epoch bytes) q.m q.t.index p bytes
  | _ => s

/-- An atomic of a lane at its point of performance: the old bytes, and the state with the new ones (R265); on a strongly
ordered host page that is host memory (R228; log entry 71). -/
def combineAt (s : State) (q : Iss) (va : Nat) (t : Target) (n : Nat) (f : Nat → Nat) : State × Nat :=
  match t with
  | .scratch off =>
    let old := leNat (readBytes (scratchOf s q.m.uid) off n)
    (putScratch s q.m.uid off (leBytes n (f old)), old)
  | .phys p e =>
    let r := homeLine (settleLine s q.m.uid q.t.index p) q va p e
    let old := leNat ((r.2.drop (p.addr % 128)).take n)
    let bytes := leBytes n (f old)
    let s1 := performWrite r.1 (whoOf q.m q.t.index) p (e.ord == 1) e.comp e.snap va (jobOf s q.m.cid).epoch bytes
    (l1Wrote s1 q.m q.t.index p bytes, old)
  | _ => (s, 0)

/-! ## The aperture -/

/-- Who asks another chip: a slot at an instruction, an engine command, or the sequencer at a word. -/
structure Asker where
  cid : Cid
  uid : Nat
  strand : Nat
  pc : Dword
  lanes : LaneMask
  deriving DecidableEq, Repr

/-- The slot at its instruction. -/
def Iss.asker (q : Iss) : Asker := { cid := q.m.cid, uid := q.m.uid, strand := q.t.index, pc := q.pc, lanes := q.act }

/-- An engine command of a motif: its counter and number stand for the strand and the place. -/
def cmdAsker (m : Motif) (tl number : Nat) : Asker :=
  { cid := m.cid, uid := m.uid, strand := 1000 + tl, pc := BitVec.ofNat 64 number, lanes := 0 }

/-- The cluster as the maker of a sticky write to an address (R294). -/
def stickyAsker (cid : Cid) (va : Nat) : Asker := { cid := cid, uid := 0, strand := 5000, pc := BitVec.ofNat 64 va, lanes := 0 }

/-- The sequencer of a motif at a word of its stream, or its engines. -/
def seqAsker (m : Motif) (off : Nat) : Asker :=
  { cid := m.cid, uid := m.uid, strand := 2000, pc := BitVec.ofNat 64 off, lanes := 0 }

/-- Whether a request is of an asker. -/
def Asker.owns (k : Asker) (r : Request) : Bool := r.uid == k.uid && r.strand == k.strand && r.slotPc == k.pc

/-- The request that an asker has outstanding or answered, by index and operation (R412). -/
def requestBy (s : State) (k : Asker) (index op : Nat) : Option Request :=
  s.requests.find? fun r => k.owns r && r.index == index && r.op == op

/-- The transport tag of a whole line that leaves for another chip: poison, or the form that its home would store, when
the link's far end takes forms (R273, R277). -/
def transportTag (s : State) (cid : Cid) (chip : Nat) (line : List Byte) : BitVec 4 :=
  let e := tget 0 (vdevOf s (cidVd cid)).route chip
  encodeTag line ((linkOf s (routeLink s e)).stored && featureOn s (cidVd cid) 11)

/-- A request sent to another chip: queued on its link and remembered; without a valid route it is answered at once
with status 3 (R412, R414). An n of 0 asks for a whole line; an aop with bit 7 for an operation on a whole line that
carries none (log entry 73). -/
def sendBy (s : State) (k : Asker) (index chip off op n : Nat) (aop : BitVec 8) (payload : List Byte) : State :=
  let epoch := (jobOf s k.cid).epoch
  let rtag := s.nextRtag
  let vc := if op = 1 ∨ op = 5 then 0 else 2
  let tag := if n = 0 ∧ payload ≠ [] then transportTag s k.cid chip payload else 0
  let p := { newPacket s k.cid chip vc op epoch with
    nlines := if aop.getLsbD 7 then 0 else 1, size := if n = 0 then 0 else sizeCode n, addr := BitVec.ofNat 64 off
    rtag := BitVec.ofNat 32 rtag, aop := aop, tags := tag.setWidth 32
    payload := flitPad (if n = 0 ∧ payload ≠ [] then storedForm payload tag.toNat else payload)
    checks := if n = 0 ∧ payload ≠ [] then [crc32c payload] else [] }
  let e := tget 0 (vdevOf s (cidVd k.cid)).route chip
  let req : Request :=
    { rtag := rtag, op := op, cid := k.cid, uid := k.uid, strand := k.strand, lanes := k.lanes, slotPc := k.pc
      index := index, again := false, link := routeLink s e, answer := none, sent := s.clock }
  let s1 := { s with nextRtag := (rtag + 1) % 2 ^ 32 }
  match routePacket s1 p with
  | some s2 => { s2 with requests := s2.requests ++ [req] }
  | none => { s1 with requests := s1.requests ++ [{ req with answer := some (3, []) }] }

/-- A line sent to its home at another chip as poisoned data, without a request that awaits its answer (R284, R285; log
entry 74). -/
def sendPoison (s : State) (cid : Cid) (chip off : Nat) : State :=
  let p := { newPacket s cid chip 2 3 (jobOf s cid).epoch with
    nlines := 1, addr := BitVec.ofNat 64 (off / 128 * 128), rtag := BitVec.ofNat 32 s.nextRtag, tags := 15, checks := [0] }
  let s1 := { s with nextRtag := (s.nextRtag + 1) % 2 ^ 32 }
  (routePacket s1 p).getD s1

/-- The request that a lane of the slot has outstanding or answered, of an operation (R412). -/
def requestOf (s : State) (q : Iss) (lane op : Nat) : Option Request := requestBy s q.asker lane op

/-- A lane's request. -/
def sendRequest (s : State) (q : Iss) (lane chip off op n : Nat) (aop : BitVec 8) (payload : List Byte) : State :=
  sendBy s q.asker lane chip off op n aop payload

/-- The answered requests of an asker forgotten. -/
def forgetBy (s : State) (k : Asker) (op : Nat) : State :=
  { s with requests := s.requests.filter fun r => !(k.owns r && r.op == op && r.answer.isSome) }

/-- The lanes whose target is another chip. -/
def podLanes (ts : List (LaneAcc × Target)) : List (LaneAcc × Nat × Nat) :=
  ts.filterMap fun e => match e.2 with
    | .pod chip off => some (e.1, chip, off)
    | _ => none

/-- The answers of the slot's requests of an operation forgotten. -/
def forget (s : State) (q : Iss) (op : Nat) (lanes : List Nat) : State :=
  { s with requests := s.requests.filter fun r =>
      !(r.uid == q.m.uid && r.strand == q.t.index && r.slotPc == q.pc && r.op == op && lanes.contains r.index) }

/-- A line converted at its home as CCONV asks: `fn` 1 packs, 2 unpacks, 3 clears, which also removes an error that stands
in it; lines never compressed stay as they are (R270, R273, R283, R286, R288). -/
def convertLine (s : State) (cid : Cid) (fn va : Nat) (a : PAddr) (t : TlbEntry) : State :=
  if a.space = .host ∨ a.space = .window then s
  else if fn = 3 then
    let s1 := setLineTag (dropLatent s a) a (if isPoisoned s a then 0 else lineTag s a)
    (homeWrite s1 cid (jobOf s1 cid).epoch a.line t.comp t.snap (va / 128 * 128) (List.replicate 128 0)).1
  else
    let s1 := discover s a cid
    if isPoisoned s1 a then s1
    else if fn = 2 then setLineTag s1 a 0
    else if t.comp then setLineTag s1 a (encodeTag (readLine s1 a) (featureOn s1 (cidVd cid) 11))
    else s1

/-- The requests of an operation that lanes still have to make, made; the slot then waits (R200, R412). -/
def askPods (s : State) (q : Iss) (op n : Nat) (payload : LaneAcc → List Byte) (aop : BitVec 8)
    (ls : List (LaneAcc × Nat × Nat)) : State :=
  (ls.filter fun e => (requestOf s q e.1.lane op).isNone).foldl
    (fun s e => sendRequest s q e.1.lane e.2.1 e.2.2 op n aop (payload e.1)) s

/-- The answers to lanes' requests of an operation, by lane: status and bytes. None while one is missing. -/
def podAnswers (s : State) (q : Iss) (op : Nat) (ls : List (LaneAcc × Nat × Nat)) : Option (List (Nat × Nat × List Byte)) :=
  ls.mapM fun e => ((requestOf s q e.1.lane op).bind (·.answer)).map fun a => (e.1.lane, a)

/-- Answers awaited by a slot: those of every lane, with the requests forgotten, or the wait for them (R200, R412). -/
def awaitPods (s : State) (q : Iss) (op n : Nat) (payload : LaneAcc → List Byte) (aop : BitVec 8)
    (ls : List (LaneAcc × Nat × Nat)) : Except Stop (State × List (Nat × Nat × List Byte)) :=
  if ls.isEmpty then .ok (s, [])
  else
    match podAnswers s q op ls with
    | none => .error (.block .aperture (askPods s q op n payload aop ls))
    | some as => .ok (forget s q op (ls.map fun e => e.1.lane), as)

/-- The answer of a lane among those of other chips. -/
def answerOf (as : List (Nat × Nat × List Byte)) (lane : Nat) : Option (Nat × List Byte) :=
  (as.find? fun a => a.1 == lane).map (·.2)

/-- The targets with what other chips answered: a refusal is the lane's aperture fault (R201, R216). -/
def judged (ts : List (LaneAcc × Target)) (as : List (Nat × Nat × List Byte)) : List (LaneAcc × Target) :=
  ts.map fun e => match e.2, answerOf as e.1.lane with
    | .pod _ _, some (st, _) => if st = 1 ∨ st = 3 then (e.1, hardFault 11 e.1.loc.addr) else e
    | _, _ => e

/-! ## The three kinds of memory instruction -/

/-- Targets with the addresses that traps name. -/
def withAddr (ts : List (LaneAcc × Target)) : List (Nat × Target) := ts.map fun e => (e.1.loc.addr, e.2)

/-- What the walk of a target leaves for the walks of later lanes: the entries that rule 64 KiB pages (R211). -/
def noteTarget (v : View) (s : State) : Target → State
  | .phys _ e => noteFirsts s v.die e.cid v.desc e.pod e.via
  | _ => s

/-- The state in which the accesses of one instruction are translated: of a 64 KiB page whose entries are not alike, the
entry that the lowest lane's walk reads rules (R211). -/
def ruledBy (s : State) (v : View) (as : List LaneAcc) (n : Nat) (acc : Access) : State :=
  as.foldl (fun t a => noteTarget v t (locTarget t v a n acc)) s

/-- Where an access of an instruction reaches, among all accesses of the instruction (R211, R216). -/
def laneTarget (s : State) (q : Iss) (as : List LaneAcc) (n : Nat) (acc : Access) (a : LaneAcc) : Target :=
  locTarget (ruledBy s q.view as n acc) q.view a n acc

/-- The targets of an instruction's aligned accesses (R255). -/
def locTargets (s : State) (q : Iss) (as : List LaneAcc) (n : Nat) (acc : Access) :
    Except Stop (List (LaneAcc × Target)) :=
  match misaligned as n with
  | some e => .error e
  | none => .ok (as.map fun a => (a, laneTarget s q as n acc a))

/-- Step 5 of R255 over targets, with the answers of other chips where the instruction awaits them: the targets, or the
stop (R216). -/
def judgeTargets (s : State) (q : Iss) (acc : Access) (ts : List (LaneAcc × Target)) : Except Stop Unit :=
  match targetStop s q.view acc (withAddr ts) with
  | some e => .error e
  | none => .ok ()

/-- Step 5 of R255 for an instruction that awaits no other chip: the targets, or the stop. -/
def targetsOf (s : State) (q : Iss) (as : List LaneAcc) (n : Nat) (acc : Access) :
    Except Stop (List (LaneAcc × Target)) := do
  let ts ← locTargets s q as n acc
  judgeTargets s q acc ts
  .ok ts

/-- The lowest lane whose line is poisoned, here or by another chip's answer: the trap that it gives (R257). -/
def poisonAll (s : State) (q : Iss) (ts : List (LaneAcc × Target)) (as : List (Nat × Nat × List Byte)) : Option Stop :=
  let hit := ts.find? fun e => match e.2 with
    | .phys p _ => p.space != .host && p.space != .window && isPoisoned s p
    | .pod _ _ => match answerOf as e.1.lane with
      | some (st, _) => st != 0
      | none => false
    | _ => false
  hit.map fun e => .trapIn 9 (BitVec.ofNat 32 (e.1.reached q.view / 128 * 128)) (discoverAll s q.m.cid (withAddr ts))

/-- The 32-byte scratchpad accesses of an instruction: the blocks that its lanes touch (R395, log entry 25). -/
def scratchBlocks (ts : List (LaneAcc × Target)) (n : Nat) : List Nat :=
  (ts.flatMap fun e => match e.2 with
    | .scratch off => (List.range ((off + n - 1) / 32 - off / 32 + 1)).map (off / 32 + ·)
    | _ => []).eraseDups

/-- The scratchpad accesses of an instruction charged to its device (R395). -/
def chargeScratch (s : State) (cid : Cid) (ts : List (LaneAcc × Target)) (n : Nat) : State :=
  match scratchBlocks ts n with
  | [] => s
  | bs => charge s (cidVd cid) 10 bs.length

/-- The local lanes of a load, in lane order. -/
def loadLanes (s : State) (q : Iss) (o : Order) (n : Nat) : List (LaneAcc × Target) → State × List (Nat × List Byte)
  | [] => (s, [])
  | (a, t) :: rest =>
    match t with
    | .pod _ _ => loadLanes s q o n rest
    | _ =>
      let r := loadAt s q o (a.reached q.view) t n
      let more := loadLanes (afterAccess r.1 q o t true) q o n rest
      (more.1, (a.lane, r.2) :: more.2)

/-- The acquire that the answers of other chips carry (R234, R235). -/
def acquirePods (s : State) (q : Iss) (pods : List (LaneAcc × Nat × Nat)) : State :=
  if q.order.acq && !pods.isEmpty then acquireAt s q.m q.t.index false q.order.scope else s

/-- A load at targets judged before, with the answers of other chips (R255, R257, R259). -/
def loadFrom (s : State) (q : Iss) (ts : List (LaneAcc × Target)) (n : Nat) (as : List (Nat × Nat × List Byte)) :
    Except Stop (State × List (Nat × List Byte)) :=
  match poisonAll s q ts as with
  | some e => .error e
  | none =>
    let s1 := acquirePods (discoverAll s q.m.cid (withAddr ts)) q (podLanes ts)
    let l := loadLanes (cacheTargets (chargeScratch s1 q.m.cid ts n) q.view (ts.map (·.2))) q q.order n ts
    .ok (l.1, l.2 ++ as.map fun a => (a.1, a.2.2))

/-- The operation code of a read of host memory in the device's own table of outstanding requests; no packet has it. -/
def hostOp : Nat := 256

/-- Whether what a slot's load waits for has come from a HOST page (R137, R256). -/
def hostArrived (s : State) (k : Asker) : Bool := ((requestBy s k 0 hostOp).map fun r => r.answer.isSome).getD false

/-- A slot's read of a HOST page under way; it is answered as time passes (R137, R256). -/
def askHost (s : State) (k : Asker) : State :=
  match requestBy s k 0 hostOp with
  | some _ => s
  | none =>
    { s with
      nextRtag := (s.nextRtag + 1) % 2 ^ 32
      requests := s.requests ++
        [{ rtag := s.nextRtag, op := hostOp, cid := k.cid, uid := k.uid, strand := k.strand, lanes := k.lanes, slotPc := k.pc
           index := 0, again := false, link := 0, answer := none, sent := s.clock }] }

/-- A load from a HOST page is a blocking wait for its slot: the wait, or the state in which it is over (R137, R256). -/
def awaitHost (s : State) (q : Iss) (ts : List Target) : Except Stop State :=
  if !ts.any Target.isHost then .ok s
  else if hostArrived s q.asker then .ok (forgetBy s q.asker hostOp)
  else .error (.block .aperture (askHost s q.asker))

/-- A load of every access of an instruction (R216, R255 to R257, R259). -/
def loadAll (s : State) (q : Iss) (as : List LaneAcc) (n : Nat) : Except Stop (State × List (Nat × List Byte)) := do
  let ts ← locTargets s q as n .read
  let r ← awaitPods s q 1 n (fun _ => []) 0 (podLanes ts)
  judgeTargets r.1 q .read (judged ts r.2)
  let s1 ← awaitHost r.1 q (ts.map (·.2))
  loadFrom s1 q ts n r.2

/-- The lanes that an access belongs to: its own, or every active lane for a uniform form (R226). -/
def Iss.owners (q : Iss) (perLane : Bool) (lane : Nat) : LaneMask :=
  if perLane then BitVec.ofNat 96 (2 ^ lane) else q.act

/-- A store of every access of an instruction, in increasing lane number (R226, R255, R259). A release through pod or
system scope waits until the lane's earlier aperture stores are acknowledged (R252). -/
def storeLanes (s : State) (q : Iss) (o : Order) (perLane : Bool) (n : Nat) (data : Nat → List Byte) :
    List (LaneAcc × Target) → State
  | [] => s
  | (a, t) :: rest =>
    let s1 := beforeAccess s q o t true
    let s2 := match t with
      | .pod chip off => sendRequest s1 q a.lane chip off 3 n 0 (data a.lane)
      | _ => storeAt s1 q o (q.owners perLane a.lane) (a.reached q.view) t (data a.lane)
    storeLanes s2 q o perLane n data rest

/-- Whether an instruction's release has to wait for acknowledgements (R252). -/
def releaseHeld (s : State) (q : Iss) (ts : List (LaneAcc × Target)) : Bool :=
  ((q.order.rel && decide (5 ≤ q.order.scope)) || ts.any fun e => e.2.so) && putsOpen s q.m.uid q.t.index

/-- A store instruction after its alignment check (R255). -/
def storeAll (s : State) (q : Iss) (perLane : Bool) (as : List LaneAcc) (n : Nat) (data : Nat → List Byte) :
    Except Stop State := do
  let ts ← targetsOf s q as n .write
  if releaseHeld s q ts then .error (.block .ready s)
  else
    let o := q.order
    .ok (storeLanes (cacheTargets (chargeScratch s q.m.cid ts n) q.view (ts.map (·.2))) q o perLane n data ts)

/-- An arithmetic operation of an atomic on n bytes (R264); `.fadd` rounds to nearest, raises nothing. -/
def atomOp (fn n : Nat) (b c old : Nat) : Nat :=
  let w := 8 * n
  match fn with
  | 0 => (old + b) % 2 ^ w
  | 1 => let f := if n = 8 then f64 else f32
         (f.add .rn false 1 (f.unpack old) (f.unpack b)).bits
  | 2 => b
  | 3 => if old = c then b else old
  | 4 => if signed w old ≤ signed w b then old else b
  | 5 => if signed w old ≤ signed w b then b else old
  | 6 => old ||| b
  | _ => old &&& b

/-- The local lanes of an atomic, in lane order (R265). -/
def atomLanes (s : State) (q : Iss) (o : Order) (n : Nat) (f : Nat → Nat → Nat) :
    List (LaneAcc × Target) → State × List (Nat × Nat)
  | [] => (s, [])
  | (a, t) :: rest =>
    match t with
    | .pod _ _ => atomLanes s q o n f rest
    | _ =>
      let s0 := beforeAccess s q o t true
      let r := combineAt s0 q (a.reached q.view) t n (f a.lane)
      let more := atomLanes (afterAccess r.1 q o t true) q o n f rest
      (more.1, (a.lane, r.2) :: more.2)

/-- The atomic operation byte of a packet (R411). -/
def aopByte (fn n : Nat) : BitVec 8 := BitVec.ofNat 8 (fn + if n = 8 then 16 else 0)

/-- The mark of a put that merges part of a byte at its home: its payload is the byte and the mask of what stays (R262; log
entry 73). -/
def mergeMark : BitVec 8 := 0x40

/-- The mark of a read that only asks whether its target may be written and holds no poison (log entry 16). -/
def probeMark : BitVec 8 := 0x40

/-- An atomic with return (R216, R252, R255, R257, R265): when lanes reach another chip and there are several, those targets'
translation, for a write, and poison are asked for before any lane is performed (log entry 16). -/
def atomAll (s : State) (q : Iss) (as : List LaneAcc) (fn n : Nat) (b c : Nat → Nat) :
    Except Stop (State × List (Nat × Nat)) := do
  let ts ← locTargets s q as n .write
  let pods := podLanes ts
  let ops := fun (a : LaneAcc) => leBytes n (b a.lane) ++ leBytes n (c a.lane)
  let started := pods.any fun e => (requestOf s q e.1.lane 5).isSome
  if !started && releaseHeld s q ts then .error (.block .ready s)
  else
    let probe ← if as.length = 1 ∨ started then .ok (s, []) else awaitPods s q 1 n (fun _ => []) probeMark pods
    judgeTargets probe.1 q .write (judged ts probe.2)
    match if started then none else poisonAll probe.1 q ts probe.2 with
    | some e => .error e
    | none =>
      let s1 := if !started && q.order.rel && !pods.isEmpty then
          releaseAt probe.1 q.m.uid q.t.index q.act false q.order.scope
        else probe.1
      let r ← awaitPods s1 q 5 n ops (aopByte fn n) pods
      judgeTargets r.1 q .write ((judged ts r.2).filter fun e => (answerOf r.2 e.1.lane).isSome)
      match poisonAll r.1 q ts r.2 with
      | some e => .error e
      | none =>
        let s2 := acquirePods r.1 q pods
        let l := atomLanes (cacheTargets (chargeScratch s2 q.m.cid ts n) q.view (ts.map (·.2))) q q.order n
          (fun l old => atomOp fn n (b l) (c l) old) ts
        .ok (l.1, l.2 ++ r.2.map fun e => (e.1, leNat (e.2.2.take n)))

/-- The lanes of a RED, in lane order (R264): other chips receive it as a posted reduction. -/
def redLanes (s : State) (q : Iss) (o : Order) (fn n : Nat) (b : Nat → Nat) : List (LaneAcc × Target) → State
  | [] => s
  | (a, t) :: rest =>
    let s0 := beforeAccess s q o t true
    let s1 := match t with
      | .pod chip off => sendRequest s0 q a.lane chip off 7 n (aopByte fn n) (leBytes n (b a.lane))
      | _ => (combineAt s0 q (a.reached q.view) t n fun old => atomOp fn n (b a.lane) 0 old).1
    redLanes s1 q o fn n b rest

/-- RED over all lanes (R257, R264). -/
def redAll (s : State) (q : Iss) (as : List LaneAcc) (fn n : Nat) (b : Nat → Nat) : Except Stop State := do
  let ts ← targetsOf s q as n .write
  if releaseHeld s q ts then .error (.block .ready s)
  else .ok (redLanes (cacheTargets (chargeScratch s q.m.cid ts n) q.view (ts.map (·.2))) q q.order fn n b ts)

/-! ## Accesses of engines, the sequencer and the device itself -/

/-- Bytes that an engine or the sequencer reads at a target's point of performance; none at a poisoned line. -/
def agentRead (s : State) (m : Motif) (t : Target) (n : Nat) : Option (List Byte) :=
  match t with
  | .scratch off => some (readBytes (scratchOf s m.uid) off n)
  | .phys p e =>
    match p.space with
    | .window => some (readBytes s.window p.addr n)
    | .host =>
      let line := if e.ord = 1 then readLine (hostDirect s (cidVd m.cid) p) p else pointLine s (vdevOf s (cidVd m.cid)).port p
      some ((line.drop (p.addr % 128)).take n)
    | _ => if isPoisoned s p then none else some (readBytes (spaceMem s p.space) p.addr n)
  | _ => none

/-- The 32-byte blocks of the scratchpad that bytes at an offset touch. -/
def blocksIn (off n : Nat) : Nat := if n = 0 then 0 else (off + n - 1) / 32 - off / 32 + 1

/-- Scratchpad accesses of an engine or the sequencer charged to their device (R395, log entry 25). -/
def chargeBlocks (s : State) (cid : Cid) (n : Nat) : State := if n = 0 then s else charge s (cidVd cid) 10 n

/-- Bytes that an engine or the sequencer writes at a target's point of performance, in the epoch given (R435). -/
def agentWriteIn (s : State) (m : Motif) (epoch : Nat) (t : Target) (va : Nat) (bytes : List Byte) : State :=
  match t with
  | .scratch off => chargeBlocks (putScratch s m.uid off bytes) m.cid (blocksIn off bytes.length)
  | .phys p e => performWrite s (whoOf m 0xFF) p (e.ord == 1) e.comp e.snap va epoch bytes
  | _ => s

/-- The same in the epoch that the chip is in. -/
def agentWrite (s : State) (m : Motif) (t : Target) (va : Nat) (bytes : List Byte) : State :=
  agentWriteIn s m (jobOf s m.cid).epoch t va bytes

/-- The 1 MiB of the system region that a place index has (R199). -/
def systemBase (place : Nat) : Nat := 0x00FFFFFC00000000 + place * 2 ^ 20

/-- Where one byte of an engine or sequencer operand lies. -/
def agentTarget (s : State) (m : Motif) (va n : Nat) (acc : Access) : Target := resolve s (motifView m) none va n acc

end Sys2Proof.Machine
end

