-- ==== Sys2Proof/Machine/Control.lean ====
section
/-! DEFINITION. Control instructions: branches, calls, divergence and joins, exit, traps and the return from the handler
(R110 to R119, R132 to R136, R169 to R171). -/

namespace Sys2Proof.Machine

/-- The target of a J-format word (R64). -/
def targetJ (q : Iss) (w : FmtJ) : Dword := q.next + (w.off.signExtend 62 ++ (0 : BitVec 2))

/-- The target of an L-format word (R64). -/
def targetL (q : Iss) (w : FmtL) : Dword := q.next + (w.off.signExtend 62 ++ (0 : BitVec 2))

/-- Whether a target is word-aligned (R24). -/
def aligned4 (a : Dword) : Bool := a.extractLsb' 0 2 == 0

/-- The whole issuing slot goes to an address, ready (R110). -/
def goTo (q : Iss) (s : State) (pc : Dword) : State :=
  updStrand s q.m.uid q.t.index fun t => updSlot t q.slot fun x => { x with pc := pc, wait := .ready }

/-- A taken transfer of the whole slot, with the alignment trap of R24. -/
def jump (q : Iss) (s : State) (pc : Dword) : Except Stop State :=
  if aligned4 pc then .ok (goTo q s pc) else .error (alignTrap pc.toNat)

/-- The branch conditions of BRA on a signed value (R112). -/
def branchHolds (fn : BitVec 3) (v : Int) : Bool :=
  match fn.toNat with
  | 0 => true
  | 1 => v == 0
  | 2 => v != 0
  | 3 => decide (v < 0)
  | 4 => decide (0 ≤ v)
  | 5 => decide (0 < v)
  | _ => decide (v ≤ 0)

/-- The lane conditions of BDIV (R169). -/
def divHolds (fn : BitVec 3) (v : Int) : Bool :=
  match fn.toNat with
  | 0 => v != 0
  | 1 => v == 0
  | 2 => decide (v < 0)
  | 3 => decide (0 ≤ v)
  | 4 => decide (0 < v)
  | _ => decide (v ≤ 0)

/-- A signed 32-bit scalar or vector operand of a lane. -/
def Iss.int (q : Iss) (r : Reg) (lane : Nat) : Int := signed 32 (q.read r 1 lane)

/-- A 64-bit address operand of a lane. -/
def Iss.addr (q : Iss) (r : Reg) (lane : Nat) : Dword := BitVec.ofNat 64 (q.read r 2 lane)

/-- BRA (R112). -/
def execBra (p : Option Pfx) (w : FmtJ) (s : State) : Host.Outcome State Fault Refusal :=
  runControl (.bra p w) (fun q s =>
    if branchHolds w.fn (q.int w.a 0) then jump q s (targetJ q w) else .ok (goTo q s q.next)) s

/-- The issuing strand with scalar registers written; a write that empties the slot traps with the given field (R14). -/
def withScalars (q : Iss) (s : State) (r : Reg) (pos wd v : Nat) : Except Stop State :=
  match q.t.setScalars q.x.members (scalarNo r) (wordsOf wd v) with
  | some t => .ok (putStrand s q t)
  | none => .error (opTrap r pos)

/-- LOOP (R113). -/
def execLoop (p : Option Pfx) (w : FmtJ) (s : State) : Host.Outcome State Fault Refusal :=
  runControl (.loop p w) (fun q s => do
    let v := (q.read w.a 1 0 + (2 ^ 32 - 1)) % 2 ^ 32
    let s1 ← withScalars q s w.a 1 1 v
    if v ≠ 0 then jump q s1 (targetJ q w) else .ok (goTo q s1 q.next)) s

/-- CALL (R114). -/
def execCall (p : Option Pfx) (w : FmtL) (s : State) : Host.Outcome State Fault Refusal :=
  runControl (.call p w) (fun q s => do
    let s1 ← withScalars q s 122 0 2 q.next.toNat
    jump q s1 (targetL q w)) s

/-- CALLI: the target is read before the link pair is written, and checked before it (R114). -/
def execCalli (p : Option Pfx) (w : FmtA) (s : State) : Host.Outcome State Fault Refusal :=
  runControl (.calli p w) (fun q s =>
    let t := q.addr w.a 0
    if aligned4 t then do
      let s1 ← withScalars q s w.d 0 2 q.next.toNat
      jump q s1 t
    else .error (alignTrap t.toNat)) s

/-- RET (R114). -/
def execRet (p : Option Pfx) (w : FmtA) (s : State) : Host.Outcome State Fault Refusal :=
  runControl (.ret p w) (fun q s => jump q s (q.addr w.a 0)) s

/-- A new slot beside the issuing one: the other live slot, if there is one, is pushed on the divergence stack; a push
beyond its depth is a divergence overflow (R132, R134). -/
def splitOff (depth : Nat) (t : Strand) (slot : Nat) (pc : Dword) (members : LaneMask) : Option Strand :=
  match t.live[slot]? with
  | none => some t
  | some x =>
    let young : Slot := { pc := pc, members := members, wait := .ready, held := false }
    let others := (t.live.zipIdx.filter fun e => e.2 != slot).map (·.1)
    if others.isEmpty then some { t with live := [x, young] }
    else if depth ≤ t.stack.length then none
    else some { t with live := [x, young], stack := t.stack ++ others }

/-- BDIV: the active lanes split by the condition (R132, R169). -/
def execBdiv (p : Option Pfx) (w : FmtJ) (s : State) : Host.Outcome State Fault Refusal :=
  runControl (.bdiv p w) (fun q s =>
    let go := maskOf ((lanesOf q.act).filter fun l => divHolds w.fn (q.int w.a l))
    let target := targetJ q w
    if go = 0 then .ok (goTo q s q.next)
    else if !aligned4 target then .error (alignTrap target.toNat)
    else if go = q.act then .ok (goTo q s target)
    else
      let t1 := updSlot q.t q.slot fun x => { x with pc := q.next, members := x.members &&& ~~~go, wait := .ready }
      match splitOff q.m.header.divstack t1 q.slot target go with
      | some t2 => .ok (putStrand s q t2)
      | none => .error (.ctx 18 q.m.header.divstack 0)) s

/-- The distinct targets of lanes, in the order of the lowest lane that names each (R132). -/
def distinctTargets : List (Nat × Dword) → List Dword → List Dword
  | [], seen => seen
  | (_, a) :: rest, seen => distinctTargets rest (if seen.contains a then seen else seen ++ [a])

/-- The slots of the second target on, each the youngest in its turn (R170). -/
def splitTargets (depth : Nat) (slot : Nat) : List (Dword × LaneMask) → Strand → Option Strand
  | [], t => some t
  | (pc, m) :: rest, t =>
    match splitOff depth t slot pc m with
    | some t1 => splitTargets depth 0 rest t1
    | none => none

/-- JMPI: the uniform jump through a scalar pair, or the per-lane one through a vector pair (R114, R170). -/
def execJmpi (p : Option Pfx) (w : FmtA) (s : State) : Host.Outcome State Fault Refusal :=
  runControl (.jmpi p w) (fun q s =>
    if w.a.isScalar then jump q s (q.addr w.a 0)
    else
      let ls := (lanesOf q.act).map fun l => (l, q.addr w.a l)
      match ls.find? fun e => !aligned4 e.2 with
      | some e => .error (alignTrap e.2.toNat)
      | none =>
        let naming := fun (a : Dword) => maskOf ((ls.filter fun e => e.2 == a).map (·.1))
        match distinctTargets ls [] with
        | [] => .ok (goTo q s q.next)
        | t1 :: more =>
          let first := updSlot q.t q.slot fun x =>
            { x with pc := t1, members := naming t1 ||| (x.members &&& ~~~q.act), wait := .ready }
          match splitTargets q.m.header.divstack q.slot (more.map fun a => (a, naming a)) first with
          | some t => .ok (putStrand s q t)
          | none => .error (.ctx 18 q.m.header.divstack 0)) s

/-- JOIN: the slot waits at its join word, the last of the instruction, and the set merges once it covers the triple
(R136, R171). -/
def execJoin (p : Option Pfx) (w : FmtA) (s : State) : Host.Outcome State Fault Refusal :=
  runControl (.join p w) (fun q s =>
    let n := scalarNo w.a
    let triple := q.t.triple n
    let size := (Instr.join p w).size
    let t1 := updSlot q.t q.slot fun x => { x with wait := .join n triple size }
    let word := q.next - 4
    .ok (putStrand s q (if joinCovered t1 word triple then mergeLive t1 word q.slot else t1))) s

/-- What follows when a strand's last lane has ended: it leaves its quadrant's order list, and the barriers of its motif
are checked again (R142, R173, R191). -/
def afterEnding (s : State) (uid j : Nat) : State :=
  match (motifOf s uid).bind fun m => (strandOf m j).map fun t => (m, t) with
  | none => s
  | some (m, t) =>
    if t.over then
      let s1 := updMotif s uid checkBarriers
      updCluster s1 m.die m.cluster fun c => { c with order := c.order.filter fun e => e != (uid, j) }
    else s

/-- EXIT: the active lanes end, and so do the slot's members when none of them is left active (R115). -/
def execExit (p : Option Pfx) (w : FmtA) (s : State) : Host.Outcome State Fault Refusal :=
  runControl (.exit p w) (fun q s =>
    let left := q.x.members &&& ~~~q.act
    let gone := if left &&& q.t.mask = 0 then q.x.members else q.act
    let t1 := updSlot q.t q.slot fun x => { x with pc := q.next, wait := .ready }
    .ok (afterEnding (putStrand s q (endLanes t1 gone)) q.m.uid q.t.index)) s

/-- YIELD: the strand goes to the back of its quadrant's order list (R116, R191). -/
def execYield (p : Option Pfx) (w : FmtA) (s : State) : Host.Outcome State Fault Refusal :=
  runStrand (.yield p w) (fun q s =>
    let me := (q.m.uid, q.t.index)
    .ok (updCluster s q.m.die q.m.cluster fun c =>
      if c.order.contains me then { c with order := c.order.filter (fun e => e != me) ++ [me] } else c)) s

/-- NOP (R116). -/
def execNop (p : Option Pfx) (w : FmtA) (s : State) : Host.Outcome State Fault Refusal :=
  runStrand (.nop p w) (fun _ s => .ok s) s

/-- GETPC (R117). -/
def execGetpc (p : Option Pfx) (w : FmtB) (s : State) : Host.Outcome State Fault Refusal :=
  let i := Instr.getpc p w
  runReg i (fun q => laneMap q i w.d 2 fun _ => (q.next + (w.imm.signExtend 62 ++ (0 : BitVec 2))).toNat) s

/-- TRAP (R118). -/
def execTrap (p : Option Pfx) (w : FmtU) (s : State) : Host.Outcome State Fault Refusal :=
  runStrand (.trap p w) (fun _ _ => .error (.trap 5 (w.imm.setWidth 32))) s

/-- SVC (R118). -/
def execSvc (p : Option Pfx) (w : FmtU) (s : State) : Host.Outcome State Fault Refusal :=
  runStrand (.svc p w) (fun _ _ => .error (.trap 6 (w.imm.setWidth 32))) s

/-- BRK: the handler, or a halt for the debugger when the context's descriptor intercepts it (R118, R367, R373). The
slice counter of the cluster freezes with the halt (R399). -/
def execBrk (p : Option Pfx) (w : FmtU) (s : State) : Host.Outcome State Fault Refusal :=
  runStrand (.brk p w) (fun q s =>
    if q.m.desc.intercept && !q.t.handler then
      .ok (updCluster (updStrand s q.m.uid q.t.index fun t => { t with halted := true }) q.m.die q.m.cluster
        fun c => { c with frozen := true })
    else .error (.trap 8 (w.imm.setWidth 32))) s

/-- RFT: in user mode the illegal-instruction trap; a misaligned trappc is a double trap (R29, R33, R119, R364). -/
def execRft (p : Option Pfx) (w : FmtA) (s : State) : Host.Outcome State Fault Refusal :=
  runControl (.rft p w) (fun q s =>
    if !q.t.handler then .error (.trap 1 (Instr.rft p w).mainWord)
    else if !aligned4 q.t.trappc then .error (alignTrap q.t.trappc.toNat)
    else .ok (putStrand s q (updSlot (leaveHandler q.t q.slot) q.slot fun x => { x with wait := .ready }))) s

end Sys2Proof.Machine
end

