-- ==== Sys2Proof/Machine/System.lean ====
section
/-! DEFINITION. The window base, the special registers, and waiting for events (R18, R19, R120 to R124). -/

namespace Sys2Proof.Machine

/-- WINDOW (R19, R466). -/
def execWindow (p : Option Pfx) (w : FmtB) (s : State) : Host.Outcome State Fault Refusal :=
  runStrand (.window p w) (fun q s =>
    let t : Int := (q.read w.a 1 0 : Nat) + w.imm.toInt
    if t % 4 ≠ 0 ∨ t < 0 ∨ (q.m.header.allot : Int) ≤ t then .error (opTrap w.a 1)
    else .ok (putStrand s q { q.t with wb := t.toNat })) s

/-- The arithmetic-clock reading of a device: the cycles plus the migration offset, never below a saved one (R123, R401). -/
def clockOf (s : State) (vd : Nat) : Nat :=
  let v := vdevOf s vd
  max v.savedClock ((s.clock : Int) + v.clockOff).toNat

/-- The wallclock reading of a device (R123, R401). -/
def wallOf (s : State) (vd : Nat) : Nat :=
  let v := vdevOf s vd
  max v.savedWall ((wallNow s : Int) + v.wallOff).toNat

/-- The state code of a colour's last cut (R457). -/
def colourState (c : Option Cut) : Nat :=
  match c with
  | some c => c.state
  | none => 0

/-- cutstate (R458). -/
def cutstateOf (s : State) (cid : Cid) : Nat :=
  let j := jobOf s cid
  let coord := match cutBlockOf s cid with
    | some b => if b.coord = ownChip s (cidVd cid) then 256 else 0
    | none => 0
  colourState (j.colours.getD 0 none) + 16 * colourState (j.colours.getD 1 none) + coord

/-- bucketstat (R391). -/
def bucketstatOf (v : VDev) : Nat :=
  v.lent.toNat + v.empty.toNat * 2 ^ 8 + v.hold.toNat * 2 ^ 16 + v.degraded.toNat * 2 ^ 17

/-- The content of a special register for a lane (R29, R123). The energy register of a device without an energy rate reads
the bucket that was left (log entry 78). -/
def specialRead (s : State) (q : Iss) (n lane : Nat) : Nat :=
  let vd := cidVd q.m.cid
  let v := vdevOf s vd
  let t := q.t
  match n with
  | 0x00 => lane
  | 0x01 => t.index
  | 0x02 => q.m.header.strands
  | 0x03 => q.m.motifid.toNat
  | 0x04 => q.m.vcluster
  | 0x05 => q.m.vdie
  | 0x06 => ownChip s vd
  | 0x07 => if v.share.mode then vd else v.share.pvdid
  | 0x08 => t.index % 4
  | 0x09 => q.m.stage
  | 0x10 => q.m.image.toNat
  | 0x20 => clockOf s vd
  | 0x21 => wallOf s vd
  | 0x30 => t.frm.toNat
  | 0x31 => t.fflags.toNat
  | 0x32 => t.fexc.toNat
  | 0x33 => t.srseed.toNat
  | 0x40 => if t.handler then t.trappc.toNat else 0
  | 0x41 => if t.handler then t.trapcause.toNat else 0
  | 0x42 => if t.handler then t.trapval.toNat else 0
  | 0x50 => (jobOf s q.m.cid).latest
  | 0x51 => cutstateOf s q.m.cid
  | 0x60 => wrapN 64 (v.bucket / 1000000000)
  | 0x61 => bucketstatOf v
  | 0x80 => t.evpend.toNat
  | 0x81 => t.evtimer.toNat
  | _ => (v.accepted.extractLsb' (32 * (n - 0x70)) 32).toNat

/-- MOVS (R122): a scalar destination of a per-lane register receives the lowest active lane's. -/
def execMovs (p : Option Pfx) (w : FmtU) (s : State) : Host.Outcome State Fault Refusal :=
  let i := Instr.movs p w
  runStrand i (fun q s =>
    regBody i (fun q => .ok
      { dst := w.d, width := specialW w.imm.toNat
        vals := if perLaneReg w.d then (lanesOf q.act).map fun l => (l, specialRead s q w.imm.toNat l)
                else [(0, specialRead s q w.imm.toNat ((lowest q.act).getD 0))] }) q s) s

/-- The strand with a special register written; none when the value or the mode does not allow it (R7, R29, R42, R47,
R120, R123). -/
def specialWrite (s : State) (vd : Nat) (t : Strand) (n v : Nat) : Option Strand :=
  match n with
  | 0x30 =>
    let m := v % 8
    if 6 ≤ m ∨ (m = 5 ∧ !featureOn s vd 5) then none else some { t with frm := BitVec.ofNat 32 m }
  | 0x31 => some { t with fflags := BitVec.ofNat 32 (v % 32) }
  | 0x32 => some { t with fexc := BitVec.ofNat 32 (v % 32) }
  | 0x33 => some (t.seed (BitVec.ofNat 32 v))
  | 0x40 => if t.handler then some { t with trappc := BitVec.ofNat 64 v } else none
  | 0x41 => if t.handler then some { t with trapcause := BitVec.ofNat 32 v } else none
  | 0x42 => if t.handler then some { t with trapval := BitVec.ofNat 32 v } else none
  | 0x81 =>
    if v ≤ wallOf s vd then
      some (wakeSlots (fun w => w == .event) { t with evtimer := BitVec.ofNat 64 v, armed := false, evpend := t.evpend ||| 1 })
    else some { t with evtimer := BitVec.ofNat 64 v, armed := true }
  | _ => none

/-- MOVSW (R122, R124). -/
def execMovsw (p : Option Pfx) (w : FmtU) (s : State) : Host.Outcome State Fault Refusal :=
  runStrand (.movsw p w) (fun q s =>
    let n := w.imm.toNat
    match specialWrite s (cidVd q.m.cid) q.t n (q.read w.d (specialW n) 0) with
    | some t => .ok (putStrand s q t)
    | none => .error (opTrap w.d 0)) s

/-- EVWAIT (R121). -/
def execEvwait (p : Option Pfx) (w : FmtA) (s : State) : Host.Outcome State Fault Refusal :=
  runStrand (.evwait p w) (fun q s =>
    let msk := BitVec.ofNat 32 (q.read w.a 1 0 % 32)
    let hit := q.t.evpend &&& msk
    if hit ≠ 0 ∨ w.fn = 1 ∨ msk = 0 then
      match { q.t with evpend := q.t.evpend &&& ~~~hit }.setScalars q.x.members (scalarNo w.d) [hit] with
      | some t => .ok (putStrand s q t)
      | none => .error (opTrap w.d 0)
    else .error (.block .event s)) s

end Sys2Proof.Machine
end

