-- ==== Sys2Proof/Machine/Memory.lean ====
section
/-! DEFINITION. Memory instructions: loads and stores, the parameter block, atomics, FENCE, host-line moves, the
prefetch hint, PRIVADDR and CCONV (R254 to R269, R287, R288). -/

namespace Sys2Proof.Machine

/-- The bytes of an access width (R25). -/
def widthBytes (w : BitVec 3) : Nat :=
  match w.toNat with
  | 0 => 1
  | 1 => 2
  | 2 => 4
  | 3 => 8
  | 4 => 16
  | 5 => 1
  | _ => 2

/-- A loaded value as its registers hold it: zero-extended, or sign-extended for .i8 and .i16 (R25). -/
def extendLoad (w : BitVec 3) (bytes : List Byte) : Nat :=
  let v := leNat bytes
  if w = 5 then wrapN 32 (signed 8 v) else if w = 6 then wrapN 32 (signed 16 v) else v

/-- The lanes that make an access of their own: every active lane, or the lowest one for a uniform form (R226). -/
def Iss.accLanes (q : Iss) (perLane : Bool) : List Nat :=
  if perLane then lanesOf q.act else ((lowest q.act).map fun l => [l]).getD []

/-- A displaced generic address (R258). -/
def genericLoc (q : Iss) (w : FmtM) (l : Nat) : Loc :=
  .generic (wrapN 64 ((q.read w.a 2 l : Int) + w.off.toInt * widthBytes w.w))

/-- An offset with its displacement, exactly (R258). -/
def offsetOf (q : Iss) (w : FmtM) (l : Nat) : Int := (q.read w.a 1 l : Int) + w.off.toInt * widthBytes w.w

/-- The issuing strand as the state holds it now. -/
def strandNow (s : State) (q : Iss) : Strand := ((motifOf s q.m.uid).bind fun m => strandOf m q.t.index).getD q.t

/-- A result written to a destination register (R89). -/
def putDest (s : State) (q : Iss) (o : RegOut) : Except Stop State :=
  match q.write (strandNow s q) o with
  | .ok t => .ok (putStrand s q t)
  | .error e => .error e

/-- A load of any space: the accesses, then the destination (R259). -/
def loadBody (w : FmtM) (perLane : Bool) (loc : Iss → Nat → Loc) (q : Iss) (s : State) : Except Stop State := do
  let as := (q.accLanes perLane).map fun l => ({ lane := l, loc := loc q l } : LaneAcc)
  let r ← loadAll s q as (widthBytes w.w)
  putDest r.1 q { dst := w.d, width := memW w.w, vals := r.2.map fun e => (e.1, extendLoad w.w e.2) }

/-- A store of any space (R259). -/
def storeBody (w : FmtM) (perLane : Bool) (loc : Iss → Nat → Loc) (q : Iss) (s : State) : Except Stop State :=
  let as := (q.accLanes perLane).map fun l => ({ lane := l, loc := loc q l } : LaneAcc)
  storeAll s q perLane as (widthBytes w.w) fun l => leBytes (widthBytes w.w) (q.read w.d (memW w.w) l)

/-- LD (R258, R259). -/
def execLd (p : Option Pfx) (w : FmtM) (s : State) : Host.Outcome State Fault Refusal :=
  let i := Instr.ld p w
  runStrand i (loadBody w (runsPerLane i) fun q l => genericLoc q w l) s

/-- Whether a uniform address lies in the private window, where a store is made once per active lane, as STP makes it
(R197, R258, R260). -/
def inPrivate (q : Iss) (w : FmtM) : Bool :=
  q.accLanes false |>.any fun l => decide ((genericLoc q w l).num / 2 ^ 32 = 0x00FFFFFE)

/-- ST (R258 to R260). -/
def execSt (p : Option Pfx) (w : FmtM) (s : State) : Host.Outcome State Fault Refusal :=
  let i := Instr.st p w
  runStrand i (fun q => storeBody w (runsPerLane i || inPrivate q w) (fun q l => genericLoc q w l) q) s

/-- LDS (R258, R259). -/
def execLds (p : Option Pfx) (w : FmtM) (s : State) : Host.Outcome State Fault Refusal :=
  let i := Instr.lds p w
  runStrand i (loadBody w (runsPerLane i) fun q l => .scratch (offsetOf q w l)) s

/-- STS (R258, R259). -/
def execSts (p : Option Pfx) (w : FmtM) (s : State) : Host.Outcome State Fault Refusal :=
  let i := Instr.sts p w
  runStrand i (storeBody w (runsPerLane i) fun q l => .scratch (offsetOf q w l)) s

/-- LDP: once per active lane (R258 to R260). -/
def execLdp (p : Option Pfx) (w : FmtM) (s : State) : Host.Outcome State Fault Refusal :=
  runStrand (.ldp p w) (loadBody w true fun q l => .priv (offsetOf q w l)) s

/-- STP: once per active lane (R258 to R260). -/
def execStp (p : Option Pfx) (w : FmtM) (s : State) : Host.Outcome State Fault Refusal :=
  runStrand (.stp p w) (storeBody w true fun q l => .priv (offsetOf q w l)) s

/-- LDK: the record's parameter block (R261). -/
def execLdk (p : Option Pfx) (w : FmtM) (s : State) : Host.Outcome State Fault Refusal :=
  let i := Instr.ldk p w
  runStrand i (fun q s =>
    let n := widthBytes w.w
    let as := (q.accLanes (runsPerLane i)).map fun l => ({ lane := l, loc := .scratch (offsetOf q w l) } : LaneAcc)
    match misaligned as n with
    | some e => .error e
    | none =>
      let offs := (q.accLanes (runsPerLane i)).map fun l => (l, offsetOf q w l)
      if offs.any fun o => decide (o.2 < 0) || decide ((q.m.header.param : Int) < o.2 + n) then .error (opTrap w.a 1)
      else
        putDest s q { dst := w.d, width := memW w.w
                      vals := offs.map fun o => (o.1, extendLoad w.w ((q.m.param.drop o.2.toNat).take n)) }) s

/-! ## Atomics -/

/-- An atomic with return: 32 or 64 bits, generic or in the scratchpad (R264, R265). The spec does not say which lane's
private memory a uniform atomic, RED or STT reaches at a private-window address: it acts once, on the lowest active lane's
(log entry 40). -/
def atomBody (w : FmtA) (perLane : Bool) (n : Nat) (loc : Iss → Nat → Loc) (q : Iss) (s : State) :
    Except Stop State := do
  let k := n / 4
  let c := fourth q.p w.d
  let as := (q.accLanes perLane).map fun l => ({ lane := l, loc := loc q l } : LaneAcc)
  let r ← atomAll s q as w.fn.toNat n (q.read w.b k) fun l => if w.fn = 3 then q.read c k l else 0
  putDest r.1 q { dst := w.d, width := k, vals := r.2 }

/-- ATOM (R264, R265). -/
def execAtom (p : Option Pfx) (w : FmtA) (s : State) : Host.Outcome State Fault Refusal :=
  let i := Instr.atom p w
  runStrand i (atomBody w (runsPerLane i) 4 fun q l => .generic (q.read w.a 2 l)) s

/-- ATOM64 (R264, R265). -/
def execAtom64 (p : Option Pfx) (w : FmtA) (s : State) : Host.Outcome State Fault Refusal :=
  let i := Instr.atom64 p w
  runStrand i (atomBody w (runsPerLane i) 8 fun q l => .generic (q.read w.a 2 l)) s

/-- ATOMS (R264, R265). -/
def execAtoms (p : Option Pfx) (w : FmtA) (s : State) : Host.Outcome State Fault Refusal :=
  let i := Instr.atoms p w
  runStrand i (atomBody w (runsPerLane i) 4 fun q l => .scratch (q.read w.a 1 l)) s

/-- ATOMS64 (R264, R265). -/
def execAtoms64 (p : Option Pfx) (w : FmtA) (s : State) : Host.Outcome State Fault Refusal :=
  let i := Instr.atoms64 p w
  runStrand i (atomBody w (runsPerLane i) 8 fun q l => .scratch (q.read w.a 1 l)) s

/-- RED: d is the width code (R264, R265). -/
def execRed (p : Option Pfx) (w : FmtA) (s : State) : Host.Outcome State Fault Refusal :=
  let i := Instr.red p w
  runStrand i (fun q s =>
    let n := if w.d = 1 then 8 else 4
    let as := (q.accLanes (runsPerLane i)).map fun l => ({ lane := l, loc := .generic (q.read w.a 2 l) } : LaneAcc)
    redAll s q as w.fn.toNat n (q.read w.b (n / 4))) s

/-! ## Ordering and host lines -/

/-- FENCE: the release side performs the lanes' earlier stores, at pod or system scope once their aperture stores are
acknowledged; the acquire side leaves no older copy; fn 1 takes in unordered pages (R229, R238, R252, R266). -/
def execFence (p : Option Pfx) (w : FmtA) (s : State) : Host.Outcome State Fault Refusal :=
  runStrand (.fence p w) (fun q s =>
    let rm := q.rm.toNat
    let rel := rm == 2 || rm == 3
    let acq := rm == 1 || rm == 3
    let every := w.fn == 1
    if rel && decide (5 ≤ q.mod.toNat) && putsOpen s q.m.uid q.t.index then .error (.block .ready s)
    else
      let s1 := if rel then releaseAt s q.m.uid q.t.index q.act every q.mod.toNat else s
      .ok (if acq then acquireAt s1 q.m q.t.index every q.mod.toNat else s1)) s

/-- The ranges of HFLUSH and CINV: the lane, the first byte, the count (R267). -/
def rangesOf (q : Iss) (perLane : Bool) (a b : Reg) : List (Nat × Nat × Nat) :=
  (q.accLanes perLane).map fun l => (l, q.read a 2 l, q.read b 1 l)

/-- The first bytes of the pieces of a given power-of-two size that a range meets, the first being the range's own. -/
def piecesOf (a n size : Nat) : List Nat :=
  if n = 0 then []
  else (List.range ((a + n - 1) / size - a / size + 1)).map fun k => if k = 0 then a else (a / size + k) * size

/-- The targets of HFLUSH and CINV: every page of each range; a page that stage one does not map is skipped, and host
pages need no translation of the host's (R267). -/
def hostRangeTargets (s : State) (q : Iss) (rs : List (Nat × Nat × Nat)) : List (Nat × Target) :=
  rs.flatMap fun r => (piecesOf r.2.1 r.2.2 4096).filterMap fun a =>
    let va := a % 2 ^ 64
    match resolve s q.view none va 1 .read with
    | .fault f => if f.kind = 1 then none else some (va, .fault f)
    | .hostMiss _ => none
    | t => some (va, t)

/-- Whether a virtual address lies in a line of one of the ranges. -/
def meetsRange (rs : List (Nat × Nat × Nat)) (va : Nat) : Bool :=
  rs.any fun r => decide (0 < r.2.2 ∧ r.2.1 / 128 * 128 ≤ va ∧ va < r.2.1 + r.2.2)

/-- Whether the device copy of a host line belongs to a range: by an address it was reached under, or by a cached
translation of the range's page to its frame (R267). -/
def lineInRange (s : State) (q : Iss) (rs : List (Nat × Nat × Nat)) (h : HostLine) : Bool :=
  let vd := cidVd q.m.cid
  h.port == (vdevOf s vd).port &&
    ((h.users.any fun u => u.vd == vd && u.pasid == q.m.desc.pasid && meetsRange rs u.va) ||
     s.clusters.any fun e => e.2.atc.any fun t =>
       cidVd t.cid == vd && t.pasid == q.m.desc.pasid && t.frame == h.line / 4096 * 4096 && meetsRange rs (t.page + h.line % 4096))

/-- The host lines that HFLUSH and CINV act on: the device's copies in the ranges, and those that the lanes' waiting
stores are still to make (R247, R267). -/
def moveLines (s : State) (q : Iss) (rs : List (Nat × Nat × Nat)) : List PAddr :=
  let waiting := s.pendStores.filter fun d =>
    d.ofLanes q.m.uid q.t.index q.act && d.target.space == .host && meetsRange rs d.va
  (((s.hostLines.filter (lineInRange s q rs)).map fun h => ({ space := .host, addr := h.line } : PAddr)) ++
    waiting.map fun d => d.target.line).eraseDups

/-- A line's move left waiting behind the strand's earlier stores to it: a later release at system scope, or an access of
the strand to the line, performs it (R247, R249, R267). -/
def deferMove (q : Iss) (drop : Bool) (s : State) (p : PAddr) : State :=
  { s with pendStores := s.pendStores ++
      [{ uid := q.m.uid, strand := q.t.index, lanes := q.act, shared := false, move := some drop, target := p, va := 0
         bytes := [], comp := false, snap := false, host := none, uo := false, issued := s.clock
         epoch := (jobOf s q.m.cid).epoch, cid := q.m.cid }] }

/-- The body of HFLUSH and CINV: the lanes' own earlier stores to the lines are performed first, then the changed bytes
go to host memory; CINV drops every copy in L1 and L2. In the weaker ordering mode the moves wait, since the lane does
not (R247, R267). -/
def hostMove (drop : Bool) (perLane : Bool) (w : FmtA) (q : Iss) (s : State) : Except Stop State :=
  let rs := rangesOf q perLane w.a w.b
  match targetStop s q.view .read (hostRangeTargets s q rs) with
  | some e => .error e
  | none =>
    let lines := moveLines s q rs
    if s.weak then .ok (lines.foldl (deferMove q drop) s)
    else .ok (lines.foldl (fun s p => moveLine (settleLine s q.m.uid q.t.index p) drop p) s)

/-- HFLUSH (R247, R267). -/
def execHflush (p : Option Pfx) (w : FmtA) (s : State) : Host.Outcome State Fault Refusal :=
  let i := Instr.hflush p w
  runStrand i (hostMove false (runsPerLane i) w) s

/-- CINV (R247, R267). -/
def execCinv (p : Option Pfx) (w : FmtA) (s : State) : Host.Outcome State Fault Refusal :=
  let i := Instr.cinv p w
  runStrand i (hostMove true (runsPerLane i) w) s

/-- PREF: a hint; in the weaker ordering mode an L1 prefetch fills the quadrant's copy of an ordinary page's line; a
misaligned address is not prefetched (R202, R268). -/
def execPref (p : Option Pfx) (w : FmtM) (s : State) : Host.Outcome State Fault Refusal :=
  let i := Instr.pref p w
  runStrand i (fun q s =>
    let lines := (q.accLanes (runsPerLane i)).map fun l => wrapN 64 ((q.read w.a 2 l : Int) + w.off.toInt * 128)
    .ok (lines.foldl (fun s va =>
      match resolve s q.view none va 1 .read with
      | .phys a t =>
        if s.weak && w.w == 0 && va % 128 == 0 && !direct a t && (a.space == .device || a.space == .tier2) &&
            l1Allowed s (cidVd q.m.cid) a && (l1Hit s q.m q.t.index a (t.ord == 2)).isNone then
          let s1 := discover s a q.m.cid
          if isPoisoned s1 a then s1 else l1Fill s1 q.m q.t.index a (t.ord == 2) (readLine s1 a)
        else s
      | _ => s) s)) s

/-- PRIVADDR (R198, R269). -/
def execPrivaddr (p : Option Pfx) (w : FmtA) (s : State) : Host.Outcome State Fault Refusal :=
  let i := Instr.privaddr p w
  runStrand i (fun q s =>
    let lanes := if runsPerLane i then lanesOf q.act else q.accLanes false
    if lanes.any fun l => decide (q.m.header.priv ≤ q.read w.a 1 l) then .error (opTrap w.a 1)
    else putDest s q { dst := w.d, width := 2
                       vals := lanes.map fun l => (l, aliasOf q.view l (q.read w.a 1 l) % 2 ^ 64) }) s

/-! ## CCONV -/

/-- The answer of CCONV .query for a line: tag, sectors, combined COMP (R288). -/
def queryWord (tag : Nat) (comp : Bool) : Nat := tag + tagSectors tag * 16 + comp.toNat * 128

/-- A tag that nothing has read yet and that is uncorrectable is found by the query that reads it (R274, R288). -/
def queryFinds (s : State) (cid : Cid) : Target → State
  | .phys a _ => if latentAt s a = some 2 then discover s a cid else s
  | _ => s

/-- What a query does before it reads a line's tag: the strand's own stores to the line are performed, a tag in error is
found, the quadrant keeps no older copy, and a strongly ordered page acquires (R232, R241, R274, R288, R360). -/
def queryLoad (q : Iss) (s : State) : Target → State
  | .phys a e => afterAccess (l1Drop (queryFinds (settleLine s q.m.uid q.t.index a) q.m.cid (.phys a e)) q.m q.t.index a) q .plain (.phys a e) true
  | _ => s

/-- What CCONV .query answers at a target on this chip (R288, R360). -/
def queryAt (s : State) : Target → Nat
  | .phys a t =>
    match a.space with
    | .device => queryWord (lineTag s a).toNat t.comp
    | .tier2 => queryWord (lineTag s a).toNat t.comp
    | _ => 0x40
  | _ => 0x40

/-- A lane's answer of CCONV .query: for a line reached through the pod aperture its home's, of the stored tag and the
combined COMP (R288; log entry 73). -/
def queryLane (s : State) (e : LaneAcc × Target) (got : List (Nat × Nat × List Byte)) : Nat × Nat :=
  match e.2 with
  | .pod _ _ =>
    let b := match answerOf got e.1.lane with
      | some (_, b) => leNat b
      | none => 15
    (e.1.lane, queryWord (b % 16) (bitAt b 4))
  | t => (e.1.lane, queryAt s t)

/-- The body of CCONV .query: a line of another chip is asked for there, once what the strand has sent away is acknowledged
(R216, R288, R360, R412). -/
def cconvQuery (w : FmtA) (perLane : Bool) (q : Iss) (s : State) : Except Stop State := do
  let as := (q.accLanes perLane).map fun l => ({ lane := l, loc := .generic (q.read w.a 2 l) } : LaneAcc)
  let ts := as.map fun a => (a, resolve s q.view none a.loc.num 1 .read)
  let pods := (podLanes ts).map fun e => (e.1, e.2.1, e.2.2 / 128 * 128)
  if !pods.isEmpty && putsOpen s q.m.uid q.t.index then .error (.block .ready s)
  else
    let r ← awaitPods s q 1 0 (fun _ => []) 0x80 pods
    judgeTargets r.1 q .read (judged ts r.2)
    let s0 := ts.foldl (fun s e => queryLoad q s e.2) r.1
    let s1 := cacheTargets s0 q.view (ts.map (·.2))
    putDest s1 q { dst := w.d, width := 1, vals := ts.map fun e => queryLane s1 e r.2 }

/-- A line converted by CCONV .pack, .unpack or .clear; stores that a lane made to it earlier come first, and a line that
another chip holds is converted there (R232, R288; log entry 73). The quadrant keeps no copy of a line that is cleared. -/
def cconvLine (q : Iss) (fn : Nat) (s : State) (va : Nat) : Target → State
  | .phys a t =>
    let s1 := convertLine (settleLine s q.m.uid q.t.index a) q.m.cid fn va a t
    if fn = 3 then l1Drop s1 q.m q.t.index a else s1
  | .pod chip off => sendRequest s q (va / 128) chip (off / 128 * 128) 3 0 (BitVec.ofNat 8 (0x80 + fn)) []
  | _ => s

/-- The body of the range forms of CCONV: every line of every range is translated before any is changed (R287, R288). -/
def cconvRange (w : FmtA) (perLane : Bool) (q : Iss) (s : State) : Except Stop State :=
  let rs := rangesOf q perLane w.a w.b
  if rs.any fun r => decide (2 ^ 24 < r.2.2) then .error (opTrap w.b 2)
  else
    let acc : Access := if w.fn = 3 then .write else .read
    let ts := rs.flatMap fun r => (piecesOf r.2.1 r.2.2 128).map fun a =>
      (a % 2 ^ 64, resolve s q.view none (a % 2 ^ 64) 1 acc)
    match targetStop s q.view acc ts with
    | some e => .error e
    | none => .ok (ts.foldl (fun s e => cconvLine q w.fn.toNat s e.1 e.2) (cacheTargets s q.view (ts.map (·.2))))

/-- CCONV (R287, R288). -/
def execCconv (p : Option Pfx) (w : FmtA) (s : State) : Host.Outcome State Fault Refusal :=
  let i := Instr.cconv p w
  runStrand i (if w.fn = 0 then cconvQuery w (runsPerLane i) else cconvRange w (runsPerLane i)) s

end Sys2Proof.Machine
end

