-- ==== Sys2Proof/Machine/Handle.lean ====
section
/-! DEFINITION. Tensor handles: the entry, its checks, where elements lie and what they hold, the bounds, the seeded
records, and the handle cache (R262, R263, R289 to R294, R309, R313, R345 to R348). -/

namespace Sys2Proof.Machine

/-- A handle entry (R290). -/
structure Handle where
  fmt : Nat
  rank : Nat
  compat : Bool
  sealed : Bool
  major : Bool
  shapeRsv : Nat
  bound : Nat
  pack : Nat
  policyRsv : Nat
  sticky : Byte
  base : Nat
  scales : Nat
  dims : List Nat
  rsv : Nat
  strides : List Nat
  min : Nat
  max : Nat
  deriving DecidableEq, Repr

/-- The fields of an entry's 64 bytes (R290). -/
def parseHandle (b : List Byte) : Handle :=
  let shape := fieldAt b 1 1
  let policy := fieldAt b 2 1
  { fmt := fieldAt b 0 1, rank := shape % 8, compat := bitAt shape 3, sealed := bitAt shape 4, major := bitAt shape 5
    shapeRsv := bitsAt shape 6 2, bound := policy % 4, pack := bitsAt policy 2 2, policyRsv := bitsAt policy 4 4
    sticky := b.getD 3 0, base := fieldAt b 4 8, scales := fieldAt b 0xC 8
    dims := (List.range 5).map fun i => fieldAt b (0x14 + 3 * i) 3, rsv := fieldAt b 0x23 1
    strides := (List.range 5).map fun i => fieldAt b (0x24 + 4 * i) 4, min := fieldAt b 0x38 4, max := fieldAt b 0x3C 4 }

/-- The element bytes of an unpacked format (R291). -/
def fmtSize (fmt : Nat) : Nat :=
  match fmt with
  | 0 => 4
  | 1 => 8
  | 2 => 2
  | 3 => 2
  | 4 => 1
  | 5 => 1
  | 6 => 1
  | 7 => 1
  | 8 => 2
  | 9 => 2
  | 10 => 4
  | 11 => 4
  | _ => 1

/-- Whether a format is one of the block formats with a scale array (R291). -/
def isBlock (fmt : Nat) : Bool := decide (12 ≤ fmt ∧ fmt ≤ 17)

/-- The block type of a format, numbered as QNT's fn (R51, R53). -/
def blockTy (fmt : Nat) : Nat := fmt - 12

/-- The alignment that a base needs (R293). -/
def baseAlign (fmt : Nat) : Nat :=
  if fmt ≤ 11 then fmtSize fmt
  else if fmt ≤ 15 then 16
  else if fmt ≤ 17 then 32
  else if fmt = 18 then 8 else 1

/-- The elements along dimension 0 that a packed format keeps together (R292). -/
def packStep (fmt : Nat) : Nat := if fmt ≤ 11 then 1 else if fmt = 19 then 8 else 32

/-- Whether a bound is a NaN or the bounds are in the wrong order (R263, R293). -/
def badBounds (lo hi : Nat) : Bool :=
  match cmpFV (f32.unpack lo) (f32.unpack hi) with
  | .lt => false
  | .eq => false
  | _ => true

/-- Whether an entry is malformed (R293). -/
def Handle.malformed (h : Handle) : Bool :=
  h.rank == 0 || decide (5 < h.rank) || decide (19 < h.fmt) || h.pack == 3 || h.shapeRsv != 0 || h.policyRsv != 0 ||
  bitAt h.sticky.toNat 7 || h.rsv != 0 ||
  (List.range 5).any (fun i => if i < h.rank then h.dims.getD i 0 == 0
    else h.dims.getD i 0 != 1 || h.strides.getD i 0 != 0) ||
  h.base % baseAlign h.fmt != 0 ||
  (decide (12 ≤ h.fmt) && (h.strides.getD 0 0 != 0 || h.dims.getD 0 0 % packStep h.fmt != 0)) ||
  (isBlock h.fmt && h.scales == 0) ||
  (h.bound != 0 && badBounds h.min h.max)

/-- A dimension. -/
def Handle.dim (h : Handle) (i : Nat) : Nat := h.dims.getD i 1

/-- The number of elements (R262). -/
def Handle.count (h : Handle) : Nat := h.dims.foldl (· * ·) 1

/-- The coordinates of a linear index, dimension 0 innermost (R262). -/
def Handle.coords (h : Handle) (idx : Nat) : List Nat :=
  let d := h.dim
  [idx % d 0, idx / d 0 % d 1, idx / d 0 / d 1 % d 2, idx / d 0 / d 1 / d 2 % d 3, idx / d 0 / d 1 / d 2 / d 3 % d 4]

/-- The linear index of coordinates (R292). -/
def Handle.linear (h : Handle) (c : List Nat) : Nat :=
  let d := h.dim
  c.getD 0 0 + d 0 * (c.getD 1 0 + d 1 * (c.getD 2 0 + d 2 * (c.getD 3 0 + d 3 * c.getD 4 0)))

/-- The byte address that strides give, from a dimension on (R262, R292). -/
def Handle.place (h : Handle) (c : List Nat) : Nat :=
  (h.base + ((List.range 5).map fun i => c.getD i 0 * h.strides.getD i 0).sum) % 2 ^ 64

/-- The pieces of memory that hold the unit at coordinates: an element, or the whole block, record or byte of a packed
format, with the scale byte second (R292). -/
def Handle.unit (h : Handle) (c : List Nat) : List (Nat × Nat) :=
  let row := h.place c
  let c0 := c.getD 0 0
  let scale := (h.scales + h.linear c / 32, 1)
  if h.fmt ≤ 11 then [(row, fmtSize h.fmt)]
  else if h.fmt ≤ 15 then [((row + 16 * (c0 / 32)) % 2 ^ 64, 16), scale]
  else if h.fmt ≤ 17 then [((row + 32 * (c0 / 32)) % 2 ^ 64, 32), scale]
  else if h.fmt = 18 then [((row + 8 * (c0 / 32)) % 2 ^ 64, 8)]
  else [((row + c0 / 8) % 2 ^ 64, 1)]

/-- Whether a unit's address breaks its alignment (R293, R300). -/
def Handle.skewed (h : Handle) (c : List Nat) : Bool := (((h.unit c).headD (0, 1)).1) % baseAlign h.fmt != 0

/-! ## Seeded records -/

/-- The i-th basis bit sequence value x(n), n counted from 0, as the state of the generator gives it (R347). -/
def basisBits : Nat → BitVec 24 → List Bool
  | 0, _ => []
  | n + 1, g => g.getLsbD 0 :: basisBits n (srStep g)

/-- b(p, i) for p in 0..7 and i in 0..31, in the order 32p + i: x(24) to x(279) (R348). -/
def basisOf (seed : BitVec 24) : List Bool := basisBits 256 (srAdvance 24 seed)

/-- The sum over p of the eight values with the signs of weight i, in units of a type (R346). -/
def seedSum (ty : Nat) (codes : Nat) (basis : List Bool) (i : Nat) : Int :=
  ((List.range 8).map fun p =>
    let v : Int := match codeValue ty 32 (bitsAt codes (4 * p) 4) with
      | .dy m _ => m
      | _ => 0
    if basis.getD (32 * p + i) false then -v else v).sum

/-- The weights of a record (R346). -/
def seedWeights (record : Nat) : List XV :=
  let scale := bitsAt record 56 8
  let ty := scale / 64
  let e := scale % 64
  let seed : BitVec 24 := BitVec.ofNat 24 record
  if e = 63 then List.replicate 32 .nan
  else if seed = 0 then List.replicate 32 (.zero false)
  else
    let basis := basisOf seed
    (List.range 32).map fun i =>
      let m := seedSum ty (bitsAt record 24 32) basis i
      if m = 0 then .zero false else .dy m (codeUnit ty + e - 32)

/-! ## What elements hold -/

/-- The float format of a code (R291). -/
def fmtFloat (fmt : Nat) : FFmt :=
  match fmt with
  | 1 => f64
  | 2 => f16
  | 3 => bf16
  | 4 => e4m3
  | 5 => e5m2
  | _ => f32

/-- The integer type of a code (R291). -/
def fmtInt (fmt : Nat) : IntTy :=
  match fmt with
  | 6 => { n := 8, count := 1, sgn := true }
  | 7 => { n := 8, count := 1, sgn := false }
  | 8 => { n := 16, count := 1, sgn := true }
  | 9 => { n := 16, count := 1, sgn := false }
  | 10 => { n := 32, count := 1, sgn := true }
  | _ => { n := 32, count := 1, sgn := false }

/-- The value of an integer. -/
def FV.ofInt (n : Int) : FV := .fin (decide (n < 0)) n.natAbs 0

/-- The value of an unpacked element (R291). -/
def elemFV (fmt bits : Nat) : FV :=
  if fmt ≤ 5 then (fmtFloat fmt).unpack bits else FV.ofInt ((fmtInt fmt).val bits)

/-- A value of XV as an operand value. -/
def XV.toFV : XV → FV
  | .nan => .nan false
  | .inf n => .inf n
  | .zero n => .fin n 0 0
  | .dy m e => .fin (decide (m < 0)) m.natAbs e

/-- An unpacked element converted to another unpacked format under RN (R262, R313). -/
def convElem (src dst bits : Nat) : Nat × Flags :=
  if src ≤ 5 then
    if dst ≤ 5 then
      let r := convertF (fmtFloat src) (fmtFloat dst) .rn false 0 bits
      (r.bits, r.flags)
    else
      let ty := fmtInt dst
      let r := toIntRange .rn 0 ty.lo ty.hi ((fmtFloat src).unpack bits)
      (wrapN ty.n r.1, r.2.1)
  else if dst ≤ 5 then
    let r := (fmtFloat dst).ofInt .rn false 0 ((fmtInt src).val bits)
    (r.bits, r.flags)
  else
    let ty := fmtInt dst
    (wrapN ty.n (max ty.lo (min ty.hi ((fmtInt src).val bits))), 0)

/-- A value rounded RN to an unpacked format (R263). -/
def roundTo (fmt : Nat) (v : FV) : Nat :=
  if fmt ≤ 5 then ((fmtFloat fmt).round .rn false 0 0 v.toXV).bits
  else wrapN (fmtInt fmt).n (toIntRange .rn 0 (fmtInt fmt).lo (fmtInt fmt).hi v).1

/-- The codes of a block's code bytes (R50). -/
def blockCodeList (fmt : Nat) (bytes : List Byte) : List Nat :=
  if fmt ≤ 15 then bytes.flatMap fun b => [b.toNat % 16, b.toNat / 16] else bytes.map (·.toNat)

/-- The bytes of a block's codes (R50). -/
def packCodes (fmt : Nat) (codes : List Nat) : List Byte :=
  if fmt ≤ 15 then (List.range (codes.length / 2)).map fun i =>
    BitVec.ofNat 8 (codes.getD (2 * i) 0 % 16 + 16 * (codes.getD (2 * i + 1) 0 % 16))
  else codes.map (BitVec.ofNat 8)

/-- The value of a code under a scale byte of a block format, with the flag of a scale byte of another type (R53, R291). -/
def blockValue (fmt scale code : Nat) : XV × Flags :=
  let ty := blockTy fmt
  if fmt ≤ 15 then
    if scale / 64 = ty then (codeValue ty (scale % 64) code, 0) else (.nan, fNV)
  else q8Value ty scale code

/-- The values of a unit's elements, and the flags of decoding them (R52, R53, R262, R346). -/
def unitValues (h : Handle) (data : List (List Byte)) : List FV × Flags :=
  let b := data.headD []
  if h.fmt ≤ 11 then ([elemFV h.fmt (leNat b)], 0)
  else if h.fmt ≤ 17 then
    let scale := leNat (data.getD 1 [])
    let vs := (blockCodeList h.fmt b).map (blockValue h.fmt scale)
    (vs.map fun v => v.1.toFV, vs.foldl (fun f v => f ||| v.2) 0)
  else if h.fmt = 18 then ((seedWeights (leNat b)).map XV.toFV, 0)
  else ((List.range 8).map fun i => FV.ofInt (if bitAt (leNat b) i then -1 else 1), 0)

/-! ## Bounds -/

/-- The sticky bit of a value outside the bounds: below, above, NaN (R290, R309). -/
def boundBits (h : Handle) (v : FV) : Byte :=
  match cmpFV v (f32.unpack h.min), cmpFV v (f32.unpack h.max) with
  | .un, _ => 4
  | .lt, _ => 1
  | _, .gt => 2
  | _, _ => 0

/-- A value checked: the sticky bits it sets, whether the trap action fails it (R263, R309). -/
def boundCheck (h : Handle) (v : FV) : Byte × Bool :=
  if h.bound = 0 then (0, false) else (boundBits h v, h.bound == 3 && boundBits h v != 0)

/-- An unpacked value after the clamp action (R263). -/
def clampElem (h : Handle) (bits : Nat) : Nat :=
  let b := boundBits h (elemFV h.fmt bits)
  if h.bound ≠ 2 ∨ b = 0 then bits
  else roundTo h.fmt (f32.unpack (if b = 2 then h.max else h.min))

/-- The sticky bits [6:3] of flags (R290, R312). -/
def stickyOf (f : Flags) : Byte :=
  (if f &&& fNV ≠ 0 then (8 : Byte) else 0) ||| (if f &&& fOF ≠ 0 then 16 else 0) |||
  (if f &&& fUF ≠ 0 then 32 else 0) ||| (if f &&& fNX ≠ 0 then 64 else 0)

/-! ## The handle cache -/

/-- The address of an entry (R289). -/
def entryAddr (d : Desc) (h : Nat) : Nat := (d.htbase + 64 * h) % 2 ^ 64

/-- The cached copy of an entry (R294). -/
def cachedEntry (s : State) (m : Motif) (h : Nat) : Option CachedHandle :=
  (clusterOf s m.die m.cluster).handles.find? fun c => c.cid == m.cid && c.handle == h

/-- The entry as its uses read it: the copy with the sticky bits gathered since (R294). -/
def CachedHandle.image (c : CachedHandle) : List Byte := putBytes c.bytes 3 [c.bytes.getD 3 0 ||| c.sticky]

/-- The cache without a copy. -/
def dropEntry (s : State) (m : Motif) (h : Nat) : State :=
  updCluster s m.die m.cluster fun c => { c with handles := c.handles.filter fun e => !(e.cid == m.cid && e.handle == h) }

/-- A copy changed. -/
def updEntry (s : State) (m : Motif) (h : Nat) (f : CachedHandle → CachedHandle) : State :=
  updCluster s m.die m.cluster fun c => { c with handles := updFirst (fun e => e.cid == m.cid && e.handle == h) f c.handles }

/-- A context error that no strand raised (R365, R368). -/
def contextErrorOf (s : State) (cid : Cid) (code detail addr : Nat) : State :=
  stopContext (reportErr s { cid := cid, code := code, detail := detail, addr := addr }) cid

/-- Sticky bits ORed into byte 3 of an entry in memory, as the cluster's own plain write of an epoch; a replayable fault, or
a frame being formatted, leaves them pending (R219, R294, R435). -/
def writeStickyIn (s : State) (m : Motif) (h : Nat) (epoch : Nat) (bits : Byte) : State :=
  if bits = 0 then s
  else
    let va := (entryAddr m.desc h + 3) % 2 ^ 64
    let t := agentTarget s m va 1 .write
    match hardOf [(va, t)] with
    | some (_, f) => contextErrorOf (noticeFault s (motifView m) f) m.cid 19 f.kind va
    | none =>
      let r := pageWaits s (motifView m) .write false false [t]
      if r.2 ≠ [] ∨ formatting s t then
        updCluster r.1 m.die m.cluster fun c => { c with stickyPend := c.stickyPend ++
          [{ cid := m.cid, desc := m.desc, handle := h, bits := bits, epoch := epoch, waits := r.2 }] }
      else
        match t with
        | .pod chip off =>
          sendBy s (stickyAsker m.cid va) 0 chip (off / 4 * 4) 7 4 6 (leBytes 4 (bits.toNat * 2 ^ (8 * (off % 4))))
        | _ =>
          match agentRead s m t 1 with
          | some b => agentWriteIn s m epoch t va [b.headD 0 ||| bits]
          | none => agentWriteIn s m epoch t va [bits]

/-- The same in the epoch that the chip is in. -/
def writeSticky (s : State) (m : Motif) (h : Nat) (bits : Byte) : State := writeStickyIn s m h (jobOf s m.cid).epoch bits

/-- Sticky bits of a handle: into the cached copy if one exists, otherwise into memory (R294). -/
def mergeSticky (s : State) (m : Motif) (h : Nat) (bits : Byte) : State :=
  match cachedEntry s m h with
  | some _ => updEntry s m h fun c => { c with sticky := c.sticky ||| bits }
  | none => writeSticky s m h bits

/-- A copy's sticky byte written back and the copy dropped, as at eviction (R294). -/
def evictEntry (s : State) (m : Motif) (h : Nat) : State :=
  match cachedEntry s m h with
  | none => s
  | some c => dropEntry (writeSticky s m h (c.image.getD 3 0)) m h

/-- Whether a command in flight on a cluster names a handle of a context (R294). -/
def namedInFlight (s : State) (die cluster : Nat) (cid : Cid) (h : Nat) : Bool :=
  s.motifs.any fun m => m.die == die && m.cluster == cluster && m.cid == cid &&
    m.commands.any fun c => !c.complete && c.handles.any fun e => e.1 == h

/-- What a use of a handle finds (R294). -/
inductive EntryRes where
  | found (s : State) (bytes : List Byte)
  | bad
  | busy
  | blocked (va : Nat) (t : Target)
  | poisoned (va : Nat)
  | away (s : State)
  deriving DecidableEq, Repr

/-- The copy of the least recently used entry that no command in flight names (R294). -/
def victimOf (s : State) (m : Motif) : Option CachedHandle :=
  (clusterOf s m.die m.cluster).handles.find? fun c => !namedInFlight s m.die m.cluster c.cid c.handle

/-- An entry placed in the cache as the most recently used; a full cache evicts one first (R294). -/
def insertEntry (s : State) (m : Motif) (h : Nat) (bytes : List Byte) : Option State :=
  let put := fun (s : State) => updCluster s m.die m.cluster fun c =>
    { c with handles := c.handles ++ [{ cid := m.cid, handle := h, bytes := bytes, sticky := 0 }] }
  if (clusterOf s m.die m.cluster).handles.length < 64 then some (put s)
  else
    match victimOf s m with
    | none => none
    | some v => some (put (evictEntry s { m with cid := v.cid } v.handle))

/-- What a strand's read of an entry leaves beside the bytes: no older copy of the line in its quadrant, and on a strongly
ordered page an acquire (R232, R241, R295). A command's read is no load of a lane. -/
def afterEntry (s : State) (m : Motif) (k : Asker) : Target → State
  | .phys p e =>
    if 1000 ≤ k.strand then s
    else
      let s1 := l1Drop s m k.strand p
      if e.ord = 1 then acquireAt s1 m k.strand false 6 else s1
  | _ => s

/-- The 64 bytes of an entry read at their home, or at another chip's; a frame being formatted makes the use wait, and a
strand waits for a HOST page (R197, R219, R256, R289, R295). -/
def readEntry (s : State) (m : Motif) (k : Asker) (v : View) (h : Nat) : EntryRes :=
  let va := entryAddr m.desc h
  let t := resolve s v none va 64 .read
  match t with
  | .fault _ => .blocked va t
  | .hostMiss _ => .blocked va t
  | .pod chip off =>
    match requestBy s k 1000 1 with
    | none => .away (sendBy s k 1000 chip (off / 128 * 128) 1 0 0 [])
    | some r =>
      match r.answer with
      | none => .away s
      | some (0, b) => .found (forgetBy s k 1) ((b.drop (off % 128)).take 64)
      | some (2, _) => .poisoned va
      | some _ => .blocked va (hardFault 11 va)
  | _ =>
    let s0 := match t with
      | .phys p _ => discover (settleLine s k.uid k.strand p) p m.cid
      | _ => s
    if formatting s t then .busy
    else if t.isHost && decide (k.strand < 1000) && !hostArrived s k then .away (askHost s k)
    else match agentRead s0 m t 64 with
    | some b => .found (afterEntry (forgetBy (cacheTargets s0 v [t]) k hostOp) m k t) b
    | none => .poisoned va

/-- An entry fetched into the cache: a malformed one leaves the cache as it was (R293 to R295). -/
def fetchEntry (s : State) (m : Motif) (k : Asker) (v : View) (h : Nat) : EntryRes :=
  if m.desc.hcount ≤ h then .bad
  else
    match readEntry s m k v h with
    | .found s1 b =>
      if (parseHandle b).malformed then .bad
      else
        match insertEntry s1 m h b with
        | some s2 => .found s2 b
        | none => .busy
    | r => r

/-- A use of a handle: the cached copy, which becomes the most recently used, or a fetch (R294). -/
def useEntry (s : State) (m : Motif) (k : Asker) (v : View) (h : Nat) : EntryRes :=
  match cachedEntry s m h with
  | some c =>
    .found (updCluster s m.die m.cluster fun cl =>
      { cl with handles := cl.handles.filter (fun e => !(e.cid == m.cid && e.handle == h)) ++ [c] }) c.image
  | none => fetchEntry s m k v h

/-- What a strand's use of a handle finds, as a stop or the entry; `bad` is what a malformed entry gives. -/
def entryOr (s : State) (q : Iss) (bad : Stop) (r : EntryRes) : Except Stop (State × List Byte) :=
  match r with
  | .found s1 b => .ok (s1, b)
  | .bad => .error bad
  | .busy => .error (.block .ready s)
  | .away s1 => .error (.block .aperture s1)
  | .poisoned va => .error (.trapIn 9 (BitVec.ofNat 32 (va / 128 * 128)) (discoverAll s q.m.cid [(va, resolve s q.view none va 64 .read)]))
  | .blocked va t =>
    match targetStop s q.view .read [(va, t)] with
    | some e => .error e
    | none => .error (.block .ready s)

/-- A strand's use of a handle (R294). -/
def strandEntry (s : State) (q : Iss) (h : Nat) (bad : Stop) : Except Stop (State × List Byte) :=
  entryOr s q bad (useEntry s q.m q.asker q.view h)

end Sys2Proof.Machine
end

