-- ==== Sys2Proof/Machine/Tensor.lean ====
section
/-! DEFINITION. Instructions on tensor handles: LDT and STT, the handle cache, bounds, state, the seal, and the expansion
of seeded records (R262, R263, R289 to R297, R346, R350, R351, R355). -/

namespace Sys2Proof.Machine

/-- The coordinates and the element's own address: of the code byte in a block format, of the record in .seed, of the
bit's byte in .bits (R262, R292). -/
def elemAddr (h : Handle) (c : List Nat) : Nat :=
  let row := h.place c
  let c0 := c.getD 0 0
  if h.fmt ≤ 11 then row
  else if h.fmt ≤ 15 then (row + c0 / 2) % 2 ^ 64
  else if h.fmt ≤ 17 then (row + c0) % 2 ^ 64
  else if h.fmt = 18 then (row + 8 * (c0 / 32)) % 2 ^ 64
  else (row + c0 / 8) % 2 ^ 64

/-- The bytes that one element's access moves at its own address. -/
def elemBytes (h : Handle) : Nat := if h.fmt ≤ 11 then fmtSize h.fmt else if h.fmt = 18 then 8 else 1

/-- The scale byte's address (R292). -/
def scaleAddr (h : Handle) (c : List Nat) : Nat := (h.scales + h.linear c / 32) % 2 ^ 64

/-- The registers that an element form moves (R262). -/
def formWidth (h : Handle) (fn : Nat) : Nat := if fn = 1 ∨ (fn = 2 ∧ (h.fmt = 1 ∨ h.fmt = 18)) then 2 else 1

/-- The part of a block's code byte, or of a .bits byte, that an element is: its value. -/
def subElem (h : Handle) (c : List Nat) (byte : Nat) : Nat :=
  let c0 := c.getD 0 0
  if h.fmt = 19 then bitsAt byte (c0 % 8) 1
  else if 12 ≤ h.fmt ∧ h.fmt ≤ 15 then bitsAt byte (4 * (c0 % 2)) 4
  else byte

/-- The checks that LDT and STT share, in the order of R255: the handle, the entry, the data register's width, for a store
a format that takes single elements, alignment, the index range; the entry's number and fields, and each lane's
coordinates (R262). -/
def elementOf (w : FmtA) (store perLane : Bool) (q : Iss) (s : State) :
    Except Stop (State × Nat × Handle × List (Nat × List Nat)) := do
  let v := q.read w.a 1 0
  if 4096 ≤ v then .error (opTrap w.a 1)
  else
    let r ← strandEntry s q v (opTrap w.a 1)
    let h := parseHandle r.2
    let wide : Use := { pos := 0, reg := w.d, width := formWidth h w.fn.toNat, write := false, kind := .noQueue }
    if !wide.ok q.m q.t then .error (opTrap w.d 0)
    else if store && w.fn != 2 && (isBlock h.fmt || h.fmt == 18) then .error (opTrap w.a 1)
    else
      let lanes := (q.accLanes perLane).map fun l => (l, q.read w.b 2 l)
      let as := lanes.map fun e => ({ lane := e.1, loc := .generic (elemAddr h (h.coords e.2)) } : LaneAcc)
      match misaligned as (elemBytes h) with
      | some e => .error e
      | none =>
        if lanes.any fun e => decide (h.count ≤ e.2) then .error (opTrap w.b 2)
        else .ok (r.1, v, h, lanes.map fun e => (e.1, h.coords e.2))

/-- The accesses to elements and, in block formats, to their scale bytes. -/
def elemAccs (h : Handle) (cs : List (Nat × List Nat)) : List LaneAcc × List LaneAcc :=
  (cs.map fun e => { lane := e.1, loc := .generic (elemAddr h e.2) },
   if isBlock h.fmt then cs.map fun e => { lane := e.1, loc := .generic (scaleAddr h e.2) } else [])

/-- Elements and scale bytes by lane: each lane's element first, then its scale byte. -/
def byLanes (es ss : List (LaneAcc × Target)) : List (LaneAcc × Target) :=
  if ss.isEmpty then es else (es.zip ss).flatMap fun e => [e.1, e.2]

/-- The issue under which the scale bytes of an LDT are asked of other chips, beside its elements. -/
def Iss.scales (q : Iss) : Iss := { q with pc := q.pc + 1 }

/-- The answers of other chips for the elements and the scale bytes of an LDT, with the requests forgotten, or the wait for
them (R200, R412). -/
def awaitBoth (s : State) (q : Iss) (n : Nat) (es ss : List (LaneAcc × Nat × Nat)) :
    Except Stop (State × List (Nat × Nat × List Byte) × List (Nat × Nat × List Byte)) :=
  match podAnswers s q 1 es, podAnswers s q.scales 1 ss with
  | some a, some b =>
    .ok (forget (forget s q 1 (es.map fun e => e.1.lane)) q.scales 1 (ss.map fun e => e.1.lane), a, b)
  | _, _ => .error (.block .aperture (askPods (askPods s q 1 n (fun _ => []) 0 es) q.scales 1 1 (fun _ => []) 0 ss))

/-- An element of LDT: its image in the destination and the flags of the conversion (R262). -/
def ldtValue (h : Handle) (fn : Nat) (c : List Nat) (data scale : List Byte) : Nat × Flags :=
  let raw := subElem h c (leNat data)
  if fn = 2 then
    if isBlock h.fmt then (leNat scale * 256 + raw, 0) else (raw, 0)
  else
    let f := if fn = 1 then f64 else f32
    if h.fmt ≤ 11 then convElem h.fmt (if fn = 1 then 1 else 0) raw
    else
      let v : XV × Flags :=
        if isBlock h.fmt then blockValue h.fmt (leNat scale) raw
        else if h.fmt = 18 then ((seedWeights (leNat data)).getD (c.getD 0 0 % 32) .nan, 0)
        else (.dy (if raw = 1 then -1 else 1) 0, 0)
      let r := f.round .rn false 0 v.2 v.1
      (r.bits, r.flags)

/-- LDT (R262). -/
def execLdt (p : Option Pfx) (w : FmtA) (s : State) : Host.Outcome State Fault Refusal :=
  let i := Instr.ldt p w
  runStrand i (fun q s => do
    let r ← elementOf w false (runsPerLane i) q s
    let h := r.2.2.1
    let cs := r.2.2.2
    let as := elemAccs h cs
    let ts ← locTargets r.1 q as.1 (elemBytes h) .read
    let us ← locTargets (ruledBy r.1 q.view as.1 (elemBytes h) .read) q as.2 1 .read
    let x ← awaitBoth r.1 q (elemBytes h) (podLanes ts) (podLanes us)
    judgeTargets x.1 q .read (byLanes (judged ts x.2.1) (judged us x.2.2))
    let s0 ← awaitHost x.1 q ((ts ++ us).map (·.2))
    match (byLanes ts us).findSome? fun e =>
        (poisonAll s0 q (ts.filter fun t => t == e) x.2.1).or (poisonAll s0 q.scales (us.filter fun t => t == e) x.2.2) with
    | some e => .error e
    | none =>
      let a ← loadFrom s0 q ts (elemBytes h) x.2.1
      let b ← loadFrom a.1 q.scales us 1 x.2.2
      let byLane := fun (l : List (Nat × List Byte)) (n : Nat) => ((l.find? fun e => e.1 == n).map (·.2)).getD []
      let vals := cs.map fun c => (c.1, ldtValue h w.fn.toNat c.2 (byLane a.2 c.1) (byLane b.2 c.1))
      let fl := vals.foldl (fun f v => f ||| v.2.2) 0
      let s1 := putStrand b.1 q ((strandNow b.1 q).raise fl)
      let s2 ← putDest s1 q { dst := w.d, width := formWidth h w.fn.toNat, vals := vals.map fun v => (v.1, v.2.1) }
      if q.t.arithTraps fl then .error (.trap 4 (fl.setWidth 32)) else .ok s2) s

/-- A value that STT is to store: its element image, the values to be checked, the flags (R262). -/
def sttValue (h : Handle) (fn d : Nat) : Nat × List FV × Flags :=
  if fn = 2 then
    if h.fmt ≤ 11 then
      let x := d % 2 ^ (8 * fmtSize h.fmt)
      (x, [elemFV h.fmt x], 0)
    else if isBlock h.fmt then
      let code := if h.fmt ≤ 15 then d % 16 else d % 256
      let x := code + (d / 256 % 256) * 256
      (x, [(blockValue h.fmt (d / 256 % 256) code).1.toFV], 0)
    else if h.fmt = 18 then (d % 2 ^ 64, (seedWeights (d % 2 ^ 64)).map XV.toFV, 0)
    else (d % 2, [FV.ofInt (if d % 2 = 1 then -1 else 1)], 0)
  else
    let src := if fn = 1 then 1 else 0
    if h.fmt ≤ 11 then
      let r := convElem src h.fmt d
      (r.1, [elemFV h.fmt r.1], r.2)
    else
      let v := elemFV src d
      let below : Bool := match v with
        | .fin n m _ => n && m != 0
        | .inf n => n
        | .nan _ => false
      (below.toNat, [FV.ofInt (if below then -1 else 1)], match v with
        | .nan _ => fNV
        | _ => 0)

/-- One piece of an element store: the lane, its address, the bytes, or the part of a byte that changes. -/
structure StorePiece where
  lane : Nat
  va : Nat
  n : Nat
  keep : Nat
  bits : Nat
  deriving DecidableEq, Repr

/-- The pieces of an element's store (R262, R292). -/
def storePieces (h : Handle) (lane : Nat) (c : List Nat) (x : Nat) : List StorePiece :=
  let a := elemAddr h c
  let c0 := c.getD 0 0
  if h.fmt ≤ 11 ∨ h.fmt = 18 then [{ lane := lane, va := a, n := elemBytes h, keep := 0, bits := x }]
  else if h.fmt ≤ 15 then
    [{ lane := lane, va := a, n := 1, keep := 0xF0 / 16 ^ (c0 % 2), bits := (x % 16) * 16 ^ (c0 % 2) },
     { lane := lane, va := scaleAddr h c, n := 1, keep := 0, bits := x / 256 % 256 }]
  else if h.fmt ≤ 17 then
    [{ lane := lane, va := a, n := 1, keep := 0, bits := x % 256 },
     { lane := lane, va := scaleAddr h c, n := 1, keep := 0, bits := x / 256 % 256 }]
  else [{ lane := lane, va := a, n := 1, keep := 255 - 2 ^ (c0 % 8), bits := (x % 2) * 2 ^ (c0 % 8) }]

/-- Where a piece goes (R255). -/
def pieceTarget (s : State) (q : Iss) (p : StorePiece) : Target :=
  locTarget s q.view { lane := p.lane, loc := .generic p.va } p.n .write

/-- The address of the memory that a piece reaches (R197). -/
def StorePiece.reached (p : StorePiece) (v : View) : Nat := ({ lane := p.lane, loc := .generic p.va } : LaneAcc).reached v

/-- A piece stored at its target: whole bytes as a store, part of a byte merged at its home in one step, at another chip's by
one put that carries the byte and what of it stays (R230, R262; log entry 73). With ord=nol1 the quadrant's copy goes
(R256). -/
def storePiece (s : State) (q : Iss) (perLane : Bool) (p : StorePiece) (t : Target) : State :=
  let s1 := beforeAccess s q q.order t true
  match t with
  | .pod chip off =>
    if p.keep = 0 then sendRequest s1 q p.lane chip off 3 p.n 0 (leBytes p.n p.bits)
    else sendRequest s1 q p.lane chip off 3 1 mergeMark (leBytes 1 p.bits ++ leBytes 1 p.keep)
  | _ =>
    if p.keep = 0 then storeAt s1 q q.order (q.owners perLane p.lane) (p.reached q.view) t (leBytes p.n p.bits)
    else
      let s2 := (combineAt s1 q (p.reached q.view) t p.n fun old => (old &&& p.keep) ||| p.bits).1
      match t with
      | .phys a e => if q.order.hint = 5 ∧ !direct a e then l1Drop s2 q.m q.t.index a else s2
      | _ => s2

/-- STT (R255, R262, R263): the arithmetic trap comes before the bounds; a release, or a store to a strongly ordered page,
waits for the acknowledgements of earlier aperture stores (R241, R252). R263 does not say what the clamp action stores into
a block element, whose scale the program gives: it acts as flag there, as in the commands (R309; log entry 88). -/
def execStt (p : Option Pfx) (w : FmtA) (s : State) : Host.Outcome State Fault Refusal :=
  let i := Instr.stt p w
  runStrand i (fun q s => do
    let r ← elementOf w true (runsPerLane i) q s
    let h := r.2.2.1
    let cs := r.2.2.2
    let as := elemAccs h cs
    let first := ((as.1.head?).map fun a => a.loc.addr).getD 0
    let g := ruledBy (ruledBy r.1 q.view as.1 (elemBytes h) .write) q.view as.2 1 .write
    let elems := as.1.map fun a => (a, locTarget g q.view a (elemBytes h) .write)
    let scales := as.2.map fun a => (a, locTarget g q.view a 1 .write)
    match (if h.sealed then some (.ctx 19 12 first) else targetStop r.1 q.view .write (withAddr (byLanes elems scales))) with
    | some e => .error e
    | none =>
      let vals := cs.map fun c => (c, sttValue h w.fn.toNat (q.read w.d (formWidth h w.fn.toNat) c.1))
      let fl := vals.foldl (fun f v => f ||| v.2.2.2) 0
      if q.t.arithTraps fl then .error (.trap 4 (fl.setWidth 32))
      else
        let checks := vals.map fun v => v.2.2.1.map (boundCheck h)
        let sticky := checks.flatten.foldl (fun b c => b ||| c.1) 0
        let s1 := mergeSticky r.1 q.m r.2.1 sticky
        if checks.flatten.any (·.2) then .error (.trapIn 7 (BitVec.ofNat 32 r.2.1) s1)
        else if releaseHeld s q (elems ++ scales) then .error (.block .ready s)
        else
          let s2 := putStrand s1 q ((strandNow s1 q).raise fl)
          let ps := vals.flatMap fun v =>
            storePieces h v.1.1 v.1.2 (if h.fmt ≤ 11 then clampElem h v.2.1 else v.2.1)
          let ts := ps.map fun p => (p, pieceTarget g q p)
          let s3 := chargeScratch s2 q.m.cid elems (elemBytes h)
          let s4 := cacheTargets (chargeScratch s3 q.m.cid scales 1) q.view (ts.map (·.2))
          .ok (ts.foldl (fun s e => storePiece s q (runsPerLane i) e.1 e.2) s4)) s

/-! ## The cache, bounds and state -/

/-- The handle that a scalar names (R289, R295). -/
def handleNo (q : Iss) (r : Reg) (pos : Nat) : Except Stop Nat :=
  let v := q.read r 1 0
  if 4096 ≤ v then .error (opTrap r pos) else .ok v

/-- TDEF: a cached copy's sticky byte is written back first, and the entry is read anew (R294, R295). -/
def execTdef (p : Option Pfx) (w : FmtA) (s : State) : Host.Outcome State Fault Refusal :=
  runStrand (.tdef p w) (fun q s => do
    let h ← handleNo q w.a 1
    let r ← entryOr s q (opTrap w.a 1) (fetchEntry (evictEntry s q.m h) q.m q.asker q.view h)
    .ok r.1) s

/-- TINV (R295). -/
def execTinv (p : Option Pfx) (w : FmtA) (s : State) : Host.Outcome State Fault Refusal :=
  runStrand (.tinv p w) (fun q s => do
    let h ← handleNo q w.a 1
    .ok (evictEntry s q.m h)) s

/-- TINV_ALL: every cached copy of the context in this cluster (R295). -/
def execTinvAll (p : Option Pfx) (w : FmtA) (s : State) : Host.Outcome State Fault Refusal :=
  runStrand (.tinvAll p w) (fun q s =>
    .ok (((clusterOf s q.m.die q.m.cluster).handles.filter fun c => c.cid == q.m.cid).foldl
      (fun s c => evictEntry s q.m c.handle) s)) s

/-- A plain store of the lowest active lane to bytes of an entry, translated before the instruction's first effect, in the
state `at'` (R255, R296, R297). -/
def storeEntry (at' s : State) (q : Iss) (va : Nat) (bytes : List Byte) : State :=
  let l := (lowest q.act).getD 0
  match resolve at' q.view none va bytes.length .write with
  | .pod chip off => bytes.zipIdx.foldl (fun s e => sendRequest s q l chip (off + e.2) 3 1 0 [e.1]) s
  | t => storeAt (beforeAccess s q .plain t true) q .plain (BitVec.ofNat 96 (2 ^ l)) va t bytes

/-- The stop of a store to an entry: its translation, or on a strongly ordered page, whose store releases, aperture stores
that are not acknowledged (R216, R241, R252). -/
def entryWriteStop (s : State) (q : Iss) (va n : Nat) : Option Stop :=
  let t := resolve s q.view none va n .write
  match targetStop s q.view .write [(va, t)] with
  | some e => some e
  | none => if t.so && putsOpen s q.m.uid q.t.index then some (.block .ready s) else none

/-- TBND (R296, R466). -/
def execTbnd (p : Option Pfx) (w : FmtA) (s : State) : Host.Outcome State Fault Refusal :=
  runStrand (.tbnd p w) (fun q s => do
    let n ← handleNo q w.d 0
    let r ← strandEntry s q n (opTrap w.d 0)
    let h := parseHandle r.2
    let lo := q.read w.a 1 0
    let hi := q.read w.b 1 0
    let isNan := fun (x : Nat) => match f32.unpack x with
      | .nan _ => true
      | _ => false
    if h.sealed then .error (opTrap w.d 0)
    else if isNan lo then .error (opTrap w.a 1)
    else if isNan hi ∨ badBounds lo hi then .error (opTrap w.b 2)
    else
      let va := entryAddr q.m.desc n
      match entryWriteStop r.1 q va 64 with
      | some e => .error e
      | none =>
        let policy : Byte := BitVec.ofNat 8 (fieldAt r.2 2 1 / 4 * 4 + w.fn.toNat)
        let bounds := leBytes 4 lo ++ leBytes 4 hi
        let s1 := updEntry r.1 q.m n fun c => { c with bytes := putBytes (putBytes c.bytes 2 [policy]) 0x38 bounds }
        .ok (storeEntry r.1 (storeEntry r.1 s1 q (va + 0x38) bounds) q (va + 2) [policy])) s

/-- TSTAT (R297). -/
def execTstat (p : Option Pfx) (w : FmtA) (s : State) : Host.Outcome State Fault Refusal :=
  runStrand (.tstat p w) (fun q s => do
    let n ← handleNo q w.a 1
    let r ← strandEntry s q n (opTrap w.a 1)
    let h := parseHandle r.2
    let v := h.sticky.toNat + h.fmt * 2 ^ 8 + h.rank * 2 ^ 16 + h.sealed.toNat * 2 ^ 19 + h.compat.toNat * 2 ^ 20
    let va := (entryAddr q.m.desc n + 3) % 2 ^ 64
    match (if w.fn = 1 then entryWriteStop r.1 q va 1 else none) with
    | some e => .error e
    | none =>
      let s1 := if w.fn = 1 then
          storeEntry r.1 (updEntry r.1 q.m n fun c => { c with bytes := putBytes c.bytes 3 [0], sticky := 0 }) q va [0]
        else r.1
      putDest s1 q { dst := w.d, width := 1, vals := [(0, v)] }) s

/-! ## Sealing -/

/-- The runs of bytes that a tensor's elements occupy: a dimension whose stride continues a run lengthens it. -/
def growRuns (runs : List (Nat × Nat)) (stride count : Nat) : List (Nat × Nat) :=
  match runs with
  | [(lo, n)] =>
    if stride = n then [(lo, n * count)] else (List.range count).map fun i => (lo + i * stride, n)
  | _ => (List.range count).flatMap fun i => runs.map fun r => (r.1 + i * stride, r.2)

/-- The runs of a tensor and of its scale array (R290, R292, R350). -/
def tensorRuns (h : Handle) : List (Nat × Nat) :=
  let d := h.dim
  let s := fun (i : Nat) => h.strides.getD i 0
  let row := if h.fmt ≤ 11 then growRuns [(h.base, fmtSize h.fmt)] (s 0) (d 0)
    else if h.fmt ≤ 15 then [(h.base, d 0 / 2)]
    else if h.fmt ≤ 17 then [(h.base, d 0)]
    else if h.fmt = 18 then [(h.base, d 0 / 4)] else [(h.base, d 0 / 8)]
  let body := growRuns (growRuns (growRuns (growRuns row (s 1) (d 1)) (s 2) (d 2)) (s 3) (d 3)) (s 4) (d 4)
  body ++ (if isBlock h.fmt then [(h.scales, h.count / 32)] else [])

/-- Whether a byte lies among the context's ordinary pages: local half, below the windows and the system region, outside
the save region (R194 to R199, R350). -/
def ordinaryByte (d : Desc) (a : Nat) : Bool := decide (a < 0x00FFFFFC00000000) && !inSaveRegion d a

/-- The stage-one leaf that maps an address: where its entry lies, the first address it maps, and how many bytes (R209,
R350). -/
def leafSlot (s : State) (die : Nat) (cid : Cid) (va : Nat) : Nat → Nat → Except XFault (PAddr × Nat × Nat)
  | 0, _ => .error { stage2 := false, kind := 7, page := va / 4096 * 4096 }
  | level + 1, table =>
    let g := table + 8 * levelIndex (level + 1) va
    match (if level = 0 then none else knownEntry s (some die) cid false false (level + 1) va) with
    | some e => if bitAt e 1 then leafSlot s die cid va level (pteAddr e) else .error { stage2 := false, kind := 7, page := va / 4096 * 4096 }
    | none =>
      match stage2 s (some die) (cidVd cid) g 8 with
      | .error f => .error f
      | .ok l2 =>
        let p := leafSpace (bitAt l2.e 11) (l2.at g)
        let e := leNat (readBytes (spaceMem s p.space) p.addr 8)
        if bitAt e 1 then leafSlot s die cid va level (pteAddr e)
        else
          let n := leafSize (level + 1) e
          .ok (p, va / n * n, n)

/-- The count of a register that counts completed commands in bits [30:0] (R423). -/
def bumpCount (w : Word) : Word := (w &&& 0x80000000) ||| ((w + 1) &&& 0x7FFFFFFF)

/-- The entries of a leaf: its own, or all 16 of a 64 KiB page (R211, R350). -/
def leafEntries (s : State) (p : PAddr) : List PAddr :=
  if bitAt (leNat (readBytes (spaceMem s p.space) p.addr 8)) 57 then
    (List.range 16).map fun j => { p with addr := p.addr / 128 * 128 + 8 * j }
  else [p]

/-- SEAL set in one entry at its home (R350). -/
def sealEntry (q : Iss) (s : State) (p : PAddr) : State :=
  let e := leNat (readBytes (spaceMem s p.space) p.addr 8)
  if bitAt e 9 then s
  else performWrite s (whoOf q.m q.t.index) p false false false 0 (jobOf s q.m.cid).epoch (leBytes 8 (e + 2 ^ 9))

/-- The translations of what a leaf maps, and what ruled them, go, in every cluster, quadrant and die (R211, R214, R215,
R350). -/
def dropLeaf (s : State) (cid : Cid) (base size : Nat) : State :=
  let meets := fun (a n : Nat) => spansMeet a n base size
  { s with
    clusters := s.clusters.map fun e =>
      let gone := fun (t : TlbEntry) => t.cid == cid && !t.pod && meets t.vbase t.size
      (e.1, { e.2 with tlb := e.2.tlb.filter fun t => !gone t, qtlb := e.2.qtlb.filter fun t => !gone t.2 })
    firstRead := s.firstRead.filter fun w => !(w.cid == cid && !w.stage2 && !w.pod && meets w.base (2 ^ 16)) }

/-- The leaf of a page sealed: the context's stores in flight are performed first, and no access starts
any more under its old translation (R215, R350, R356). -/
def sealLeaf (q : Iss) (s : State) (l : PAddr × Nat × Nat) : State :=
  let s1 := performWhere s fun d => d.cid == q.m.cid && d.move.isNone
  dropLeaf ((leafEntries s1 l.1).foldl (sealEntry q) s1) q.m.cid l.2.1 l.2.2

/-- SEAL set in the leaves of pages, one after the other; a faulting leaf stops the sealing there (R212, R216, R350). -/
def sealPages (q : Iss) : List Nat → State → Except Stop State
  | [], s => .ok s
  | a :: rest, s =>
    let slot : Except XFault (PAddr × Nat × Nat) := match walk s (some q.m.die) q.m.cid q.m.desc false a with
      | .error f => .error { f with walked := some (false, a) }
      | .ok _ => leafSlot s q.m.die q.m.cid a 5 q.m.desc.sroot
    match slot with
    | .error f =>
      match targetStop s q.view .read [(a, .fault f)] with
      | some e => .error e
      | none => .ok s
    | .ok l => sealPages q rest (sealLeaf q s l)

/-- The handles that a command writes through (R305 to R308, R312, R342, R353). -/
def cmdTargets (c : Command) : List Nat :=
  match c.op with
  | .tlinc => []
  | .seedscan => (c.handles.drop 1).map (·.1)
  | .xfill => (c.handles.take 1).map (·.1)
  | .mstore => (c.handles.take 1).map (·.1)
  | _ => ((c.handles.drop 1).take 1).map (·.1)

/-- TSEAL: the count of completed invalidations advances as for a command of R215 (R350, R351). -/
def execTseal (p : Option Pfx) (w : FmtA) (s : State) : Host.Outcome State Fault Refusal :=
  runStrand (.tseal p w) (fun q s => do
    let n ← handleNo q w.a 1
    let r ← strandEntry s q n (opTrap w.a 1)
    let h := parseHandle r.2
    let runs := tensorRuns h
    if runs.any fun u => !ordinaryByte q.m.desc u.1 || !ordinaryByte q.m.desc (u.1 + u.2 - 1) ||
        (decide (u.1 < q.m.desc.msave) && decide (q.m.desc.msave < u.1 + u.2) && decide (0 < q.m.desc.mslots)) then
      .error (opTrap w.a 1)
    else
      match q.m.commands.find? fun c => !c.complete && (cmdTargets c).contains n with
      | some c => .error (.block (.timeline c.tl) r.1)
      | none =>
        let pages := runs.flatMap fun u => piecesOf u.1 u.2 4096
        let va := (entryAddr q.m.desc n + 1) % 2 ^ 64
        match entryWriteStop r.1 q va 1 with
        | some e => .error e
        | none =>
          let s1 ← sealPages q pages r.1
          let s2 := updVdev s1 (cidVd q.m.cid) fun v => { v with invcount := bumpCount v.invcount }
          let shape : Byte := BitVec.ofNat 8 (fieldAt r.2 1 1 ||| 16)
          let s3 := updEntry s2 q.m n fun c => { c with bytes := putBytes c.bytes 1 [shape] }
          .ok (storeEntry r.1 s3 q va [shape])) s

/-- SEEDEXP (R346, R355). -/
def execSeedexp (p : Option Pfx) (w : FmtA) (s : State) : Host.Outcome State Fault Refusal :=
  let i := Instr.seedexp p w
  runReg i (fun q =>
    let vals := (lanesOf q.act).map fun l =>
      let x := (seedWeights (q.read w.a 2 l)).getD (l % 32) .nan
      (l, (if w.fn = 1 then bf16 else f32).round .rn false 0 0 x)
    .ok { dst := w.d, width := 1, vals := vals.map fun v => (v.1, v.2.bits)
          flags := vals.foldl (fun f v => f ||| v.2.flags) 0 }) s

end Sys2Proof.Machine
end

