-- ==== Sys2Proof/Machine/Engine.lean ====
section
/-! DEFINITION. What engine commands do: the units of their traversal, the errors found at issue, the values they write,
the bound rule, and the search for seeded records (R299 to R313, R351, R353, R354). -/

namespace Sys2Proof.Machine

/-- One unit of a command's traversal: the pieces it reads and the pieces it writes. -/
structure EUnit where
  src : List (Nat × Nat)
  dst : List (Nat × Nat)
  deriving DecidableEq, Repr

/-- A word of a command's quad. -/
def Command.word (c : Command) (i : Nat) : Nat := (c.quad.getD i 0).toNat

/-- An entry that a command read at issue, by its place. -/
def Command.entry (c : Command) (i : Nat) : Handle := parseHandle ((c.handles.getD i (0, [])).2)

/-- Words of the box descriptor (R302). -/
def boxWords (box : List Word) (at' : Nat) : List Nat := (List.range 5).map fun i => (box.getD (at' + i) 0).toNat

/-- The source origin of a command's box (R302). -/
def Command.sorg (c : Command) : List Nat := boxWords c.box 0

/-- The destination origin of a command's box (R302). -/
def Command.dorg (c : Command) : List Nat := boxWords c.box 5

/-- The extents of a command's box (R302). -/
def Command.ext (c : Command) : List Nat := boxWords c.box 10

/-- The elements of a box in row order, one in every `step` along dimension 0 (R302). -/
def boxCoords (ext : List Nat) (step : Nat) : List (List Nat) :=
  (List.range (ext.getD 4 0)).flatMap fun c4 => (List.range (ext.getD 3 0)).flatMap fun c3 =>
    (List.range (ext.getD 2 0)).flatMap fun c2 => (List.range (ext.getD 1 0)).flatMap fun c1 =>
      (List.range ((ext.getD 0 0 + step - 1) / step)).map fun c0 => [c0 * step, c1, c2, c3, c4]

/-- Coordinates moved by an origin. -/
def shiftBy (o c : List Nat) : List Nat := (List.range 5).map fun i => o.getD i 0 + c.getD i 0

/-- Coordinates 0 and 1 exchanged (R313). -/
def swap01 (c : List Nat) : List Nat := [c.getD 1 0, c.getD 0 0, c.getD 2 0, c.getD 3 0, c.getD 4 0]

/-- The pieces of n elements along dimension 0 from coordinates on. -/
def rowUnits (h : Handle) (c : List Nat) (n : Nat) : List (Nat × Nat) :=
  (List.range n).flatMap fun i => h.unit ((c.headD 0 + i) :: c.drop 1)

/-- The shape of a transform: what one unit reads and writes (R313). -/
inductive FormKind where
  | each
  | quantise
  | dequantise
  | packBits
  | unpackBits
  | swap
  | gather
  deriving DecidableEq, Repr

/-- The shape of XFORM fn with its handles' pack modes; none for a mode of 0 (R313). -/
def formKind (fn : Nat) (src dst : Handle) : Option FormKind :=
  match fn with
  | 0 => some .swap
  | 1 => some .quantise
  | 2 => some .dequantise
  | 3 => some .each
  | 4 => if src.pack = 1 then some .packBits else if src.pack = 2 then some .quantise else none
  | 5 => if dst.pack = 1 then some .unpackBits else if dst.pack = 2 then some .dequantise else none
  | _ => some .gather

/-- The formats that a transform takes (R313). -/
def formatsFit (k : FormKind) (src dst : Handle) : Bool :=
  let plain := fun (h : Handle) => decide (h.fmt ≤ 11)
  let isFloat := fun (h : Handle) => decide (h.fmt ≤ 5)
  match k with
  | .swap => src.fmt == dst.fmt && plain src
  | .quantise => isFloat src && isBlock dst.fmt
  | .dequantise => isBlock src.fmt && isFloat dst
  | .each => plain src && plain dst
  | .packBits => isFloat src && dst.fmt == 19
  | .unpackBits => src.fmt == 19 && isFloat dst
  | .gather => (plain src && plain dst) || src.fmt == dst.fmt

/-- The elements along dimension 0 that one unit of a transform moves. -/
def FormKind.step (k : FormKind) (src : Handle) : Nat :=
  match k with
  | .quantise => 32
  | .dequantise => 32
  | .packBits => 8
  | .unpackBits => 8
  | .gather => packStep src.fmt
  | _ => 1

/-- One unit of a transform at the destination's box coordinates (R313). -/
def formUnit (k : FormKind) (src dst : Handle) (sorg dorg : List Nat) (index : List Int) (j : List Nat) :
    Option EUnit :=
  let d := shiftBy dorg j
  let s := shiftBy sorg j
  match k with
  | .swap => some { src := src.unit (shiftBy sorg (swap01 j)), dst := dst.unit d }
  | .each => some { src := src.unit s, dst := dst.unit d }
  | .quantise => some { src := rowUnits src s 32, dst := dst.unit d }
  | .dequantise => some { src := src.unit s, dst := rowUnits dst d 32 }
  | .packBits => some { src := rowUnits src s 8, dst := dst.unit d }
  | .unpackBits => some { src := src.unit s, dst := rowUnits dst d 8 }
  | .gather =>
    let x := index.getD (j.getD 1 0) (-1)
    if x < 0 ∨ (src.dim 1 : Int) ≤ x then none
    else some { src := src.unit [s.getD 0 0, x.toNat, s.getD 2 0, s.getD 3 0, s.getD 4 0], dst := dst.unit d }

/-- The box of a transform in destination order (R313). -/
def formExt (k : FormKind) (ext : List Nat) : List Nat := if k = .swap then swap01 ext else ext

/-- A raw copy in pieces that end with their destination lines (R303, R305). -/
def copyUnits (src dst n : Nat) : List EUnit :=
  (piecesOf dst n 128).map fun a =>
    let len := min (dst + n) (a / 128 * 128 + 128) - a
    { src := [((src + (a - dst)) % 2 ^ 64, len)], dst := [(a % 2 ^ 64, len)] }

/-- The rows of XGATH and XSCAT, skipped where the index is out of range (R307). -/
def rowMoves (c : Command) (scatter : Bool) : List EUnit :=
  let src := c.entry 0
  let dst := c.entry 1
  let step := packStep src.fmt
  ((c.index.getD []).zipIdx).flatMap fun e =>
    let lim := if scatter then dst.dim 1 else src.dim 1
    if e.1 < 0 ∨ (lim : Int) ≤ e.1 then []
    else
      let sr := if scatter then c.word 2 + e.2 else e.1.toNat
      let dr := if scatter then e.1.toNat else c.word 2 + e.2
      (List.range (src.dim 0 / step)).map fun k =>
        { src := src.unit [k * step, sr, 0, 0, 0], dst := dst.unit [k * step, dr, 0, 0, 0] }

/-- The block of 32 elements whose linear index begins at 32 j: its coordinates (R353). -/
def blockStart (h : Handle) (j : Nat) : List Nat := h.coords (32 * j)

/-- The blocks that a SEEDSCAN covers (R353). -/
def scanBlocks (c : Command) : List Nat :=
  let n := (c.entry 0).count / 32
  (List.range 96).filterMap fun i => if c.word 3 + i < n then some (c.word 3 + i) else none

/-- The units of a command in the order of its traversal (R302 to R308, R313, R353). -/
def cmdUnits (c : Command) : List EUnit :=
  match c.op with
  | .xcopy => copyUnits ((c.entry 0).base + c.word 1) ((c.entry 1).base + c.word 2) (c.word 3)
  | .xtile => (boxCoords c.ext (packStep (c.entry 0).fmt)).map fun i =>
      { src := (c.entry 0).unit (shiftBy c.sorg i), dst := (c.entry 1).unit (shiftBy c.dorg i) }
  | .xgath => rowMoves c false
  | .xscat => rowMoves c true
  | .xfill => (boxCoords c.ext (packStep (c.entry 0).fmt)).map fun i =>
      { src := [], dst := (c.entry 0).unit (shiftBy c.dorg i) }
  | .xform fn =>
    match formKind fn (c.entry 0) (c.entry 1) with
    | none => []
    | some k => (boxCoords (formExt k c.ext) (k.step (c.entry 0))).filterMap
        (formUnit k (c.entry 0) (c.entry 1) c.sorg c.dorg (c.index.getD []))
  | .seedscan => (scanBlocks c).map fun j =>
      { src := rowUnits (c.entry 0) (blockStart (c.entry 0) j) 32
        dst := (c.entry 1).unit (blockStart (c.entry 1) j) ++
          (if bitAt (c.word 2) 25 then (c.entry 2).unit ((c.entry 2).coords j) else []) }
  | _ => []

/-- The lines that pieces meet. -/
def linesOf (ps : List (Nat × Nat)) : List Nat :=
  ps.flatMap fun p => (piecesOf p.1 p.2 128).map fun a => a / 128

/-- A list with each element kept where it first stands, given those before it in reverse. -/
def distinctFrom : List Nat → List Nat → List Nat
  | acc, [] => acc.reverse
  | acc, x :: xs => if acc.contains x then distinctFrom acc xs else distinctFrom (x :: acc) xs

/-- The destination lines of units in the order in which the traversal first writes them (R303). -/
def unitLines (us : List EUnit) : List Nat := distinctFrom [] (us.flatMap fun u => linesOf u.dst)

/-- The number of chunks that hold lines (R303). -/
def chunkCount (lines : List Nat) : Nat := (lines.length + 7) / 8

/-! ## Errors found at issue -/

/-- Whether a box leaves a tensor's dims or splits a packed unit (R302). -/
def boxBad (h : Handle) (org ext : List Nat) : Bool :=
  (List.range 5).any (fun i => decide (h.dim i < org.getD i 0 + ext.getD i 0)) ||
  (decide (12 ≤ h.fmt) && (org.getD 0 0 % packStep h.fmt != 0 || ext.getD 0 0 % packStep h.fmt != 0))

/-- The byte range from the first unit of a box to the end of the last, and that of its scale bytes (R304). -/
def boxRanges (h : Handle) (org ext : List Nat) : List (Nat × Nat) :=
  let last := (List.range 5).map fun i => org.getD i 0 + ext.getD i 0 - 1
  ((h.unit org).zip (h.unit last)).map fun e => (e.1.1, e.2.1 + e.2.2 - e.1.1)

/-- Whether two lists of ranges share a byte (R304). -/
def rangesMeet (a b : List (Nat × Nat)) : Bool :=
  a.any fun x => b.any fun y => decide (x.1 < y.1 + y.2 ∧ y.1 < x.1 + x.2 ∧ 0 < x.2 ∧ 0 < y.2)

/-- The whole tensor as a box. -/
def Handle.whole (h : Handle) : List Nat × List Nat := ([0, 0, 0, 0, 0], h.dims)

/-- The raw bits that XFILL's image may hold: w3 is 0 but for .f64 (R308). -/
def imageBits (fmt : Nat) : Nat :=
  if fmt ≤ 11 then 2 ^ (8 * fmtSize fmt)
  else if fmt = 18 then 2 ^ 32
  else if fmt = 19 then 2 else 2 ^ 16

/-- XFILL's image: a block's code in its low byte, of four bits in the 4-bit formats (R308). -/
def imageOk (fmt v : Nat) : Bool :=
  decide (v < imageBits fmt) && !(decide (12 ≤ fmt ∧ fmt ≤ 15) && bitsAt v 4 4 != 0)

/-- The first of a list of conditions that holds gives its code (R300: the first error met; log entry 19). -/
def firstCode : List (Bool × Nat) → Nat
  | [] => 0
  | (b, n) :: rest => if b then n else firstCode rest

/-- Whether every dimension of two tensors is equal. -/
def sameDims (a b : Handle) : Bool := a.rank == b.rank && a.dims == b.dims

/-- The row ranges of XGATH and XSCAT. -/
def rowRange (h : Handle) (first n : Nat) : List (Nat × Nat) := boxRanges h [0, first, 0, 0, 0] [h.dim 0, n, 1, 1, 1]

/-- The range of the index elements that XGATH and XSCAT read (R304, R307). -/
def indexRange (x : Handle) (n : Nat) : List (Nat × Nat) := boxRanges x [0, 0, 0, 0, 0] [n, 1, 1, 1, 1]

/-- The error that a command has at issue, with well-formed handles (R300, R302 to R308, R312, R313, R351, R353). A command
with an extent of 0 that also breaks a format, quad or seal rule has that rule's error: R302 gives it code 0, the others 3 or 6,
and the order is the model's choice (log entry 92). -/
def issueCode (c : Command) : Nat :=
  let a := c.entry 0
  let b := c.entry 1
  let empty := c.ext.any (· == 0)
  let rsvBox := c.box.getD 15 0 != 0
  match c.op with
  | .xcopy =>
    firstCode [(2 ^ 24 ≤ c.word 0, 3), (b.sealed, 6),
      (rangesMeet [(a.base + c.word 1, c.word 3)] [(b.base + c.word 2, c.word 3)], 9)]
  | .xtile =>
    firstCode [(2 ^ 24 ≤ c.word 0 || c.word 2 != 0 || c.word 3 != 0 || rsvBox || a.fmt != b.fmt, 3),
      (!empty && (boxBad a c.sorg c.ext || boxBad b c.dorg c.ext), 2), (b.sealed, 6),
      (!empty && rangesMeet (boxRanges a c.sorg c.ext) (boxRanges b c.dorg c.ext), 9)]
  | .xgath =>
    let x := c.entry 2
    let n := c.word 3
    firstCode [(2 ^ 24 ≤ c.word 0 || decide (4096 ≤ c.word 1) || decide (2 ^ 24 ≤ n) || a.rank != 2 || b.rank != 2 ||
        a.fmt != b.fmt || a.dim 0 != b.dim 0 || x.rank != 1 || !(x.fmt == 10 || x.fmt == 11) || decide (x.dim 0 < n), 3),
      (decide (b.dim 1 < c.word 2 + n) && n != 0, 2), (b.sealed, 6),
      (n != 0 && rangesMeet (boxRanges a a.whole.1 a.whole.2 ++ indexRange x n) (rowRange b (c.word 2) n), 9)]
  | .xscat =>
    let x := c.entry 2
    let n := c.word 3
    firstCode [(2 ^ 24 ≤ c.word 0 || decide (4096 ≤ c.word 1) || decide (2 ^ 24 ≤ n) || a.rank != 2 || b.rank != 2 ||
        a.fmt != b.fmt || a.dim 0 != b.dim 0 || x.rank != 1 || !(x.fmt == 10 || x.fmt == 11) || decide (x.dim 0 < n), 3),
      (decide (a.dim 1 < c.word 2 + n) && n != 0, 2), (b.sealed, 6),
      (n != 0 && rangesMeet (rowRange a (c.word 2) n ++ indexRange x n) (boxRanges b b.whole.1 b.whole.2), 9)]
  | .xfill =>
    firstCode [(c.word 0 % 4096 != 0 || decide (2 ^ 24 ≤ c.word 0) || rsvBox ||
        !imageOk a.fmt (c.word 2 + c.word 3 * 2 ^ 32), 3),
      (!empty && boxBad a c.dorg c.ext, 2), (a.sealed, 6)]
  | .xform fn =>
    let x := c.entry 2
    match formKind fn a b with
    | none => 3
    | some k =>
      let g := k == .gather
      firstCode [(2 ^ 24 ≤ c.word 0 || c.word 3 != 0 || rsvBox || !formatsFit k a b ||
          (fn == 4 && k == .quantise && decide (16 ≤ b.fmt)) ||
          (if g then decide (4096 ≤ c.word 2) || x.rank != 1 || !(x.fmt == 10 || x.fmt == 11) else c.word 2 != 0), 3),
        (!empty && (boxBad b c.dorg (formExt k c.ext) ||
          (if g then boxBad a (c.sorg.set 1 0) (c.ext.set 1 1) || decide (x.dim 0 < c.sorg.getD 1 0 + c.ext.getD 1 0)
           else boxBad a c.sorg c.ext)), 2),
        (b.sealed, 6),
        (!empty && rangesMeet
          (if g then boxRanges a (c.sorg.set 1 0) (c.ext.set 1 (a.dim 1)) ++
             boxRanges x [c.sorg.getD 1 0, 0, 0, 0, 0] [c.ext.getD 1 0, 1, 1, 1, 1]
           else boxRanges a c.sorg c.ext)
          (boxRanges b c.dorg (formExt k c.ext)), 9)]
  | .seedscan =>
    let e := c.entry 2
    let errs := bitAt (c.word 2) 25
    let n := c.word 2 % 8192
    firstCode [(decide (2 ^ 26 ≤ c.word 0) || decide (2 ^ 24 ≤ c.word 1) || decide (2 ^ 26 ≤ c.word 2) || n == 0 ||
        decide (4096 < n) || decide (2 ^ 24 < c.word 1 + n) || !(a.fmt == 0 || a.fmt == 2 || a.fmt == 3) || b.fmt != 18 ||
        !sameDims a b || a.dim 0 % 32 != 0 ||
        (if errs then e.fmt != 0 || decide (e.count < c.word 3 + 96) else bitsAt (c.word 2) 13 12 != 0), 3),
      (b.sealed || (errs && e.sealed), 6),
      (rangesMeet (boxRanges a a.whole.1 a.whole.2)
        (boxRanges b b.whole.1 b.whole.2 ++ (if errs then boxRanges e e.whole.1 e.whole.2 else [])), 9)]
  | _ => 0

/-! ## Values -/

/-- What a unit writes: a byte string for each destination piece, sticky bits, whether the trap action fails it. -/
structure UnitOut where
  bytes : List (List Byte)
  sticky : Byte
  fail : Bool
  deriving DecidableEq, Repr

/-- Values checked against the bounds of the destination (R309). -/
def checkAll (h : Handle) (vs : List FV) : Byte × Bool :=
  let cs := vs.map (boundCheck h)
  (cs.foldl (fun b c => b ||| c.1) 0, cs.any (·.2))

/-- A unit of the destination's own form, checked, with unpacked values clamped (R309). -/
def checkedUnit (h : Handle) (data : List (List Byte)) : UnitOut :=
  let r := checkAll h (unitValues h data).1
  let out := if h.fmt ≤ 11 then [leBytes (fmtSize h.fmt) (clampElem h (leNat (data.headD [])))] else data
  { bytes := out, sticky := r.1, fail := r.2 }

/-- One block of a block format with its bytes, from 32 values (R55, R56, R313). -/
def quantUnit (h : Handle) (vs : List FV) : UnitOut :=
  let ty := blockTy h.fmt
  let e := blockScale h.compat ty .rn vs
  let r := blockCodes ty .rn e (vs.map fun v => (v, 0))
  let out := checkedUnit h [packCodes h.fmt (r.1.map (·.1)), [BitVec.ofNat 8 (scaleByte ty e)]]
  { out with sticky := out.sticky ||| stickyOf r.2 }

/-- Unpacked elements written from values with their flags, each checked and clamped (R309, R313). -/
def plainUnits (h : Handle) (es : List (Nat × Flags)) : UnitOut :=
  let outs := es.map fun e => checkedUnit h [leBytes (fmtSize h.fmt) e.1]
  { bytes := outs.flatMap (·.bytes)
    sticky := (outs.foldl (fun b o => b ||| o.sticky) 0) ||| es.foldl (fun b e => b ||| stickyOf e.2) 0
    fail := outs.any (·.fail) }

/-- The value of a transform's unit (R312, R313). -/
def formOut (k : FormKind) (src dst : Handle) (data : List (List Byte)) : UnitOut :=
  match k with
  | .swap => checkedUnit dst data
  | .each => plainUnits dst [convElem src.fmt dst.fmt (leNat (data.headD []))]
  | .gather =>
    if src.fmt = dst.fmt then checkedUnit dst data
    else plainUnits dst [convElem src.fmt dst.fmt (leNat (data.headD []))]
  | .quantise => quantUnit dst (data.map fun b => elemFV src.fmt (leNat b))
  | .dequantise =>
    let scale := leNat (data.getD 1 [])
    plainUnits dst ((blockCodeList src.fmt (data.headD [])).map fun code =>
      let v := blockValue src.fmt scale code
      let r := (fmtFloat dst.fmt).round .rn false 0 v.2 v.1
      (r.bits, r.flags))
  | .packBits =>
    let vs := data.map fun b => elemFV src.fmt (leNat b)
    let bits := vs.map fun v => match v with
      | .fin n m _ => n && m != 0
      | .inf n => n
      | .nan _ => false
    let nv := vs.any fun v => match v with
      | .nan _ => true
      | _ => false
    let byte := (bits.zipIdx.map fun e => e.1.toNat * 2 ^ e.2).sum
    let out := checkedUnit dst [[BitVec.ofNat 8 byte]]
    { out with sticky := out.sticky ||| if nv then stickyOf fNV else 0 }
  | .unpackBits =>
    let b := leNat (data.headD [])
    plainUnits dst ((List.range 8).map fun i =>
      (((fmtFloat dst.fmt).ofInt .rn false 0 (if bitAt b i then -1 else 1)).bits, 0))

/-- XFILL's unit: the image in every element, the scale byte in every block (R308). -/
def fillData (h : Handle) (v : Nat) : List (List Byte) :=
  if h.fmt ≤ 11 then [leBytes (fmtSize h.fmt) v]
  else if h.fmt ≤ 17 then [packCodes h.fmt (List.replicate 32 (v % 256)), [BitVec.ofNat 8 (v / 256)]]
  else if h.fmt = 18 then [leBytes 8 v]
  else [[if v % 2 = 1 then 255 else 0]]

/-! ## The search for seeded records -/

/-- The sum over i of w_i × sgn(p, i), exact (R354). -/
def seedDot (ws : List (Int × Int)) (basis : List Bool) (p : Nat) : Int × Int :=
  ws.zipIdx.foldl (fun a e =>
    addDy a.1 a.2 (if basis.getD (32 * p + e.2) false then -e.1.1 else e.1.1) e.1.2) (0, 0)

/-- The record of one seed, the flags of its quantisation, and its error as an .f32 pattern (R354, log entry
75). -/
def seedTry (compat : Bool) (ty : Nat) (ws : List (Int × Int)) (seed : Nat) : Nat × Flags × Nat :=
  let basis := basisOf (BitVec.ofNat 24 seed)
  let cs := (List.range 8).map fun p =>
    let r := seedDot ws basis p
    if r.1 = 0 then FV.fin false 0 0 else FV.fin (decide (r.1 < 0)) r.1.natAbs (r.2 - 5)
  let e := blockScale compat ty .rn cs
  let r := blockCodes ty .rn e (cs.map fun c => (c, 0))
  let codes := (r.1.zipIdx.map fun x => x.1.1 * 2 ^ (4 * x.2)).sum
  let record := seed + codes * 2 ^ 24 + (ty * 64 + e) * 2 ^ 56
  let qs := seedWeights record
  let err := (ws.zip qs).foldl (fun err wq =>
    let q : Int × Int := match wq.2 with
      | .dy m x => (m, x)
      | _ => (0, 0)
    let d := addDy wq.1.1 wq.1.2 (-q.1) q.2
    let sq : XV := if d.1 = 0 then .zero false else .dy (d.1 * d.1) (2 * d.2)
    let t := sumXV .rn [sq, (f32.unpack err).toXV]
    (f32.round .rn false 0 0 t.1).bits) 0
  (record, r.2, err)

/-- The best record over n seeds from one on; ties keep the lower seed (R354). -/
def seedBest (compat : Bool) (ty : Nat) (ws : List (Int × Int)) : Nat → Nat → Option (Nat × Flags × Nat) →
    Option (Nat × Flags × Nat)
  | 0, _, best => best
  | n + 1, s, best =>
    let t := seedTry compat ty ws s
    let better := match best with
      | none => some t
      | some b => if t.2.2 < b.2.2 then some t else some b
    seedBest compat ty ws n (s + 1) better

/-- What SEEDSCAN writes for a block: its record, its error, the sticky bits (R354). -/
def scanOut (c : Command) (data : List (List Byte)) : UnitOut :=
  let a := c.entry 0
  let ty := bitsAt (c.word 0) 24 2
  let vs := data.map fun b => elemFV a.fmt (leNat b)
  let r : Nat × Flags × Nat :=
    if vs.any FV.special then (c.word 1 + (ty * 64 + 63) * 2 ^ 56, fNV, f32.canonNaN)
    else
      let ws := vs.map fun v => match v with
        | .fin n m e => ((if n then -(m : Int) else m), e)
        | _ => (0, 0)
      (seedBest (c.entry 1).compat ty ws (c.word 2 % 8192) (c.word 1) none).getD (0, 0, 0)
  { bytes := [leBytes 8 r.1] ++ (if bitAt (c.word 2) 25 then [leBytes 4 r.2.2] else [])
    sticky := stickyOf r.2.1, fail := false }

/-- What a unit of a command writes, from the bytes of its source pieces (R305 to R309, R312, R354). -/
def cmdOut (c : Command) (data : List (List Byte)) : UnitOut :=
  match c.op with
  | .xtile => checkedUnit (c.entry 1) data
  | .xfill => checkedUnit (c.entry 0) (fillData (c.entry 0) (c.word 2 + c.word 3 * 2 ^ 32))
  | .xform fn =>
    match formKind fn (c.entry 0) (c.entry 1) with
    | some k => formOut k (c.entry 0) (c.entry 1) data
    | none => { bytes := data, sticky := 0, fail := false }
  | .seedscan => scanOut c data
  | _ => { bytes := data, sticky := 0, fail := false }

/-- Whether a piece of an unpacked element is misaligned, so that the command ends with error 11 (R293, R300). -/
def pieceSkewed (c : Command) (u : EUnit) : Bool :=
  let off := fun (h : Handle) (ps : List (Nat × Nat)) =>
    if isBlock h.fmt then (ps.head?.map fun p => p.1 % baseAlign h.fmt != 0).getD false
    else ps.any fun p => p.1 % baseAlign h.fmt != 0
  match c.op with
  | .xcopy => false
  | .xfill => off (c.entry 0) u.dst
  | .seedscan => off (c.entry 0) u.src || off (c.entry 1) (u.dst.take 1) || off (c.entry 2) (u.dst.drop 1)
  | _ => off (c.entry 0) u.src || off (c.entry 1) u.dst

end Sys2Proof.Machine
end

