-- ==== Sys2Proof/Machine/SeqFrame.lean ====
section
/-! DEFINITION. The frame of a sequencer instruction: who issues it, its k registers and tiles, the sequencer fault and
its delivery (R321 to R332, R372). -/

namespace Sys2Proof.Machine

/-- How a sequencer word ends other than normally: a fault, a fault that leaves something beside its record, a wait at the
word, or a wait for pages (R324, R328). -/
inductive SeqStop where
  | fault (code detail : Nat) (rows : List Nat)
  | faultIn (code detail : Nat) (s : State)
  | wait (s : State)
  | pages (ws : List PageWait) (s : State)
  deriving DecidableEq, Repr

/-- The sequencer word being issued: its motif, the sequencer as it stands, the word's image offset. -/
structure SeqIss where
  m : Motif
  q : Sequencer
  off : Nat
  deriving DecidableEq, Repr

/-- The sequencer that issues; none when `cur` names none or its stream has ended. -/
def seqIssuerOf (s : State) : Option SeqIss :=
  match s.cur with
  | some (.sequencer uid) =>
    (motifOf s uid).bind fun m => m.seq.map fun q => { m := m, q := q, off := q.pc }
  | _ => none

/-- The state with a motif's sequencer changed. -/
def updSeq (s : State) (uid : Nat) (f : Sequencer → Sequencer) : State :=
  updMotif s uid fun m => { m with seq := m.seq.map f }

/-- The bytes of a fault record (R324). -/
def seqRecord (f : SeqFault) : List Byte :=
  leBytes 4 f.offset ++ leBytes 1 f.code ++ leBytes 3 0 ++ leBytes 4 f.detail.toNat ++ leBytes 4 0 ++
  leBytes 16 (f.rows.foldl (fun n r => n ||| 2 ^ r) 0)

/-- Step 3 of R372: the barrier unit supplies the sequencer's arrival in the current phase of each seqbar barrier. -/
def supplyArrivals (m : Motif) : Motif :=
  checkBarriers ((List.range 16).foldl (fun m n =>
    let b := tget Barrier.reset m.barriers n
    if m.header.seqbar.getLsbD n && !b.seqIn then
      { m with barriers := tset Barrier.reset m.barriers n { b with arrivals := b.arrivals + 1, seqIn := true } }
    else m) m)

/-- Whether a motif has an MSTORE whose rows are not all written (R342). -/
def storing (m : Motif) : Bool := m.commands.any fun c => c.op == .mstore && !c.complete

/-- The record of a sequencer fault is formed once the commands issued before the word have completed: it goes to the error
queue with its entry, and the barrier unit supplies the sequencer's arrivals (R324, R372;
log entry 76). -/
def formRecord (s : State) (uid : Nat) : State :=
  match motifOf s uid with
  | none => s
  | some m =>
    match m.seq.bind fun q => if q.recorded || !q.work.isEmpty || storing m then none else q.fault with
    | none => s
    | some f =>
      let s1 := updMotif s uid fun m => supplyArrivals { m with seq := m.seq.map fun q => { q with recorded := true } }
      let s2 := reportErr s1 { cid := m.cid, code := 27, detail := f.code, motif := m.motifid.toNat, strand := 0xFF
                               die := m.die, cluster := m.cluster, stage := m.stage }
      pushErr s2 (cidVd m.cid) fun _ => seqRecord f

/-- A sequencer fault at a word: the sequencer stops there; of the engine work, what was queued before the word stays. A
fault found later is that of an earlier word, or of an earlier row of the same MSTORE, and takes the place of the one
before it (R324, R325, R343). -/
def Motif.seqFault (m : Motif) (off code detail : Nat) (rows : List Nat) (keep : List EngineOp) : Motif :=
  let f : SeqFault := { offset := off, code := code, detail := BitVec.ofNat 32 detail, rows := rows }
  { m with seq := m.seq.map fun q =>
    { q with
      ended := true, wait := false, waits := [], opWaits := if keep.isEmpty then [] else q.opWaits, fault := some f
      work := keep } }

/-- The same of a resident motif, with the record once it can be formed. -/
def seqFaultAt (s : State) (m : Motif) (off code detail : Nat) (rows : List Nat) (keep : List EngineOp) : State :=
  formRecord (updMotif s m.uid fun m => m.seqFault off code detail rows keep) m.uid

/-- The feature that a sequencer opcode or form needs (R422). -/
def seqRefused (s : State) (vd : Nat) (i : Instr) : Bool :=
  match i with
  | .mmas _ => !featureOn s vd 4
  | .mzero w => w.fn == 1 && !featureOn s vd 2
  | _ => false

/-- One sequencer instruction: the feature check, the effect, and the advance to the next word unless the effect moves
the sequencer itself (R78, R323). -/
def seqStep (i : Instr) (moves : Bool) (body : SeqIss → State → Except SeqStop State) (q : SeqIss) (s : State) : State :=
  if q.q.ended then s
  else if seqRefused s (cidVd q.m.cid) i then
    elapse (seqFaultAt s q.m q.off 1 i.mainWord.toNat [] q.q.work) 1
  else
    match body q s with
    | .ok s' =>
      elapse (updSeq s' q.m.uid fun z =>
        { z with pc := if moves then z.pc else q.off + 4, wait := false, waits := [] }) 1
    | .error (.fault code detail rows) => elapse (seqFaultAt s q.m q.off code detail rows q.q.work) 1
    | .error (.faultIn code detail s') => elapse (seqFaultAt s' q.m q.off code detail [] q.q.work) 1
    | .error (.wait s') => elapse (updSeq s' q.m.uid fun z => { z with wait := true }) 1
    | .error (.pages ws s') => elapse (updSeq s' q.m.uid fun z => { z with wait := true, waits := ws }) 1

/-- A sequencer instruction: a fault of the model when nothing issues it. -/
def runSeq (i : Instr) (body : SeqIss → State → Except SeqStop State) (s : State) : Host.Outcome State Fault Refusal :=
  match seqIssuerOf s with
  | none => .fault .noIssuer
  | some q => .next (seqStep i false body q s)

/-- A sequencer instruction that itself moves the sequencer. -/
def runSeqControl (i : Instr) (body : SeqIss → State → Except SeqStop State) (s : State) :
    Host.Outcome State Fault Refusal :=
  match seqIssuerOf s with
  | none => .fault .noIssuer
  | some q => .next (seqStep i true body q s)

/-! ## k registers and tiles -/

/-- A k register; k0 reads 0 (R322). -/
def Sequencer.kreg (q : Sequencer) (n : Nat) : Dword := if n = 0 then 0 else tget 0 q.k n

/-- The sequencer with a k register written; k0 ignores writes (R322). -/
def Sequencer.setK (q : Sequencer) (n : Nat) (v : Dword) : Sequencer :=
  if n = 0 then q else { q with k := tset 0 q.k n v }

/-- A field that is to name a k register (R322). -/
def kField (r : Reg) : Except SeqStop Nat := if r.toNat < 32 then .ok r.toNat else .error (.fault 2 r.toNat [])

/-- A field that is to name an even k register, the first of a pair. -/
def kPair (r : Reg) : Except SeqStop Nat :=
  if r.toNat < 32 ∧ r.toNat % 2 = 0 then .ok r.toNat else .error (.fault 2 r.toNat [])

/-- A field that is to name a tile that the header lists (R322). -/
def tileField (m : Motif) (r : Reg) : Except SeqStop Nat :=
  if 32 ≤ r.toNat ∧ r.toNat < 36 ∧ m.header.acctiles.getLsbD (r.toNat - 32) then .ok (r.toNat - 32)
  else .error (.fault 2 r.toNat [])

/-- Tiles that an engine operation writes. -/
def opWrites : EngineOp → List Nat
  | .mma t _ _ _ _ _ _ _ _ => [t, t + 1]
  | .mzero t _ => [t, t + 1]
  | .mldacc t _ _ _ => [t, t + 1]
  | .rowmax d _ _ => [d]
  | .rowsum d _ _ => [d]
  | .scale d _ _ _ _ => [d]
  | .copy d _ => [d, d + 1]

/-- Whether engine work that may write a tile is queued (R323). -/
def tileBusy (q : Sequencer) (t : Nat) : Bool := q.work.any fun o => (opWrites o).contains t

/-- A motif's sequencer as the state holds it now. -/
def seqOf (s : State) (uid : Nat) : Option Sequencer := (motifOf s uid).bind (·.seq)

end Sys2Proof.Machine
end

