-- ==== Sys2Proof/Machine/Command.lean ====
section
/-! DEFINITION. Engine commands: their issue by a strand, their chunks and their completion, the timeline counters,
cancelling, progress, and the continuation on a status (R141, R298 to R316, R353). -/

namespace Sys2Proof.Machine

/-! ## Issue -/

/-- A timeline counter of a motif. -/
def timelineOf (m : Motif) (tl : Nat) : Timeline := m.timelines.getD tl { issued := 0, done := 0 }

/-- A timeline counter changed. -/
def updTimeline (m : Motif) (tl : Nat) (f : Timeline → Timeline) : Motif :=
  { m with timelines := m.timelines.zipIdx.map fun e => if e.2 = tl then f e.1 else e.1 }

/-- The window fault of a scratchpad place (R196, R299). -/
def scratchFault (m : Motif) (off n : Nat) : Option Stop :=
  if m.header.scratch * 1024 < off + n then some (.ctx 19 9 (0x00FFFFFF00000000 + off)) else none

/-- Checks 4 and 5 of R299: alignment of the barrier object and the box descriptor, then the window. -/
def frameStop (m : Motif) (obj box : Option Nat) : Option Stop :=
  let skew := fun (o : Option Nat) (a : Nat) => match o with
    | some x => if x % a ≠ 0 then some (alignTrap x) else none
    | none => none
  match skew obj 16 with
  | some e => some e
  | none =>
    match skew box 64 with
    | some e => some e
    | none =>
      match obj.bind fun o => scratchFault m o 16 with
      | some e => some e
      | none => box.bind fun b => scratchFault m b 64

/-- The number of commands of a counter in flight (R299). -/
def inFlight (m : Motif) (tl : Nat) : Nat := (m.commands.filter fun c => c.tl == tl && !c.complete).length

/-- The entries of a command's handles, fetched in order; a malformed one is none (R294, R300). -/
def readEntries (q : Iss) : List Nat → State → Except Stop (State × List (Nat × Option (List Byte)))
  | [], s => .ok (s, [])
  | h :: rest, s =>
    match useEntry s q.m q.asker q.view h with
    | .bad => do
      let r ← readEntries q rest s
      .ok (r.1, (h, none) :: r.2)
    | res => do
      let e ← entryOr s q (.trap 1 0) res
      let r ← readEntries q rest e.1
      .ok (r.1, (h, some e.2) :: r.2)

/-- A command before its checks. -/
def blankCommand (tl number : Nat) (op : CmdOp) (strand : Nat) : Command :=
  { tl := tl, number := number, op := op, strand := strand, status := none, object := none, quad := [], box := []
    handles := [], rows := [], behind := 0, index := some [], chunks := 0, done := [], limit := 0, code := 0, sticky := 0, kind := 0, addr := 0
    waits := [], begun := [], cancelled := false, complete := false }

/-- Whether a command reads index elements, and how many: none for an empty box (R302, R307, R313). -/
def needsIndex (c : Command) : Option Nat :=
  match c.op with
  | .xgath => some (c.word 3)
  | .xscat => some (c.word 3)
  | .xform fn => if fn = 6 then some (if c.ext.any (· == 0) then 0 else c.ext.getD 1 0) else none
  | _ => none

/-- The command with its chunks, once it knows its traversal; an error found at issue leaves none (R300, R303). -/
def planChunks (c : Command) : Command :=
  let n := if c.code != 0 && c.code != 10 then 0 else chunkCount (unitLines (cmdUnits c))
  { c with chunks := n, limit := n }

/-- A numbered command placed in its motif, with its status register pending (R298, R299, R301). -/
def placeCommand (s : State) (uid : Nat) (c : Command) (cancel : List Nat) : State :=
  let s1 := updMotif s uid fun m =>
    { updTimeline m c.tl (fun t => { t with issued := t.issued + 1 }) with commands := m.commands ++ [c] }
  match c.status with
  | none => s1
  | some r => updStrand s1 uid c.strand fun t =>
      { t with pending := t.pending ++ [{ reg := r, tl := c.tl, number := c.number, cancel := cancel }] }

/-- The status register and the barrier object that an engine instruction names (R299). -/
def cmdFields (q : Iss) (w : FmtA) : Option Nat × Option Nat :=
  (if w.d = 96 then none else some (scalarNo w.d), if w.b = 96 then none else some (q.read w.b 1 0))

/-- The issue of an engine command (R299): `names` gives the handles in the quad, `boxed` whether w1 is a box
descriptor. The issuing lanes' earlier writes are performed first (R239, R244). -/
def issueCommand (op : CmdOp) (tl : Nat) (boxed : Bool) (names : Command → List Nat) (w : FmtA) (q : Iss) (s : State) :
    Except Stop State := do
  let f := cmdFields q w
  let quad := (List.range 4).map fun i => q.t.sreg (scalarNo w.a + i)
  let boxAt := if boxed then some ((quad.getD 1 0).toNat) else none
  match frameStop q.m f.2 boxAt with
  | some e => .error e
  | none =>
    if 32 ≤ inFlight q.m tl then .error (.block .ready s)
    else
      let number := (timelineOf q.m tl).issued + 1
      let box := match boxAt with
        | some o => (List.range 16).map fun i => BitVec.ofNat 32 (leNat (readBytes q.m.scratch (o + 4 * i) 4))
        | none => []
      let c0 := { blankCommand tl number op q.t.index with status := f.1, object := f.2, quad := quad, box := box }
      let r ← readEntries q (names c0) s
      let c1 := { c0 with handles := r.2.map fun e => (e.1, e.2.getD []) }
      let code := if r.2.any fun e => e.2.isNone then 1 else issueCode c1
      let c2 := { c1 with code := code }
      let c3 := if code = 0 && (needsIndex c2).isSome && (needsIndex c2) != some 0 then
          { c2 with index := none, chunks := 1, limit := 1 }
        else planChunks c2
      .ok (placeCommand (releaseLane r.1 q.m.uid q.t.index q.act false 4) q.m.uid c3 [])

/-- The source and destination handles of w0 (R305). -/
def pairNames (c : Command) : List Nat := [c.word 0 % 4096, bitsAt (c.word 0) 12 12]

/-- XCOPY (R305). -/
def execXcopy (p : Option Pfx) (w : FmtA) (s : State) : Host.Outcome State Fault Refusal :=
  runStrand (.xcopy p w) (issueCommand .xcopy 0 false pairNames w) s

/-- XTILE (R306). -/
def execXtile (p : Option Pfx) (w : FmtA) (s : State) : Host.Outcome State Fault Refusal :=
  runStrand (.xtile p w) (issueCommand .xtile 0 true pairNames w) s

/-- XGATH (R307). -/
def execXgath (p : Option Pfx) (w : FmtA) (s : State) : Host.Outcome State Fault Refusal :=
  runStrand (.xgath p w) (issueCommand .xgath 0 false (fun c => pairNames c ++ [c.word 1 % 4096]) w) s

/-- XSCAT (R307). -/
def execXscat (p : Option Pfx) (w : FmtA) (s : State) : Host.Outcome State Fault Refusal :=
  runStrand (.xscat p w) (issueCommand .xscat 0 false (fun c => pairNames c ++ [c.word 1 % 4096]) w) s

/-- XFILL (R308). -/
def execXfill (p : Option Pfx) (w : FmtA) (s : State) : Host.Outcome State Fault Refusal :=
  runStrand (.xfill p w) (issueCommand .xfill 0 true (fun c => [bitsAt (c.word 0) 12 12]) w) s

/-- XFORM (R312, R313). -/
def execXform (p : Option Pfx) (w : FmtA) (s : State) : Host.Outcome State Fault Refusal :=
  runStrand (.xform p w) (issueCommand (.xform w.fn.toNat) 1 true
    (fun c => pairNames c ++ if w.fn = 6 then [c.word 2 % 4096] else []) w) s

/-- SEEDSCAN (R353). -/
def execSeedscan (p : Option Pfx) (w : FmtA) (s : State) : Host.Outcome State Fault Refusal :=
  runStrand (.seedscan p w) (issueCommand .seedscan 2 false
    (fun c => pairNames c ++ if bitAt (c.word 2) 25 then [bitsAt (c.word 2) 13 12] else []) w) s

/-! ## Timeline counters -/

/-- TLREAD (R314, R315). -/
def execTlread (p : Option Pfx) (w : FmtA) (s : State) : Host.Outcome State Fault Refusal :=
  runStrand (.tlread p w) (fun q s =>
    let t := timelineOf q.m (w.fn.toNat % 4)
    putDest s q { dst := w.d, width := 2, vals := [(0, if w.fn.getLsbD 2 then t.issued else t.done)] }) s

/-- TLINC: a numbered command without work (R314, R315). -/
def execTlinc (p : Option Pfx) (w : FmtA) (s : State) : Host.Outcome State Fault Refusal :=
  runStrand (.tlinc p w) (fun q s =>
    let f := cmdFields q w
    let tl := w.fn.toNat % 4
    match frameStop q.m f.2 none with
    | some e => .error e
    | none =>
      if 32 ≤ inFlight q.m tl then .error (.block .ready s)
      else
        let c := { blankCommand tl ((timelineOf q.m tl).issued + 1) .tlinc q.t.index with status := f.1, object := f.2 }
        .ok (placeCommand (releaseLane s q.m.uid q.t.index q.act false 4) q.m.uid c [])) s

/-- The committed prefix of a command: the chunks performed without a gap (R303). -/
def committed (c : Command) : Nat := ((List.range c.chunks).find? fun k => !c.done.contains k).getD c.chunks

/-- XCANCEL (R310). -/
def execXcancel (p : Option Pfx) (w : FmtA) (s : State) : Host.Outcome State Fault Refusal :=
  runStrand (.xcancel p w) (fun q s =>
    let n := q.read w.a 2 0
    if n = 0 then .error (opTrap w.a 1)
    else
      let hit := fun (c : Command) => c.tl == 0 && !c.complete && decide (n ≤ c.number)
      let ns := (q.m.commands.filter hit).map (·.number)
      let stop := fun (c : Command) =>
        if hit c then { c with cancelled := true, limit := 0, code := 8 } else c
      let s1 := updMotif s q.m.uid fun m => { m with commands := m.commands.map stop }
      if w.d = 96 then .ok s1
      else if ns.isEmpty then putDest s1 q { dst := w.d, width := 1, vals := [(0, 0)] }
      else
        .ok (updStrand s1 q.m.uid q.t.index fun t =>
          { t with pending := t.pending ++ [{ reg := scalarNo w.d, tl := 0, number := 0, cancel := ns }] })) s

/-- XSTAT (R311). -/
def execXstat (p : Option Pfx) (w : FmtA) (s : State) : Host.Outcome State Fault Refusal :=
  runStrand (.xstat p w) (fun q s =>
    let n := q.read w.a 2 0
    let issued := (timelineOf q.m 0).issued
    if n = 0 ∨ issued < n then .error (opTrap w.a 1)
    else
      let v := match q.m.commands.find? fun c => c.tl == 0 && c.number == n && !c.complete with
        | some c => min (committed c) (2 ^ 24 - 1) * 256
        | none =>
          if issued < n + 256 then (tget 0 q.m.statuses n).toNat else n % 2 ^ 24 * 256 + 63 * 4 + 1
      putDest s q { dst := w.d, width := 1, vals := [(0, v)] }) s

/-- XYIELD: the slot goes on at the continuation, once the status register is written (R316). -/
def execXyield (p : Option Pfx) (w : FmtA) (s : State) : Host.Outcome State Fault Refusal :=
  runControl (.xyield p w) (fun q s =>
    let t := q.addr w.b 0
    let n := scalarNo w.a
    if !aligned4 t then .error (alignTrap t.toNat)
    else
      let s1 := goTo q s t
      if q.t.pending.any fun e => e.reg == n then
        .ok (updStrand s1 q.m.uid q.t.index fun t => updSlot t q.slot fun x => { x with wait := .status n })
      else .ok s1) s

/-! ## Reading and writing for engines -/

/-- A piece cut at line borders. -/
def cutPiece (p : Nat × Nat) : List (Nat × Nat) :=
  (piecesOf p.1 p.2 128).map fun a => (a % 2 ^ 64, min (p.1 + p.2) (a / 128 * 128 + 128) - a)

/-- What an engine's read of pieces comes to. -/
inductive Got where
  | ok (s : State) (data : List (List Byte))
  | hard (va kind : Nat) (s : State)
  | pages (ws : List PageWait) (s : State)
  | poison (pieces : List Nat) (s : State) (va : Nat)
  | away (s : State)
  deriving DecidableEq, Repr

/-- The key of another chip's line among an asker's requests. -/
def lineKey (chip off : Nat) : Nat := 4096 + chip + 4096 * (off / 128)

/-- The aperture address of the line that a key names (R200). -/
def keyAddress (key : Nat) : Nat := 0xFF00000000000000 + key % 4096 * 2 ^ 44 + 128 * (key / 4096 - 1)

/-- Pieces read at their points of performance for an engine or the sequencer; other chips' lines are asked for once
(R200, R216, R285, R303, R334). -/
def gather (s : State) (m : Motif) (k : Asker) (seq : Bool) (ps : List (Nat × Nat)) : Got :=
  let subs := ps.zipIdx.flatMap fun e => (cutPiece e.1).map fun c => (e.2, c, agentTarget s m c.1 c.2 .read)
  let ts := subs.map fun u => (u.2.1.1, u.2.2)
  match hardOf ts with
  | some (va, f) => .hard va f.kind (noticeFault s (motifView m) f)
  | none =>
    let r := pageWaits s (motifView m) .read (!seq) seq (ts.map (·.2))
    if r.2 ≠ [] then .pages r.2 r.1
    else if ts.any fun e => formatting s e.2 then .away s
    else
      let pods := subs.filterMap fun u => match u.2.2 with
        | .pod chip off => some (chip, off)
        | _ => none
      let missing := pods.filter fun p => (requestBy s k (lineKey p.1 p.2) 1).isNone
      if missing ≠ [] then
        .away (missing.foldl (fun s p =>
          if (requestBy s k (lineKey p.1 p.2) 1).isSome then s
          else sendBy s k (lineKey p.1 p.2) p.1 (p.2 / 128 * 128) 1 0 0 []) s)
      else
        let ans := fun (p : Nat × Nat) => (requestBy s k (lineKey p.1 p.2) 1).bind (·.answer)
        if pods.any fun p => (ans p).isNone then .away s
        else
          let read := fun (u : Nat × (Nat × Nat) × Target) => match u.2.2 with
            | .pod chip off =>
              match ans (chip, off) with
              | some (0, b) => some ((b.drop (off % 128)).take u.2.1.2)
              | _ => none
            | t => agentRead s m t u.2.1.2
          let failed := subs.find? fun u => match u.2.2 with
            | .pod chip off => (match ans (chip, off) with
              | some (st, _) => st == 1 || st == 3
              | none => false)
            | _ => false
          match failed with
          | some u => .hard u.2.1.1 11 (forgetBy s k 1)
          | none =>
            let bad := (subs.filter fun u => (read u).isNone)
            let s1 := discoverAll (forgetBy s k 1) m.cid ts
            if bad ≠ [] then
              .poison (bad.map (·.1)) s1 ((bad.head?.map fun u => u.2.1.1).getD 0)
            else
              let blocks := (subs.map fun u => match u.2.2 with
                | .scratch off => blocksIn off u.2.1.2
                | _ => 0).sum
              .ok (chargeBlocks (cacheTargets s1 (motifView m) (ts.map (·.2))) m.cid blocks)
                ((List.range ps.length).map fun i => (subs.filter fun u => u.1 == i).flatMap fun u => (read u).getD [])

/-- The largest power of two up to 16 that an offset is a multiple of and a length allows. -/
def putSize (off n : Nat) : Nat :=
  (([16, 8, 4, 2, 1] : List Nat).find? fun z => off % z == 0 && decide (z ≤ n)).getD 1

/-- Bytes sent to another chip as posted writes: a whole line, or aligned accesses of 1 to 16 bytes (R411, R412). -/
def putAway (k : Asker) (chip : Nat) : Nat → Nat → List Byte → State → State
  | 0, _, _, s => s
  | n + 1, off, bytes, s =>
    if bytes.isEmpty then s
    else if off % 128 = 0 ∧ bytes.length = 128 then sendBy s k (lineKey chip off) chip off 3 0 0 bytes
    else
      let z := putSize off bytes.length
      putAway k chip n (off + z) (bytes.drop z) (sendBy s k (lineKey chip off) chip off 3 z 0 (bytes.take z))

/-- One piece within a line written for an engine or the sequencer in an epoch; what goes to another chip follows the
markers sent by then and is of the epoch in force (R435, R448; log entry 95). -/
def scatterPiece (m : Motif) (k : Asker) (epoch : Nat) (s : State) (va : Nat) (bytes : List Byte) : State :=
  match agentTarget s m va bytes.length .write with
  | .pod chip off => putAway k chip 128 off bytes s
  | t => agentWriteIn s m epoch t va bytes

/-- A destination line of an engine command poisoned with a poisoned source: at its home, at another chip's by a line
marked poisoned, on a host page by a write marked so (R284, R285). -/
def poisonTarget (m : Motif) (epoch : Nat) (s : State) (va : Nat) : State :=
  match agentTarget s m va 1 .write with
  | .phys p e =>
    match p.space with
    | .host => send s (.poisonedData (p.addr / 128 * 128))
    | .window => s
    | _ => poisonWrite s m.cid epoch p e.snap va 5 (some m.cid)
  | .pod chip off => sendPoison s m.cid chip off
  | _ => s

/-! ## Chunks -/

/-- A command of a motif. -/
def commandOf (m : Motif) (tl number : Nat) : Option Command :=
  m.commands.find? fun c => c.tl == tl && c.number == number && !c.complete

/-- A command changed. -/
def updCommand (s : State) (uid tl number : Nat) (f : Command → Command) : State :=
  updMotif s uid fun m =>
    { m with commands := updFirst (fun c => c.tl == tl && c.number == number && !c.complete) f m.commands }

/-- A command ended by an error: the first one met stands, and no chunk from `limit` on is started (R300). -/
def Command.fails (c : Command) (code kind limit : Nat) (addr : Nat := 0) : Command :=
  { c with code := if c.code = 0 then code else c.code, kind := if c.code = 0 then kind else c.kind
           addr := if c.code = 0 then addr else c.addr, limit := min c.limit limit }

/-- The index elements of a command read (R307, R313). -/
def readIndex (s : State) (m : Motif) (c : Command) : State :=
  let x := c.entry 2
  let n := (needsIndex c).getD 0
  let first := match c.op with
    | .xform _ => c.sorg.getD 1 0
    | _ => 0
  let ps := (List.range n).flatMap fun i => x.unit [first + i, 0, 0, 0, 0]
  let set := fun (s : State) (f : Command → Command) => updCommand s m.uid c.tl c.number f
  if ps.any fun p => p.1 % 4 ≠ 0 then set s fun c => c.fails 11 0 0
  else
    match gather s m (cmdAsker m c.tl c.number) false ps with
    | .hard va kind s1 => set s1 fun c => c.fails 4 kind 0 va
    | .pages ws s1 => set s1 fun c => { c with waits := c.waits ++ ws.filter fun w => !c.waits.contains w }
    | .poison _ s1 va => set s1 fun c => c.fails 5 0 0 va
    | .away s1 => s1
    | .ok s1 data =>
      let vals := data.map fun b => (fmtInt x.fmt).val (leNat b)
      let lim : Int := if c.op = .xscat then (c.entry 1).dim 1 else (c.entry 0).dim 1
      let wrong := vals.any fun v => decide (v < 0 ∨ lim ≤ v)
      set s1 fun c => planChunks { c with index := some vals, code := if wrong && c.code == 0 then 10 else c.code }

/-- The epoch that a chunk carries: the one in force when it started (R435). -/
def Command.epochIn (c : Command) (k now : Nat) : Nat := ((c.begun.find? fun b => b.1 == k).map (·.2)).getD now

/-- A chunk that waits for another chip's lines has started (R435). -/
def Command.begins (c : Command) (k now : Nat) : Command :=
  if c.begun.any fun b => b.1 == k then c else { c with begun := c.begun ++ [(k, now)] }

/-- One chunk of a streamer, transform or seed command; XFILL's value is checked before any write (R303, R308, R309). -/
def performChunk (s : State) (m : Motif) (c : Command) (k : Nat) : State :=
  let set := fun (s : State) (f : Command → Command) => updCommand s m.uid c.tl c.number f
  let units := cmdUnits c
  let lines := ((unitLines units).drop (8 * k)).take 8
  let now := (jobOf s m.cid).epoch
  let epoch := c.epochIn k now
  let mine := fun (p : Nat × Nat) => (linesOf [p]).any lines.contains
  let us := units.filter fun u => u.dst.any mine
  let image := if c.op = .xfill then cmdOut c [] else { bytes := [], sticky := 0, fail := false }
  if image.fail then set s fun c => { c.fails 7 0 0 with sticky := c.sticky ||| image.sticky }
  else if us.any (pieceSkewed c) then set s fun c => c.fails 11 0 0
  else
    let key := cmdAsker m c.tl c.number
    match gather s m key false (us.flatMap (·.src)) with
    | .hard va kind s1 => set s1 fun c => c.fails 4 kind 0 va
    | .pages ws s1 => set s1 fun c => { c with waits := c.waits ++ ws.filter fun w => !c.waits.contains w }
    | .away s1 => set s1 fun c => c.begins k now
    | .poison bad s1 va =>
      let starts := us.foldl (fun (a : List (EUnit × Nat) × Nat) u => (a.1 ++ [(u, a.2)], a.2 + u.src.length)) ([], 0)
      let hit := starts.1.filter fun e => bad.any fun i => decide (e.2 ≤ i ∧ i < e.2 + e.1.src.length)
      let dst := (linesOf (hit.flatMap fun e => e.1.dst.filter mine)).filter lines.contains
      set ((distinctFrom [] dst).foldl (fun s l => poisonTarget m epoch s (l * 128)) s1) fun c => c.fails 5 0 0 va
    | .ok s1 data =>
      let outs := us.foldl (fun (a : List UnitOut × List (List Byte)) u =>
        (a.1 ++ [cmdOut c (a.2.take u.src.length)], a.2.drop u.src.length)) ([], data)
      let sticky := outs.1.foldl (fun b o => b ||| o.sticky) 0
      if outs.1.any (·.fail) then set s1 fun c => { c.fails 7 0 k with sticky := c.sticky ||| sticky }
      else
        let pieces := (us.zip outs.1).flatMap fun e => (e.1.dst.zip e.2.bytes).flatMap fun d =>
          (cutPiece d.1).map fun x => (x.1, (d.2.drop ((x.1 + 2 ^ 64 - d.1.1) % 2 ^ 64)).take x.2)
        let go := pieces.filter fun p => lines.contains (p.1 / 128)
        let ts := go.map fun p => (p.1, agentTarget s1 m p.1 p.2.length .write)
        match hardOf ts with
        | some (va, f) => set (noticeFault s1 (motifView m) f) fun c => c.fails (if f.kind = 12 then 6 else 4) f.kind 0 va
        | none =>
          let r := pageWaits s1 (motifView m) .write true false (ts.map (·.2))
          if r.2 ≠ [] then set r.1 fun c => { c with waits := c.waits ++ r.2.filter fun w => !c.waits.contains w }
          else if ts.any fun e => formatting s1 e.2 then s1
          else
            let s2 := go.foldl (fun s p => scatterPiece m key epoch s p.1 p.2) s1
            set s2 fun c => { c with done := c.done ++ [k], begun := c.begun.filter (fun b => b.1 != k), sticky := c.sticky ||| sticky }

/-- The word of an MSTORE faults at one of its rows: the rows below it are written and the others not, and of the engine
work only what was queued before the word stays (R324, R343). -/
def Motif.rowFault (m : Motif) (c : Command) (code detail k : Nat) : Motif :=
  let cut := fun (x : Command) => { x with limit := min x.limit k, waits := [] }
  let m1 := { m with commands := updFirst (fun x => x.tl == c.tl && x.number == c.number) cut m.commands }
  let keep := match m.seq with
    | some q => q.work.take (c.behind - (q.queued - q.work.length))
    | none => []
  m1.seqFault (c.word 0) code detail ((c.rows.take k).map (·.row)) keep

/-- The same of a resident motif, with the record once it can be formed. -/
def rowFault (s : State) (m : Motif) (c : Command) (code detail k : Nat) : State :=
  formRecord (updMotif s m.uid fun m => m.rowFault c code detail k) m.uid

/-- Whether writes that a command sent to another chip are not acknowledged. -/
def cmdPutsOpen (s : State) (m : Motif) (c : Command) : Bool :=
  s.requests.any fun r => (cmdAsker m c.tl c.number).owns r && r.op == 3 && r.answer.isNone

/-- The rows of an MSTORE are written in increasing order, one that goes to another chip acknowledged before the next
(R342, R343). -/
def performRow (s : State) (m : Motif) (c : Command) (k : Nat) : State :=
  let set := fun (s : State) (f : Command → Command) => updCommand s m.uid c.tl c.number f
  match c.rows[k]? with
  | none => s
  | some row =>
    if committed c ≠ k || cmdPutsOpen s m c then s
    else
      let runs := row.bytes.map fun b => (b.1.toNat, [b.2])
      let ts := runs.map fun p => (p.1, agentTarget s m p.1 1 .write)
      match hardOf ts with
      | some (_, f) =>
        rowFault (noticeFault s (motifView m) f) m c (if f.kind = 12 then 8 else 6)
          (if f.kind = 12 then ((c.handles.head?).map (·.1)).getD 0 else f.kind) k
      | none =>
        let r := pageWaits s (motifView m) .write false true (ts.map (·.2))
        if r.2 ≠ [] then set r.1 fun c => { c with waits := c.waits ++ r.2.filter fun w => !c.waits.contains w }
        else if ts.any fun e => formatting s e.2 then s
        else
          let s2 := runs.foldl (fun s p => scatterPiece m (cmdAsker m c.tl c.number) (jobOf s m.cid).epoch s p.1 p.2) s
          set s2 fun c => { c with done := c.done ++ [k] }

/-- Whether a slot is in no blocking wait and not held (R137, R364). -/
def Slot.canIssue (x : Slot) : Bool :=
  !x.held && (match x.wait with
    | .ready => true
    | _ => false)

/-- The pending faults of strands that a restored motif has still to retry: those of strands that can issue (R381). -/
def Motif.strandRetries (m : Motif) : List Retry :=
  m.retries.filter fun r => match r with
    | .strand j => m.strands.any fun t => t.index == j && !t.over && !t.halted && !t.stopped && t.live.any Slot.canIssue
    | .command _ _ => false

/-- The pending faults of commands that it has still to retry: those of commands with a chunk left (R381). -/
def Motif.commandRetries (m : Motif) : List Retry :=
  m.retries.filter fun r => match r with
    | .strand _ => false
    | .command tl n => m.commands.any fun c =>
        c.tl == tl && c.number == n && !c.complete && c.waits.isEmpty && decide (committed c < min c.chunks c.limit)

/-- Whether every pending fault that can be retried has been (R381). -/
def Motif.retried (m : Motif) : Bool := m.strandRetries.isEmpty && m.commandRetries.isEmpty

/-- Whether a command's chunks may run as far as a restoration goes: after the retries of strands, and those of other commands
(R376, R381). -/
def Motif.letsChunk (m : Motif) (c : Command) : Bool :=
  m.strandRetries.isEmpty && (m.commandRetries.isEmpty || m.commandRetries.contains (.command c.tl c.number))

/-- CHUNK_PERFORMED: a chunk that has been started and not performed (R303, R342, R381). -/
def execChunkPerformed (uid tl number chunk : Nat) (s : State) : Host.Outcome State Fault Refusal :=
  match motifOf s uid with
  | none => .next s
  | some m =>
    match commandOf m tl number with
    | none => .next s
    | some c =>
      if (m.drained && c.op != .mstore) || !c.waits.isEmpty || !m.letsChunk c then .next s
      else
        let s1 := updMotif s uid fun m => { m with retries := m.retries.filter fun r => r != .command tl number }
        if c.index.isNone then .next (if c.limit = 0 then s else readIndex s1 m c)
        else if c.done.contains chunk || decide (min c.chunks c.limit ≤ chunk) then .next s
        else .next (if c.op = .mstore then performRow s1 m c chunk else performChunk s1 m c chunk)

/-! ## Completion -/

/-- A status word (R300). -/
def statusWord (number code : Nat) : Nat := number % 2 ^ 24 * 256 + code * 4 + (if code = 0 then 0 else 2) + 1

/-- done of a counter: the largest n with every command up to n completed (R298). -/
def advanceDone : Nat → Motif → Nat → Motif
  | 0, m, _ => m
  | n + 1, m, tl =>
    let t := timelineOf m tl
    if m.commands.any fun c => c.tl == tl && c.number == t.done + 1 && c.complete then
      advanceDone n (updTimeline { m with commands := m.commands.filter fun c => !(c.tl == tl && c.number == t.done + 1) }
        tl fun t => { t with done := t.done + 1 }) tl
    else m

/-- Whether a command can complete: its started chunks are performed and acknowledged, and for TLINC that has not been
cancelled every lower number has completed (R252, R301, R310, R315). -/
def canComplete (s : State) (m : Motif) (c : Command) : Bool :=
  let k := cmdAsker m c.tl c.number
  !(m.drained && c.op != .mstore) && (c.index.isSome || c.limit == 0) && ((List.range (min c.chunks c.limit)).all c.done.contains) &&
  !(s.requests.any fun r => k.owns r && (r.op == 3 || r.op == 7) && r.answer.isNone) &&
  (match c.op with
    | .tlinc => c.cancelled || decide (c.number ≤ (timelineOf m c.tl).done + 1)
    | _ => true)

/-- A pending register written: the value, the place in the scoreboard given up, the slots that wait for it woken; an
ended strand discards it (R301). -/
def writePending (t : Strand) (e : PendStatus) (v : Word) : Strand :=
  let t1 := { t with pending := t.pending.filter fun x => x != e }
  if t.over then t1
  else wakeSlots (fun w => w == .status e.reg) { t1 with sregs := tset 0 t1.sregs e.reg v }

/-- The counts of XCANCELs that this completion settles (R310). -/
def settleCancels (t : Strand) (number : Nat) : Strand :=
  (t.pending.filter fun e => !e.cancel.isEmpty && e.cancel.contains number).foldl (fun t e =>
    let left := e.cancel.filter fun n => n != number
    -- the count stands in `number` while the commands of `cancel` complete one by one
    let e' := { e with cancel := left, number := e.number + 1 }
    if left.isEmpty then writePending t e (BitVec.ofNat 32 e'.number)
    else { t with pending := t.pending.map fun x => if x = e then e' else x }) t

/-- The completion of a command in the five steps of R301. The status word acquires the command for the strand that issued
it (R239, R245); the last MSTORE of a faulted sequencer lets its record be formed (R324). -/
def completeCommand (s : State) (m : Motif) (c : Command) : State :=
  let s1 := match (cmdTargets c).head? with
    | some h => if c.sticky = 0 then s else mergeSticky s m h c.sticky
    | none => s
  let mark := fun (cs : List Command) =>
    updFirst (fun x => x.tl == c.tl && x.number == c.number) (fun x => { x with complete := true }) cs
  let s2 := updMotif s1 m.uid fun m => advanceDone m.commands.length { m with commands := mark m.commands } c.tl
  let s3 := wakeMotif s2 m.uid fun w => w == .timeline c.tl
  let arrived := match c.object, motifOf s3 m.uid with
    | some off, some m3 =>
      let r := objectArrive m3 off 1
      (updMotif s3 m.uid (fun _ => r.1), r.2.isNone)
    | _, _ => (s3, false)
  let code := if arrived.2 && c.code == 0 then 12 else c.code
  let status := BitVec.ofNat 32 (statusWord c.number code)
  let keep := fun (m : Motif) => m.statuses.filter fun e => decide ((timelineOf m 0).issued < e.1 + 256)
  let s4 := if c.tl = 0 then
      updMotif arrived.1 m.uid fun m => { m with statuses := tset 0 (keep m) c.number status }
    else arrived.1
  let mine := fun (e : PendStatus) => e.tl == c.tl && e.number == c.number && e.cancel.isEmpty
  let told := match strandOf m c.strand with
    | some t => t.pending.any mine
    | none => false
  let s5 := updStrand (if told then l1Acquire s4 m c.strand false else s4) m.uid c.strand fun t =>
    match t.pending.find? mine with
    | some e => writePending t e status
    | none => t
  let s6 := if c.tl = 0 then updMotif s5 m.uid fun m => { m with strands := m.strands.map fun t => settleCancels t c.number }
    else s5
  if code = 4 ∨ code = 5 then
    reportErr s6 { cid := m.cid, code := 21, detail := code * 2 ^ 16 + c.kind, addr := c.addr, motif := m.motifid.toNat, strand := c.strand
                   die := m.die, cluster := m.cluster, stage := m.stage }
  else if c.op = .mstore then formRecord s6 m.uid
  else s6

/-- COMMAND_COMPLETE (R301, R315). -/
def execCommandComplete (uid tl number : Nat) (s : State) : Host.Outcome State Fault Refusal :=
  match motifOf s uid with
  | none => .next s
  | some m =>
    match commandOf m tl number with
    | none => .next s
    | some c => .next (if canComplete s m c then completeCommand s m c else s)

end Sys2Proof.Machine
end

