-- ==== Sys2Proof/Machine/CrossLane.lean ====
section
/-! DEFINITION. The cross-lane instructions (R163 to R168) with the fixed summation tree (R60). -/

namespace Sys2Proof.Machine

/-- The lane that SHFL reads, where it is a number from 0 to 95 (R164). -/
def shflLane (fn : BitVec 3) (lane b : Nat) : Option Nat :=
  let p : Option Nat := match fn.toNat with
    | 0 => some b
    | 1 => if b ≤ lane then some (lane - b) else none
    | 2 => some (lane + b)
    | 3 => some (lane ^^^ b)
    | _ => some (32 * (lane / 32) + b % 32)
  p.bind fun p => if p < 96 then some p else none

/-- SHFL (R163, R164). -/
def execShfl (p : Option Pfx) (w : FmtA) (s : State) : Host.Outcome State Fault Refusal :=
  let i := Instr.shfl p w
  runReg i (fun q => laneMap q i w.d 1 fun l => q.readOf w.a 1 (shflLane w.fn l (q.read w.b 1 l))) s

/-- A result that is written once to a scalar, or in every active lane of a vector. -/
def broadcast (q : Iss) (d : Reg) (width v : Nat) (flags : Flags) (gens : List (Nat × BitVec 24)) : RegOut :=
  { dst := d, width := width, vals := if perLaneReg d then (lanesOf q.act).map fun l => (l, v) else [(0, v)]
    flags := flags, gens := gens }

/-- VOTE (R165). -/
def execVote (p : Option Pfx) (w : FmtA) (s : State) : Host.Outcome State Fault Refusal :=
  runReg (.vote p w) (fun q =>
    let vs := (lanesOf q.act).map fun l => q.read w.a 1 l
    let r := match w.fn.toNat with
      | 0 => vs.all (· != 0)
      | 1 => vs.any (· != 0)
      | _ => vs.all (· == vs.headD 0)
    .ok (broadcast q w.d 1 r.toNat 0 [])) s

/-- BALLOT: into a triple of general scalars, or into m0 to m2 (R128, R166). -/
def execBallot (p : Option Pfx) (w : FmtA) (s : State) : Host.Outcome State Fault Refusal :=
  runStrand (.ballot p w) (fun q s =>
    let n := scalarNo w.d
    let img := maskOf ((lanesOf q.act).filter fun l => q.read w.a 1 l != 0)
    if 26 < n ∧ n ≠ 29 then .error (opTrap w.d 0)
    else withScalars q s w.d 0 3 img.toNat) s

/-! ## Reductions -/

/-- Additions in progress: the flags raised so far and the generator. -/
structure SumState where
  flags : Flags
  g : BitVec 24
  deriving DecidableEq, Repr

/-- One rounded addition of the tree. -/
def treeAdd (f : FFmt) (mode : RMode) (sat : Bool) (st : SumState) (a b : Nat) : Nat × SumState :=
  let r := f.add mode sat st.g (f.unpack a) (f.unpack b)
  (r.bits, { flags := st.flags ||| r.flags, g := r.g })

/-- One level of the tree: neighbours added in order (R60). -/
def treeLevel (f : FFmt) (mode : RMode) (sat : Bool) : List Nat → SumState → List Nat × SumState
  | a :: b :: rest, st =>
    let r := treeAdd f mode sat st a b
    let more := treeLevel f mode sat rest r.2
    (r.1 :: more.1, more.2)
  | l, st => (l, st)

/-- The levels that halve 96 terms to 3, then the last two additions (R60). -/
def treeSum (f : FFmt) (mode : RMode) (sat : Bool) (terms : List Nat) (st : SumState) : Nat × SumState :=
  let step := fun (x : List Nat × SumState) => treeLevel f mode sat x.1 x.2
  let u5 := step (step (step (step (step (terms, st)))))
  match u5.1 with
  | [a, b, c] =>
    let r := treeAdd f mode sat u5.2 a b
    treeAdd f mode sat r.2 r.1 c
  | _ => (0, u5.2)

/-- The combination of float contributions by .min or .max, from the first on (R167). -/
def floatExtreme (f : FFmt) (wantMax : Bool) (vs : List Nat) : Nat × Flags :=
  match vs with
  | [] => (f.inf wantMax, 0)
  | v :: rest =>
    rest.foldl (fun a x => let r := f.minmax wantMax a.1 x
                           (r.1, a.2 ||| r.2)) (f.minmax wantMax v v)

/-- The integer combination of contributions with the identity of the operation (R167). -/
def intCombine (ty : IntTy) (op : Nat) (sat : Bool) (vs : List Nat) : Nat :=
  match op with
  | 0 => ty.fit sat (vs.map ty.val).sum
  | 1 => wrapN ty.n (vs.foldl (fun a v => min a (ty.val v)) ty.hi)
  | 2 => wrapN ty.n (vs.foldl (fun a v => max a (ty.val v)) ty.lo)
  | 3 => vs.foldl (· &&& ·) (2 ^ ty.n - 1)
  | 4 => vs.foldl (· ||| ·) 0
  | _ => vs.foldl (· ^^^ ·) 0

/-- One combination of the lanes that contribute, by lane number (R167). -/
def combineLanes (q : Iss) (w : FmtA) (lanes : List Nat) (g : BitVec 24) : FRes :=
  let op := (w.b.extractLsb' 4 3).toNat
  let fn := w.fn.toNat
  if fn < 4 then
    { bits := intCombine (intTy w.fn) op q.sat (lanes.map fun l => q.read w.a (intW w.fn) l), flags := 0, g := g }
  else
    let f := if fn = 5 then f64 else f32
    let n := if fn = 5 then 2 else 1
    if op = 0 then
      let terms := (List.range 96).map fun l => if lanes.contains l then q.read w.a n l else 0
      let r := treeSum f q.rmode q.sat terms { flags := 0, g := g }
      { bits := r.1, flags := r.2.flags, g := r.2.g }
    else
      let r := floatExtreme f (op == 2) (lanes.map fun l => q.read w.a n l)
      { bits := r.1, flags := r.2, g := g }

/-- The registers of a reduction's type (R167). -/
def reduxWidth (w : FmtA) : Nat := if w.fn = 2 ∨ w.fn = 3 ∨ w.fn = 5 then 2 else 1

/-- REDUX (R60, R167). -/
def execRedux (p : Option Pfx) (w : FmtA) (s : State) : Host.Outcome State Fault Refusal :=
  runReg (.redux p w) (fun q =>
    let low := (lowest q.act).getD 0
    let r := combineLanes q w (lanesOf q.act) (q.t.gen low)
    .ok (broadcast q w.d (reduxWidth w) r.bits r.flags (if r.g = q.t.gen low then [] else [(low, r.g)]))) s

/-- SCAN lane by lane, threading one generator (R60, R167). -/
def scanLanes (q : Iss) (w : FmtA) (excl : Bool) : List Nat → SumState → List (Nat × Nat) × SumState
  | [], st => ([], st)
  | l :: ls, st =>
    let from' := (lanesOf q.act).filter fun x => decide (x < l) || (!excl && x == l)
    let r := combineLanes q w from' st.g
    let more := scanLanes q w excl ls { flags := st.flags ||| r.flags, g := r.g }
    ((l, r.bits) :: more.1, more.2)

/-- SCAN (R60, R167). -/
def execScan (p : Option Pfx) (w : FmtA) (s : State) : Host.Outcome State Fault Refusal :=
  runReg (.scan p w) (fun q =>
    let low := (lowest q.act).getD 0
    let r := scanLanes q w (w.b.getLsbD 3) (lanesOf q.act) { flags := 0, g := q.t.gen low }
    .ok { dst := w.d, width := reduxWidth w, vals := r.1, flags := r.2.flags
          gens := if r.2.g = q.t.gen low then [] else [(low, r.2.g)] }) s

/-- MATCH (R168). -/
def execMatch (p : Option Pfx) (w : FmtA) (s : State) : Host.Outcome State Fault Refusal :=
  let i := Instr.match p w
  runReg i (fun q =>
    let n := if w.fn = 1 then 2 else 1
    let vs := (lanesOf q.act).map fun l => (l, q.read w.a n l)
    laneMap q i w.d 1 fun l =>
      let same := vs.filter fun e => e.2 == q.read w.a n l
      ((same.map (·.1)).headD 0) + 256 * same.length) s

end Sys2Proof.Machine
end

