-- ==== Sys2Proof/Machine/Context.lean ====
section
/-! DEFINITION. Context descriptors (R208, R367), and what ends a wait for a page: the waits of resident and saved
motifs taken away, changed, or refused (R216, R222, R370, R375, R406, R407). -/

namespace Sys2Proof.Machine

/-- A context descriptor of 64 bytes; none when a reserved bit is set or a value is out of range (R208, R367). Of a root of
2^56 or more the bits above 55 are dropped: the rule calls it an address and gives no range, so that this is the model's choice
(log entry 94). -/
def parseDesc (b : List Byte) : Option Desc :=
  let sroot := fieldAt b 0 8
  let podroot := fieldAt b 8 8
  let pbase := fieldAt b 0x10 8
  let pslots := fieldAt b 0x18 2
  let pasid := fieldAt b 0x1A 3
  let htbase := fieldAt b 0x20 8
  let hcount := fieldAt b 0x28 2
  let ctl := fieldAt b 0x2A 1
  let deadline := fieldAt b 0x2C 4
  let drainlim := fieldAt b 0x30 4
  let mslots := fieldAt b 0x34 4
  let msave := fieldAt b 0x38 8
  if sroot % 4096 ≠ 0 ∨ podroot % 4096 ≠ 0 ∨ pbase % 4096 ≠ 0 ∨ 2 ^ 56 ≤ pbase ∨ pslots = 0 ∨ 8192 < pslots ∨
      2 ^ 20 ≤ pasid ∨ fieldAt b 0x1D 3 ≠ 0 ∨ htbase % 64 ≠ 0 ∨ 4096 < hcount ∨ 4 ≤ ctl ∨ fieldAt b 0x2B 1 ≠ 0 ∨
      4096 < mslots ∨ msave % 2 ^ 21 ≠ 0 ∨ 2 ^ 56 ≤ msave then none
  else
    some { sroot := sroot, podroot := podroot, pbase := pbase, pslots := pslots, pasid := pasid, htbase := htbase
           hcount := hcount, intercept := bitAt ctl 0, cutRight := bitAt ctl 1
           deadline := if deadline = 0 then 280000 else deadline, drainlim := if drainlim = 0 then 70000 else drainlim
           mslots := mslots, msave := msave }

/-- The descriptor of a context as memory holds it (R367). -/
def readDesc (s : State) (cid : Cid) : Option Desc :=
  let vd := cidVd cid
  if (vdevOf s vd).ctxcount ≤ cidCtx cid then none
  else (readGuest s vd ((vdevOf s vd).ctxbase + 64 * cidCtx cid) 64).bind parseDesc

/-- What the read of a context's descriptor finds in its line (R283, R284). -/
def noticeDesc (s : State) (cid : Cid) : State :=
  let v := vdevOf s (cidVd cid)
  if v.ctxcount ≤ cidCtx cid then s else noticeGuest s cid (v.ctxbase + 64 * cidCtx cid) 64

/-- The descriptor in force for a context: that of its resident motifs, which cannot be rewritten while they are, or
what memory holds (R367). -/
def descOfCtx (s : State) (cid : Cid) : Option Desc :=
  match s.motifs.find? fun m => m.cid == cid with
  | some m => some m.desc
  | none => readDesc s cid

/-- A motif with no strand, as which the hardware itself accesses a context's memory. -/
def ghostMotif (cid : Cid) (d : Desc) (die cluster : Nat) : Motif :=
  { uid := 0, cid := cid, ring := 0, record := 0, stage := 0, motifid := 0xFFFFFFFF, image := 0
    header :=
      { features := 0, allot := 0, strands := 0, producer := 0, scratch := 0, divstack := 0, fused := false, cut := false
        seq := false, priv := 0, barriers := 0, acctiles := 0, mstream := 0, mlength := 0, trap := 0, param := 0
        seqbar := 0, qbind := [] }
    desc := d, die := die, cluster := cluster, vdie := die, vcluster := cluster, lanes := 0, strands := []
    scratch := [], barriers := [], timelines := [], commands := [], statuses := [], seq := none, param := []
    preempt := none, drained := false }

/-- The die that serves a virtual device: that of its PCIe port (R204). -/
def portDie (s : State) (vd : Nat) : Nat := if (vdevOf s vd).port = 0 then 0 else 2

/-! ## Waits for pages -/

/-- Page waits changed one by one: dropped or replaced. -/
def mapWaits (f : PageWait → Option PageWait) (ws : List PageWait) : List PageWait := ws.filterMap f

/-- The waits of a slot: once none is left it is ready and re-executes its instruction (R216, R222). -/
def slotWaits (f : PageWait → Option PageWait) (x : Slot) : Slot :=
  match x.wait with
  | .pages ws =>
    let left := mapWaits f ws
    { x with wait := if left = [] then .ready else .pages left }
  | _ => x

/-- The waits of a sequencer and of its engines. -/
def seqWaits (f : PageWait → Option PageWait) (q : Sequencer) : Sequencer :=
  let left := mapWaits f q.waits
  { q with waits := left, wait := q.wait && (q.waits.isEmpty || !left.isEmpty), opWaits := mapWaits f q.opWaits }

/-- The waits of a motif: its slots, its commands, its sequencer. -/
def motifWaits (f : PageWait → Option PageWait) (m : Motif) : Motif :=
  { m with
    strands := m.strands.map fun t => { t with live := t.live.map (slotWaits f), stack := t.stack.map (slotWaits f) }
    commands := m.commands.map fun c => { c with waits := mapWaits f c.waits }
    seq := m.seq.map (seqWaits f) }

/-- The waits of a motif, but for those of its halted strands: a resolve that reaches them is held until they resume (R373). -/
def runningWaits (f : PageWait → Option PageWait) (m : Motif) : Motif :=
  let after := motifWaits f m
  { after with strands := List.zipWith (fun t u => if t.halted then t else u) m.strands after.strands }

/-- Sticky writes of a cluster whose pages are resolved are performed (R294). -/
def flushSticky (s : State) (key : Nat) (ps : List PendSticky) : State :=
  ps.foldl (fun s p => writeStickyIn s (ghostMotif p.cid p.desc (key / 64) (key % 64)) p.handle p.epoch p.bits) s

/-- A saved motif changed. -/
def Saved.mapMotif (f : Motif → Motif) (v : Saved) : Saved := { v with motif := f v.motif }

/-- Every motif changed, resident or saved. -/
def mapMotifs (s : State) (f : Motif → Motif) : State :=
  let g := fun (c : Ctx) => { c with saved := c.saved.map (Saved.mapMotif f) }
  { s with motifs := s.motifs.map f, contexts := s.contexts.map g }

/-- The waits of every motif, resident or saved, changed by `g`, and of every cluster's pending sticky writes. -/
def changeWaitsBy (g : (PageWait → Option PageWait) → Motif → Motif) (s : State) (f : PageWait → Option PageWait) : State :=
  let s1 := mapMotifs s (g f)
  s1.clusters.foldl (fun s e =>
    let after := e.2.stickyPend.map fun p => { p with waits := mapWaits f p.waits }
    let go := after.filter fun p => p.waits.isEmpty
    if e.2.stickyPend.isEmpty then s
    else
      flushSticky (updCluster s (e.1 / 64) (e.1 % 64) fun c =>
        { c with stickyPend := after.filter fun p => !p.waits.isEmpty }) e.1 go) s1

/-- The waits of every motif, resident or saved, and of every cluster's pending sticky writes. -/
def changeWaits (s : State) (f : PageWait → Option PageWait) : State := changeWaitsBy motifWaits s f

/-- A wait that is over is dropped. -/
def dropWait (p : PageWait → Bool) (w : PageWait) : Option PageWait := if p w then none else some w

/-- Whether a slot waits on a page wait. -/
def Slot.waitsOn (p : PageWait → Bool) (x : Slot) : Bool :=
  match x.wait with
  | .pages ws => ws.any p
  | _ => false

/-- Whether a strand waits on a page wait. -/
def Strand.waitsOn (p : PageWait → Bool) (t : Strand) : Bool := (t.live ++ t.stack).any fun x => x.waitsOn p

/-- Every motif of the package, resident first. -/
def allMotifs (s : State) : List Motif := s.motifs ++ s.contexts.flatMap fun c => c.saved.map fun v => v.motif

/-- Whether the motif, by its engines or its sequencer, waits on a page wait. -/
def Motif.unitsWaitOn (p : PageWait → Bool) (m : Motif) : Bool :=
  (m.commands.any fun c => c.waits.any p) || (match m.seq with
    | some q => q.waits.any p || q.opWaits.any p
    | none => false)

/-- The image offset of the word whose engine work is at the head of a sequencer's queue. -/
def headOffset (q : Sequencer) : Nat :=
  match q.work with
  | .mma _ _ _ _ _ _ _ _ off :: _ => off
  | .mldacc _ _ _ off :: _ => off
  | _ => q.pc

/-- A page refused to a motif: kind 5 is a context error where a strand waits, error 4 of a command, sequencer fault 6
(R223, R300, R324, R406, log entry 20). -/
def refuseMotif (p : PageWait → Bool) (page : Nat) (s : State) (m : Motif) : State :=
  if (ctxOf s m.cid).stopped then s
  else
    match m.strands.find? fun t => t.waitsOn p with
    | some t => contextError s m t.index 19 5 page
    | none =>
      let refused := fun (c : Command) =>
        if c.waits.any p && c.op != .mstore then { c.fails 4 5 0 page with waits := [] } else c
      -- the earliest word that the page is refused to is the one that faults (R324, R343)
      let rows := fun (m0 : Motif) => ((m.commands.filter fun c => c.waits.any p && c.op == .mstore).reverse).foldl
        (fun m c => m.rowFault c 6 5 (committed c)) m0
      let after := fun (m0 : Motif) =>
        let m1 := match m0.seq with
          | some q => if q.waits.any p then m0.seqFault q.pc 6 5 [] q.work else m0
          | none => m0
        let m2 := rows m1
        match m2.seq, m.seq with
        | some q2, some q => if q.opWaits.any p && !q2.work.isEmpty then m2.seqFault (headOffset q) 6 5 [] [] else m2
        | _, _ => m2
      let change := fun (x : Motif) => if x.uid = m.uid then after { x with commands := x.commands.map refused } else x
      formRecord (mapMotifs s change) m.uid

/-- A host page refused to everything that waits for it (R223, R406). -/
def refusePage (s : State) (p : PageWait → Bool) (page : Nat) : State :=
  changeWaits ((allMotifs s).foldl (fun s m => refuseMotif p page s m) s) (dropWait p)

/-- What engines and the sequencer of a motif do with a resolution as failed: nothing of their own (R370). -/
def failFault (s : State) (f : PFault) : State :=
  if (ctxOf s f.cid).stopped then s
  else contextErrorOf s f.cid 22 f.kind (if f.stage2 then 0 else f.page)

/-- The strands of a context that wait on a fault. -/
def faultWaiters (s : State) (tag : Nat) : List Strand :=
  (s.motifs.flatMap fun m => m.strands).filter fun t => t.waitsOn fun w => w == .fault tag

/-- Whether a resolve with fail has to be held: every waiter is a halted strand (R373). -/
def failWaits (s : State) (tag : Nat) : Bool :=
  let ts := faultWaiters s tag
  !ts.isEmpty && ts.all (·.halted) && !(s.motifs.any fun m => m.unitsWaitOn fun w => w == .fault tag)

/-- A fault resolved: with retry every waiter re-executes, a halted strand once it resumes; with fail the context stops
(R370, R373). -/
def settleFault (s : State) (f : PFault) (fail : Bool) : State :=
  let s1 := { s with faults := s.faults.filter fun g => g.tag != f.tag }
  let drop := dropWait fun w => w == .fault f.tag
  if fail then failFault (changeWaits s1 drop) f else changeWaitsBy runningWaits s1 drop

/-- A resolve command for a tag of one of the two kinds of queue; an unknown tag is ignored (R370). -/
def resolveTag (s : State) (stage2 : Bool) (vd tag : Nat) (fail : Bool) : State :=
  match s.faults.find? fun f => f.tag == tag && f.stage2 == stage2 && f.reported && (stage2 || cidVd f.cid == vd) with
  | none => s
  | some f =>
    if fail && failWaits s tag then
      { s with faults := s.faults.map fun g => if g.tag = tag then { g with failHeld := true } else g }
    else settleFault s f fail

/-- Whether a wait is for a fault that has been resolved. -/
def resolvedWait (s : State) : PageWait → Bool
  | .fault tag => !(s.faults.any fun f => f.tag == tag)
  | _ => false

/-- Resolves with retry that were held while strands were halted are applied to those that no longer are (R373). -/
def settleRetries (s : State) : State := { s with motifs := s.motifs.map (runningWaits (dropWait (resolvedWait s))) }

/-- Resolves with fail that were held while strands were halted are applied once none of them is (R373). -/
def settleHeld (s : State) : State :=
  (s.faults.filter fun f => f.failHeld).foldl (fun s f => if failWaits s f.tag then s else settleFault s f true) s

end Sys2Proof.Machine
end

