-- ==== Sys2Proof/Machine/Resolve.lean ====
section
/-! DEFINITION. The device's own steps of the memory system: stores performed and copies refilled, walks,
invalidations, answers of the host's IOMMU, resolved faults, the format of a frame, the coherent window seen by the
host, and data arriving at a port (R214 to R225, R228, R243, R281 to R285, R370, R406, R407). -/

namespace Sys2Proof.Machine

/-- ACCESS_PERFORMED: a store that waits is performed, after the strand's earlier ones to its line (R228, R232, R243). -/
def execAccessPerformed (index : Nat) (s : State) : Host.Outcome State Fault Refusal :=
  match s.pendStores[index]? with
  | none => .next s
  | some d =>
    let before := s.pendStores.take index
    let tied := fun (e : PendStore) => e.uid == d.uid && e.strand == d.strand && e.target.line == d.target.line
    let rest := before.filter (fun e => !tied e) ++ s.pendStores.drop (index + 1)
    .next ((before.filter tied ++ [d]).foldl performPend { s with pendStores := rest })

/-- A copy filled again from its home, a host line through the port of its device; one whose line is poisoned is dropped
(R202, R204, R243, R285). -/
def refillCopy (s : State) (port : Nat) (l : L1Line) : Option L1Line :=
  match l.line.space with
  | .host =>
    some { l with filled := s.clock, bytes := (hostLineOf s l.line.addr port).bytes }
  | _ => if isPoisoned s l.line then none else some { l with filled := s.clock, bytes := readLine s l.line }

/-- L1_REFILL (R243): the copies of a line address in a quadrant. What their homes' reads find no access of a context has
met (R283, R284). -/
def execL1Refill (q : QuadRef) (line : Nat) (s0 : State) : Host.Outcome State Fault Refusal :=
  let mine := fun (l : L1Line) => l.quad == q.quad && l.line.addr == line / 128 * 128
  let c := clusterOf s0 q.die q.cluster
  let s := (c.l1.filter mine).foldl (fun s l => discoverBy s l.line none c.ctx) s0
  let port := (c.ctx.map fun cid => (vdevOf s (cidVd cid)).port).getD 0
  .next (updCluster s q.die q.cluster fun c =>
    { c with l1 := c.l1.filterMap fun l => if mine l then refillCopy s port l else some l })

/-- TRANSLATION_WALK: the translation is cached, a host page is asked for, or a replayable fault is reported (R214,
R216, R221, R369). -/
def execTranslationWalk (w : WalkReq) (s : State) : Host.Outcome State Fault Refusal :=
  match descOfCtx s w.cid with
  | none => .next s
  | some d =>
    let va := w.va.toNat
    let pod := va / 2 ^ 56 == 255
    let a := if pod then va % 2 ^ 44 else va
    if !canonical va || (pod && va / 2 ^ 44 % 4096 != ownChip s (cidVd w.cid)) ||
        (!pod && (decide (0x00FFFFFC00000000 ≤ va) || inSaveRegion d va)) then .next s
    else
      let view := motifView (ghostMotif w.cid d w.cl.die w.cl.cluster)
      let s1 := discoverWalk s w.cl.die w.cid d pod a
      let bits := accessBits w.access false false
      match walk s1 (some w.cl.die) w.cid d pod a with
      | .error f => .next (if f.replayable && !pod then (raiseFault s1 f.stage2 w.cid f.page f.kind bits).1 else s1)
      | .ok e =>
        match denied e w.access with
        | some (st, k) =>
          .next (if k != 12 && !pod then (raiseFault s1 st w.cid (deniedPage e st a) k bits).1 else s1)
        | none =>
          let s2 := cacheTlb s1 view e
          match pageTarget s2 view pod a 1 w.access with
          | .hostMiss page => .next (hostWait s2 view page w.access).1
          | _ => .next s2

/-! ## Invalidation -/

/-- The virtual address of an address of a context's local half or of its pod-shared region (R200). -/
def halfAddr (s : State) (cid : Cid) (pod : Bool) (a : Nat) : Nat :=
  if pod then 255 * 2 ^ 56 + ownChip s (cidVd cid) * 2 ^ 44 + a else a

/-- The cached translations that satisfy a test are dropped in every cluster and quadrant. -/
def dropTlb (s : State) (p : TlbEntry → Bool) : State :=
  { s with clusters := s.clusters.map fun e =>
      (e.1, { e.2 with tlb := e.2.tlb.filter fun t => !p t, qtlb := e.2.qtlb.filter fun t => !p t.2 }) }

/-- The entries that satisfy a test leave the walk caches, and no longer rule a 64 KiB page (R211, R214). -/
def dropWalks (s : State) (p : WalkEntry → Bool) : State :=
  { s with
    walkCaches := s.walkCaches.filterMap fun e =>
      let left := e.2.filter fun w => !p w
      if left.isEmpty then none else some (e.1, left)
    firstRead := s.firstRead.filter fun w => !p w }

/-- The bytes that an entry of a walk covers (R209, R211). -/
def WalkEntry.size (w : WalkEntry) : Nat := if w.level = 1 then 2 ^ 16 else entrySpan w.level

/-- Whether an invalidation command holds a reserved value for the register it is written to (R215, R423). -/
def InvCmd.bad (c : InvCmd) (stage : Nat) : Bool :=
  c.rsv != 0 || c.stage.toNat != stage || decide (2048 ≤ c.ctx.toNat) || decide (c.addr.toNat % 4096 ≠ 0)

/-- INVALIDATE: no access starts any more under a cached translation of the range (R215). -/
def execInvalidate (vd : Nat) (c : InvCmd) (s : State) : Host.Outcome State Fault Refusal :=
  if InvCmd.bad c 0 then .next (updVdev s vd fun v => { v with invcount := v.invcount ||| 0x80000000 })
  else
    let cid := cidOf vd c.ctx.toNat
    let hit := fun (e : TlbEntry) => e.cid == cid &&
      (c.pages == 0 || spansMeet c.addr.toNat (4096 * c.pages.toNat) (halfAddr s cid e.pod e.vbase) e.size)
    let read := fun (w : WalkEntry) => w.cid == cid && !w.stage2 &&
      (c.pages == 0 || spansMeet c.addr.toNat (4096 * c.pages.toNat) (halfAddr s cid w.pod w.base) w.size)
    .next { dropWalks (dropTlb s hit) read with invs := s.invs ++ [{ vd := vd, stage := 1 }] }

/-- S2_INVALIDATE: table entries of stage one, which were read under the old translations, go with them; of the entries that
rule 64 KiB pages of stage one, those whose pages lie in the range (R211, R215, R424). -/
def execS2Invalidate (vd : Nat) (c : InvCmd) (s : State) : Host.Outcome State Fault Refusal :=
  if InvCmd.bad c 1 then .next (updVdev s vd fun v => { v with s2invcount := v.s2invcount ||| 0x80000000 })
  else
    let hit := fun (e : TlbEntry) => cidVd e.cid == vd && !e.host &&
      (c.pages == 0 || spansMeet c.addr.toNat (4096 * c.pages.toNat) e.gpbase e.size)
    let read := fun (w : WalkEntry) => cidVd w.cid == vd &&
      (c.pages == 0 || (if w.stage2 then spansMeet c.addr.toNat (4096 * c.pages.toNat) w.base w.size
        else 1 < w.level || spansMeet c.addr.toNat (4096 * c.pages.toNat) (leafBase 1 w.e) w.size))
    .next { dropWalks (dropTlb s hit) read with invs := s.invs ++ [{ vd := vd, stage := 2 }] }

/-- INVALIDATION_COMPLETE: once no store that started before is still to be performed, the count advances (R215). -/
def execInvalidationComplete (vd stage : Nat) (s : State) : Host.Outcome State Fault Refusal :=
  let e : InvPending := { vd := vd, stage := stage }
  if !s.invs.contains e || s.pendStores.any fun d => cidVd d.cid == vd then .next s
  else
    let s1 := { s with invs := s.invs.erase e }
    .next (updVdev s1 vd fun v =>
      if stage = 1 then { v with invcount := bumpCount v.invcount } else { v with s2invcount := bumpCount v.s2invcount })

/-! ## The host's IOMMU -/

/-- The page requests of a device that have been sent: no more than the function's allotment (R222, R418). -/
def priSent (s : State) (vd : Nat) : List PriAsk := (s.pri.filter fun p => cidVd p.cid == vd).take 512

/-- A page request made, sent while the allotment lasts; one per page, PASID and access kind (R222, R406). -/
def sendPri (s : State) (p : PriAsk) : State :=
  if s.pri.any fun o => o.isFor (cidVd p.cid) p.pasid p.page p.access then s
  else
    let s1 := { s with pri := s.pri ++ [p] }
    if (priSent s1 (cidVd p.cid)).contains p then send s1 (.priRequest p.cid p.pasid p.page p.access) else s1

/-- The access kinds in a mask of kinds. -/
def maskKinds (mask : Nat) : List Access :=
  (if bitAt mask 0 then [.read] else []) ++ (if bitAt mask 1 then [.write] else []) ++ (if bitAt mask 2 then [.fetch] else [])

/-- Whether a reply grants an access kind. -/
def AtsReply.grants (r : AtsReply) : Access → Bool
  | .read => r.r
  | .write => r.w
  | .fetch => r.x

/-- A granted translation held by the clusters of a die that hold a motif of the PASID, and by the front end that asked;
each under the identifier of its own context (R221, R366). -/
def cacheAtc (s : State) (a : AtsAsk) (e : AtcEntry) : State :=
  let homes := (s.motifs.filter fun m => m.die == a.die && cidVd m.cid == cidVd a.cid && m.desc.pasid == a.pasid).map fun m =>
    (m.cluster, m.cid)
  (homes ++ if a.front then [(frontCluster, a.cid)] else []).foldl (fun s k => updCluster s a.die k.1 fun c =>
    { c with atc := c.atc.filter (fun x => !(x.cid == k.2 && x.pasid == e.pasid && x.page == e.page)) ++ [{ e with cid := k.2 }] }) s

/-- A refusal kept for the front end that waits for the page, which takes it at its next read (R223, R406). -/
def tellFront (s : State) (front : Bool) (key : Nat × Nat × Nat × Access) : State :=
  if front then { s with hostRefused := key :: s.hostRefused } else s

/-- An access kind that an ATS reply answers: waiters of a granted kind go on; a refused one asks for the page, for which its
waiters then wait, or is refused to them after a Success (R221 to R223, R406). -/
def settleAts (a : AtsAsk) (r : AtsReply) (s : State) (k : Access) : State :=
  let vd := cidVd a.cid
  let waits := fun (w : PageWait) => w == .ats vd a.pasid a.page k
  let key := (vd, a.pasid, a.page, k)
  let s1 := { s with hostTlbSuccess := s.hostTlbSuccess.filter fun x => x != key }
  if AtsReply.grants r k then changeWaits s1 (dropWait waits)
  else if s.hostTlbSuccess.contains key then tellFront (refusePage s1 waits a.page) a.front key
  else
    changeWaits (sendPri s1 { cid := a.cid, pasid := a.pasid, page := a.page, access := k, front := a.front }) fun w =>
      some (if waits w then .pri vd a.pasid a.page k else w)

/-- ATS_RESPONSE: a grant is cached; what it does not grant asks for the page, or is refused after a Success (R221 to
R223, R406). -/
def execAtsResponse (r : AtsReply) (s : State) : Host.Outcome State Fault Refusal :=
  let pasid := r.pasid.toNat
  let page := r.page.toNat / 4096 * 4096
  let mine := fun (a : AtsAsk) => a.isFor r.die r.vd pasid page
  match s.ats.find? mine with
  | none => .next s
  | some a =>
    let s1 := { s with ats := s.ats.filter fun x => !mine x }
    let e : AtcEntry := { cid := a.cid, pasid := pasid, page := page, frame := r.frame.toNat / 4096 * 4096
                          r := r.r, w := r.w, x := r.x }
    let s2 := if r.r || r.w || r.x then cacheAtc s1 a e else s1
    .next ((maskKinds a.mask).foldl (settleAts a r) s2)

/-- The resident motifs that wait on a page wait ask the IOMMU again; saved ones ask as they are restored (R406, R407). -/
def askAgain (s : State) (p : PageWait → Bool) (page : Nat) (a : Access) : State :=
  (s.motifs.filter fun m => !(ctxOf s m.cid).stopped && (m.unitsWaitOn p || m.strands.any fun t => t.waitsOn p)).foldl
    (fun s m => (hostWait s (motifView m) page a).1) s

/-- Whether anything that has not been stopped still waits for a page request: a front end, a motif, a sticky write (R407). -/
def priWanted (s : State) (p : PriAsk) (waits : PageWait → Bool) : Bool :=
  (p.front && !(ctxOf s p.cid).stopped) ||
  ((allMotifs s).any fun m => !(ctxOf s m.cid).stopped && (m.unitsWaitOn waits || m.strands.any fun t => t.waitsOn waits)) ||
  s.clusters.any fun e => e.2.stickyPend.any fun x => x.waits.any waits

/-- PRI_RESPONSE (R222, R223, R406, R407): one that matches no outstanding request is ignored, and so is one for which no
context that goes on still waits. -/
def execPriResponse (r : PriReply) (s : State) : Host.Outcome State Fault Refusal :=
  let pasid := r.pasid.toNat
  let page := r.page.toNat / 4096 * 4096
  let key := (r.vd, pasid, page, r.access)
  match (priSent s r.vd).find? fun p => p.isFor r.vd pasid page r.access with
  | none => .next s
  | some asked =>
    let s1 := { s with pri := s.pri.filter fun p => p != asked }
    let s2 := match (priSent s1 r.vd).find? fun k => !(priSent s r.vd).contains k with
      | some p => send s1 (.priRequest p.cid p.pasid p.page p.access)
      | none => s1
    let waits := fun (w : PageWait) => w == .pri r.vd pasid page r.access
    if !priWanted s asked waits then .next s2
    else match r.result with
    | .success =>
      let s3 := askAgain { s2 with hostTlbSuccess := key :: s2.hostTlbSuccess } waits page r.access
      let swap := fun (w : PageWait) => if waits w then some (.ats r.vd pasid page r.access) else some w
      let s4 := { s3 with motifs := s3.motifs.map (motifWaits swap) }
      .next (changeWaits s4 (dropWait waits))
    | _ => .next (tellFront (refusePage s2 waits page) asked.front key)

/-- Whether a device copy of a host line belongs to pages that an invalidation names (R224). -/
def lineOfPages (s : State) (vd : Nat) (pasid : Option Nat) (base size : Nat) (h : HostLine) : Bool :=
  let mine := fun (p : Nat) => match pasid with
    | some q => p == q
    | none => true
  (h.users.any fun u => u.vd == vd && mine u.pasid && spansMeet u.va 128 base size) ||
    (h.port == (vdevOf s vd).port && s.clusters.any fun e => e.2.atc.any fun t =>
      cidVd t.cid == vd && mine t.pasid && t.frame == h.line / 4096 * 4096 && spansMeet (t.page + h.line % 4096) 128 base size)

/-- ATS_INVALIDATION: translations go, started stores end on the old page, changed lines are written back, every copy is
dropped, and the request is answered (R224, R407). -/
def execAtsInvalidation (vd : Nat) (pasid : Option (BitVec 20)) (base : BitVec 64) (size : Nat) (s : State) :
    Host.Outcome State Fault Refusal :=
  let p := pasid.map (·.toNat)
  let lo := base.toNat
  let stores := performWhere s fun d => d.target.space == .host && cidVd d.cid == vd
  let gone := stores.hostLines.filter (lineOfPages stores vd p lo size)
  let s1 := flushLines stores (fun h => gone.contains h) true
  let hit := fun (a : AtcEntry) => cidVd a.cid == vd && (p == none || p == some a.pasid) && spansMeet a.page 4096 lo size
  let s3 := { s1 with clusters := s1.clusters.map fun e => (e.1, { e.2 with atc := e.2.atc.filter fun a => !hit a }) }
  .next (send s3 (.atsDone lo size))

/-! ## Resolving faults -/

/-- RESOLVE_RETRY (R370, R371). -/
def execResolveRetry (vd tag : Nat) (s : State) : Host.Outcome State Fault Refusal :=
  .next (resolveTag s false vd tag false)

/-- RESOLVE_FAIL (R370, R373). -/
def execResolveFail (vd tag : Nat) (s : State) : Host.Outcome State Fault Refusal :=
  .next (resolveTag s false vd tag true)

/-- S2_RESOLVE_RETRY (R370, R424). -/
def execS2ResolveRetry (tag : Nat) (s : State) : Host.Outcome State Fault Refusal := .next (resolveTag s true 0 tag false)

/-- S2_RESOLVE_FAIL (R370, R424). -/
def execS2ResolveFail (tag : Nat) (s : State) : Host.Outcome State Fault Refusal := .next (resolveTag s true 0 tag true)

/-! ## Formatting a frame -/

/-- FRAME_FORMAT: the command is checked, translations into the frame go, and the format begins (R219, R423). -/
def execFrameFormat (vd : Nat) (cmd : BitVec 64) (s : State) : Host.Outcome State Fault Refusal :=
  let v := vdevOf s vd
  let mode := cmd.toNat % 4
  let frame := v.fmtaddr / 2 ^ 21
  if v.fmtBusy.isSome then .next s
  else if mode = 3 ∨ v.fmtaddr % 2 ^ 21 ≠ 0 ∨ inWindow v.fmtaddr ∨ (frameOf s v.fmtaddr).owner ≠ some vd then
    .next (updVdev s vd fun v => { v with fmtError := true })
  else
    let s1 := performWhere s fun d => d.target.space == .device && d.target.addr / 2 ^ 21 == frame
    let s2 := dropTlb s1 fun e => !e.host && !e.tier && spansMeet e.pbase e.size (frame * 2 ^ 21) (2 ^ 21)
    let s3 := dropWalks s2 fun w => w.level == 1 && spansMeet (leafBase 1 w.e) (2 ^ 16) (frame * 2 ^ 21) (2 ^ 21)
    .next (updVdev s3 vd fun v => { v with fmtBusy := some (frame, mode), fmtError := false })

/-- The frame as a format leaves it: lines of zero bytes in the zero form, no error, the mode recorded (R219, R286). -/
def formatFrame (s : State) (frame mode : Nat) : State :=
  let a := frame * 2 ^ 21
  let inside := fun (p : PAddr) => p.space == .device && p.addr / 2 ^ 21 == frame
  let f := frameOf s a
  let s1 := updL1 s fun l => l.filter fun c => !inside c.line
  { s1 with
    mem := tclear a (2 ^ 21) s1.mem
    tags := tclear (a / 128) 16384 s1.tags
    latent := s1.latent.filter fun e => !inside e.1
    frames := tset Frame.reset s1.frames frame { f with mode := mode } }

end Sys2Proof.Machine
end

