-- ==== Sys2Proof/Machine/Schedule.lean ====
section
/-! DEFINITION. Fetching the two streams (R21, R24, R323), the slot scheduler (R138), the sequencers and the engine work
that can move, and the state with one instruction loaded (log entries 4 and 5). -/

namespace Sys2Proof.Machine

/-- A word fetched for a slot, or how the fetch stops it (R24). -/
def fetchWord (s : State) (q : Iss) (va : Nat) : Except Stop (State × Word) :=
  let t := resolve s q.view none va 4 .fetch
  match targetStop s q.view .fetch [(va, t)] with
  | some e => .error e
  | none =>
    match poisonStop s q.m.cid [(va, t)] with
    | some e => .error e
    | none =>
      match agentRead s q.m t 4 with
      | none => .error (.trap 9 (BitVec.ofNat 32 (va / 128 * 128)))
      | some b => .ok (cacheTargets (discoverAll s q.m.cid [(va, t)]) q.view [t], BitVec.ofNat 32 (leNat b))

/-- The 32 bytes of a spilled slot (R133). -/
def Slot.entry (x : Slot) : List Byte :=
  let w : Nat × Nat := match x.wait with
    | .ready => (0, 0)
    | .join t _ _ => (1, t)
    | _ => (2, 0)
  leBytes 8 x.pc.toNat ++ leBytes 12 x.members.toNat ++ leBytes 4 w.1 ++ leBytes 4 w.2 ++ leBytes 4 0

/-- One line of a strand's divergence stack written where it differs from what its home holds: the system region is never
compressed, and a poisoned line keeps nothing (R199, R257, R270). -/
def storeStackLine (s : State) (q : Iss) (va : Nat) (bytes : List Byte) : Target → State
  | .phys p e =>
    match agentRead s q.m (.phys p e) bytes.length with
    | some b => if b = bytes then s else agentWrite s q.m (.phys p { e with comp := false }) va bytes
    | none => discover s p q.m.cid
  | _ => s

/-- The bytes of whole lines, each with its number. -/
def linePieces : Nat → Nat → List Byte → List (Nat × List Byte)
  | 0, _, _ => []
  | k + 1, i, b => if b.isEmpty then [] else (i, b.take 128) :: linePieces k (i + 1) (b.drop 128)

/-- A strand's divergence stack as its hardware keeps it in the system region, through the context's own tables: a page that
the driver has not mapped is a replayable fault, and the strand waits (R133, R199; log entry 9). -/
def storeStack (s : State) (q : Iss) : Except Stop State :=
  if q.t.stack.isEmpty then .ok s
  else
    let bytes := q.t.stack.flatMap Slot.entry
    let va := systemBase q.t.place
    let t := pageTarget s q.view false va bytes.length .write
    match targetStop s q.view .write [(va, t)] with
    | some e => .error e
    | none =>
      .ok ((linePieces 32 0 bytes).foldl (fun s l =>
        let line := match t with
          | .phys p e => Target.phys { p with addr := p.addr + 128 * l.1 } e
          | t => t
        storeStackLine s q (va + 128 * l.1) l.2 line) (cacheTargets s q.view [t]))

/-- The words of the instruction at a slot's PC: the second only after a prefix (R21, R77). -/
def fetchWords (s : State) (q : Iss) : Except Stop (State × List Word) :=
  match fetchWord s q q.pc.toNat with
  | .error e => .error e
  | .ok (s1, w0) =>
    if wordOp w0 = 0xFF then
      match fetchWord s1 q (q.pc + 4).toNat with
      | .error e => .error e
      | .ok (s2, w1) => .ok (s2, [w0, w1])
    else .ok (s1, [w0])

/-- The instruction that the words of a slot's PC are, or the step that words of no instruction take (R77, R79). -/
def instrAt (ws : List Word) : Instr :=
  match decodeStrand ws with
  | .ok (i, _) => i
  | .error _ =>
    match ws with
    | [w0, w1] => .unassignedOpcode { sequencer := false, pre := some w0, word := w1 }
    | w0 :: _ => .unassignedOpcode { sequencer := false, pre := none, word := w0 }
    | [] => .unassignedOpcode { sequencer := false, pre := none, word := 0 }

/-- The live position that holds the turn: the younger first, the older second (R138). -/
def turnSlot (t : Strand) : Nat := if t.turn = 0 then t.live.length - 1 else 0

/-- The grant of a strand: turns of slots in a blocking wait pass at once, up to a whole round of the ring (R138). -/
def grantSlot : Nat → Strand → Option (Strand × Nat)
  | 0, _ => none
  | n + 1, t =>
    match t.live[turnSlot t]? with
    | none => none
    | some x => if x.canIssue then some (t, turnSlot t) else grantSlot n (passTurn t)

/-- The grant of a strand, tried over every turn that the ring of its slots holds. -/
def Strand.grant (t : Strand) : Option (Strand × Nat) :=
  if t.halted || t.stopped then none else grantSlot (2 * (t.live.length + t.stack.length) + 2) t

/-- Whether a motif's strands and sequencer may issue: their context has not been stopped (R365). -/
def motifRuns (s : State) (m : Motif) : Bool := !(ctxOf s m.cid).stopped

/-- Whether a strand may issue as far as a restoration goes: while pending faults of strands are to be retried, those strands
alone; while such of commands are, none (R381). -/
def Motif.letsIssue (m : Motif) (j : Nat) : Bool :=
  match m.strandRetries with
  | [] => m.commandRetries.isEmpty
  | rs => rs.contains (.strand j)

/-- A strand of a motif that may issue, with the grant of its slots (R138, R365, R381). -/
def strandGrant (s : State) (m : Motif) (j : Nat) : Option (Strand × Nat) :=
  if motifRuns s m && m.letsIssue j then (strandOf m j).bind Strand.grant else none

/-- One issue of a strand: the slot that its scheduler grants, the stack that it leaves, its words fetched; the instruction
to execute, or the state that a stopped fetch leaves. -/
def planIssue (s : State) (uid j : Nat) : State × Option Instr :=
  match motifOf s uid with
  | none => (s, none)
  | some m =>
    match strandGrant s m j with
    | none => ({ s with clock := s.clock + 1 }, none)
    | some (t, k) =>
      let retried := fun (m : Motif) => { m with retries := m.retries.filter fun r => r != .strand j }
      let s1 := { updMotif (updStrand s uid j fun _ => t) uid retried with cur := some (.slot uid j k) }
      match issuerOf s1 with
      | none => (s1, none)
      | some q =>
        match (storeStack s1 q).bind fun s2 => fetchWords s2 q with
        | .ok (s2, ws) => (s2, some (instrAt ws))
        | .error e => (spend (settle q s1 e) m 1, none)

/-- Bytes of the sequencer's stream, or how the fetch stops it (R323, R324). -/
def fetchSeq (s : State) (q : SeqIss) : Except SeqStop (State × Word) :=
  let h := q.m.header
  if q.off < h.mstream ∨ h.mstream + h.mlength < q.off + 4 then .error (.fault 11 q.off [])
  else
    let va := (q.m.image + BitVec.ofNat 64 q.off).toNat
    let t := agentTarget s q.m va 4 .fetch
    match hardOf [(va, t)] with
    | some (_, f) => .error (.faultIn 6 f.kind (noticeFault s (motifView q.m) f))
    | none =>
      let r := pageWaits s (motifView q.m) .fetch false true [t]
      if r.2 ≠ [] then .error (.pages r.2 r.1)
      else if formatting s t then .error (.wait s)
      else
        match agentRead s q.m t 4 with
        | none => .error (.faultIn 7 va (discoverAll s q.m.cid [(va, t)]))
        | some b => .ok (cacheTargets (discoverAll s q.m.cid [(va, t)]) (motifView q.m) [t], BitVec.ofNat 32 (leNat b))

/-- One turn of a motif's sequencer. -/
def planSequence (s : State) (uid : Nat) : State × Option Instr :=
  let s1 := { s with cur := some (.sequencer uid) }
  match seqIssuerOf s1 with
  | none => (s1, none)
  | some q =>
    if q.q.ended || !q.q.waits.isEmpty || q.q.saveHere || !motifRuns s q.m || !q.m.retried then ({ s1 with clock := s.clock + 1 }, none)
    else
      match fetchSeq s1 q with
      | .ok (s2, w) =>
        (s2, some (match decodeSeq w with
          | .ok i => i
          | .error _ => .unassignedOpcode { sequencer := true, pre := none, word := w }))
      | .error e => (seqStep .hoopEvaluation true (fun _ _ => .error e) q s1, none)

/-! ## What can move -/

/-- The sequencers that can take a turn. -/
def turners (s : State) : List Nat :=
  s.motifs.filterMap fun m => match m.seq with
    | some q => if !q.ended && q.waits.isEmpty && !q.saveHere && motifRuns s m && m.retried then some m.uid else none
    | none => none

/-- Engine work that the device does by itself: a K-step or queued operation, a chunk, a completion. -/
def dueSteps (s : State) : List Instr :=
  s.motifs.flatMap fun m =>
    if !motifRuns s m then []
    else
      (match m.seq with
        | some q => if q.work.isEmpty || !q.opWaits.isEmpty then [] else [Instr.kStep m.uid]
        | none => []) ++
      m.commands.flatMap fun c =>
        if c.complete || !c.waits.isEmpty || (m.drained && c.op != .mstore) || !m.letsChunk c then []
        else
          match (List.range (min c.chunks c.limit)).find? fun i => !c.done.contains i with
          | some i => [Instr.chunkPerformed m.uid c.tl c.number i]
          | none => [Instr.commandComplete m.uid c.tl c.number]

/-! ## Loading one instruction for the next step -/

/-- A strand of 96 lanes at an address, as a launch leaves it (R17, R131). -/
def Strand.atStart (index place lanes : Nat) (pc : Dword) : Strand :=
  let launched : LaneMask := BitVec.ofNat 96 (2 ^ min 96 lanes - 1)
  { index := index, place := place, live := [{ pc := pc, members := launched, wait := .ready, held := false }]
    stack := [], turn := 0, sregs := [], vregs := [], mask := launched, launched := launched, ended := 0, wb := 0
    handler := false, trappc := 0, trapcause := 0, trapval := 0, frm := 0, fflags := 0, fexc := 0, srseed := 0
    gens := [], evpend := 0, evtimer := 0, armed := false, lastPop := 0, pending := [], halted := false
    stopped := false }

/-- A sequencer as a placement leaves it (R319, R321). -/
def Sequencer.atStart (pc : Nat) : Sequencer :=
  let tile : Tile := { rows := [], f64 := false, flags := 0 }
  { pc := pc, k := [], scale := 0x3F800000, act := 0, biasOn := false, biasHandle := 0, borg := 0
    tiles := [tile, tile, tile, tile], work := [], opWaits := [], arrived := [], wait := false, waits := [], ended := false
    fault := none, recorded := false, queued := 0, saveHere := false }

/-- The header of the program that holds one loaded instruction (log entry 5). -/
def loadedHeader (seq : Bool) : Header :=
  { features := 0x1FFF, allot := 128, strands := 1, producer := 0, scratch := 16, divstack := 4, fused := false
    cut := true, seq := seq, priv := 0, barriers := 0xFFFF, acctiles := 0xF, mstream := if seq then 0x100 else 0
    mlength := if seq then 8 else 0, trap := 0, param := 0, seqbar := if seq then 0xFFFF else 0, qbind := [0, 0, 0, 0] }

/-- The descriptor of the context of a loaded instruction (log entry 5). -/
def loadedDesc : Desc :=
  { sroot := 0, podroot := 0, pbase := 0, pslots := 1, pasid := 0, htbase := 0, hcount := 0, intercept := false
    cutRight := false, deadline := 280000, drainlim := 70000, mslots := 0, msave := 0 }

/-- The motif of a loaded instruction, of one strand at the first code word (log entry 5). -/
def loadedMotif (uid : Nat) (seq : Bool) : Motif :=
  { uid := uid, cid := 0, ring := 0, record := 0, stage := 0, motifid := 0, image := 0x200000
    header := loadedHeader seq, desc := loadedDesc, die := 0, cluster := 0, vdie := 0, vcluster := 0, lanes := 96
    strands := [Strand.atStart 0 0 96 0x200100], scratch := [], barriers := []
    timelines := List.replicate 4 { issued := 0, done := 0 }, commands := [], statuses := []
    seq := if seq then some (Sequencer.atStart 0x100) else none, param := [], preempt := none
    drained := false }

/-- The translation of the 4 KiB code page of a loaded instruction: executable, to the frame address 0x200000. -/
def loadedPage : TlbEntry :=
  { cid := 0, pod := false, vbase := 0x200000, size := 4096, pbase := 0x200000, r := true, w := false, w1 := false
    x := true, x1 := true, sealed := false, snap := false, comp := false, ord := 0, ecc := 1, tier := false
    host := false, gpbase := 0x200000, via := 0x200000 }

/-- The eight bytes that hold an instruction of at most two words, the first at the lowest address. -/
def loadedBytes (nbits w : Nat) : List Byte := leBytes 8 (w % 2 ^ nbits)

/-- The state with one instruction loaded as the program that the next step runs: a motif of one strand (and a sequencer
for a word of its stream), the translation of its code page, the bytes, the features a launch would have required, a
place at the head of its quadrant's order list with tokens for one grant, and the turn (log entry 5). -/
def loadWord (s : State) (nbits w : Nat) : State :=
  let seq := seqOpcode (wordOp (BitVec.ofNat 32 (w % 2 ^ nbits)))
  let uid := s.nextUid
  let s1 := updCluster s 0 0 fun c => { c with tlb := loadedPage :: c.tlb, order := (uid, 0) :: c.order, waited := [] }
  let s2 := { s1 with
    arbiters := tset Arbiter.reset s1.arbiters 0
      { tget Arbiter.reset s1.arbiters 0 with tok := tset 0 (tget Arbiter.reset s1.arbiters 0).tok 0 (3 * 65536), since := s1.clock }
    vdevs := s1.vdevs.map fun e => if (e.2.fmtBusy.map (·.1)) = some 1 then (e.1, { e.2 with fmtBusy := none }) else e }
  let s3 := updVdev s2 0 fun v => { v with accepted := s.published, share := { v.share with depth := 65535 :: v.share.depth.drop 1 } }
  { s3 with
    heldDies := []
    motifs := loadedMotif uid seq :: s.motifs
    nextUid := uid + 1
    contexts := s.contexts.filter fun c => c.cid != 0
    mem := writeBytes s.mem 0x200100 (loadedBytes nbits w)
    tags := tset 1 s.tags (0x200100 / 128) 0
    latent := s.latent.filter fun e => !(e.1 == { space := .device, addr := 0x200100 })
    agenda := (if seq then .sequence uid else .issue uid 0) :: s.agenda }

end Sys2Proof.Machine
end

