-- ==== Sys2Proof/Machine/Launch.lean ====
section
/-! DEFINITION. From the host's ring to a resident motif: rings and their notify pages, the front end's checks, the
hoop, dependences and completion, the dispatcher, and the switch of a cluster's context (R140 to R150, R181 to R190). -/

namespace Sys2Proof.Machine

/-! ## Rings -/

/-- The containment identifier of a ring's context. -/
def ringCid (r : Ring) : Cid := cidOf (r.owner.getD 0) r.ctx

/-- A ring stops with an error code: the failed record, if one is, and the entry of its device (R183, R185, R368). -/
def failRing (s : State) (ring code : Nat) (record : Option Nat) : State :=
  let r := ringOf s ring
  let s1 := updRing s ring fun r => { r with stopped := true, code := code, failed := r.failed ++ record.toList }
  reportErr s1 { cid := ringCid r, code := code, detail := ring }

/-- TAIL_WRITE (R182, R183, R419): a ring that has stopped keeps the code of its failure; a virtual function's write to the
page of a ring that is not its own is ignored. -/
def execTailWrite (page : NotifyPage) (tail : BitVec 64) (s : State) : Host.Outcome State Fault Refusal :=
  let r := ringOf s page.ring
  let shown := match page.func with
    | .pf => true
    | .vf vd => r.owner == some vd
  if !r.enable || !shown then .next s
  else if tail.toNat < r.tail ∨ r.fetched + 2 ^ r.logsize < tail.toNat then
    .next (if r.stopped then s else failRing s page.ring 6 none)
  else .next (updRing s page.ring fun r => { r with tail := tail.toNat })

/-- The begun records of a ring that is disabled run on under a number of their own, and the others are dropped. -/
def orphanRecords (s : State) (ring : Nat) : State :=
  let o := 1024 + s.nextUid
  let move := fun (m : Motif) => if m.ring = ring then { m with ring := o } else m
  let kept := (s.records.filter fun r => r.ring != ring || r.begun).map fun r =>
    if r.ring = ring then { r with ring := o } else r
  { mapMotifs s move with records := kept, nextUid := s.nextUid + 1 }

/-! ## Completion values -/

/-- The count of records begun or passed over in order, after those that have failed or begun beyond it. -/
def skipBegun : Nat → Ring → Ring
  | 0, r => r
  | n + 1, r => if r.doneList.contains (r.begun + 1) then skipBegun n { r with begun := r.begun + 1 } else r

/-- The completion value advanced over the records completed; the rings' interrupts that this covers (R187). A failed record
is not kept, so that one with its interrupt flag raises none when the value covers it after a resume: the model's choice (log entry
93). -/
def coverRecords : Nat → State → Nat → State
  | 0, s, _ => s
  | n + 1, s, ring =>
    let r := ringOf s ring
    let k := r.completed + 1
    if !r.doneList.contains k then s
    else
      let s1 := updRing s ring fun r => { r with completed := k, doneList := r.doneList.filter fun x => x != k }
      let rings := match recordOf s1 ring k with
        | some rec => rec.flags.getLsbD 1
        | none => false
      let s2 := { s1 with records := s1.records.filter fun x => !(x.ring == ring && x.number == k) }
      coverRecords n (if rings then send s2 (.msi (r.owner.getD 0) ring) else s2) ring

/-- A record counted as completed (R185, R187). -/
def countDone (s : State) (ring k : Nat) : State :=
  let s1 := updRing s ring fun r => skipBegun (r.doneList.length + 1) { r with doneList := r.doneList ++ [k] }
  coverRecords ((ringOf s1 ring).doneList.length) s1 ring

/-- RING_RESUME: a stopped ring goes on after its failed records, which count as completed (R181, R185). -/
def execRingResume (vd ring : Nat) (s : State) : Host.Outcome State Fault Refusal :=
  let r := ringOf s ring
  if r.owner ≠ some vd ∨ !r.enable ∨ !r.stopped ∨ (ctxOf s (ringCid r)).stopped then .next s
  else
    let s1 := updRing s ring fun r => { r with stopped := false, code := 0, failed := [] }
    .next (r.failed.foldl (fun s k => countDone s ring k) s1)

/-! ## What the front end reads -/

/-- How a read of the front end ends other than with bytes: an error of R185, or a wait for a host page or another chip. -/
inductive FrontStop where
  | bad (code : Nat) (s : State)
  | wait (s : State)
  deriving DecidableEq, Repr

/-- Who asks another chip for a ring's front end. -/
def frontAsker (cid : Cid) (ring va : Nat) : Asker :=
  { cid := cid, uid := 0, strand := 3000 + ring, pc := BitVec.ofNat 64 va, lanes := 0 }

/-- The requests of a ring's front end forgotten. -/
def frontForget (s : State) (ring : Nat) : State :=
  { s with requests := s.requests.filter fun r => !(r.strand == 3000 + ring && r.answer.isSome) }

/-- Eight bytes as the front end reads them: host pages from host memory, after their changed lines are written back; a
frame that is being formatted is waited for (R185, R197, R219). -/
def frontPiece (s : State) (m : Motif) (ring va : Nat) : Except FrontStop (State × List Byte) :=
  let key := (cidVd m.cid, m.desc.pasid, va / 4096 * 4096, Access.read)
  let t := resolve s (motifView m) none va 8 .read
  match t with
  | .phys p _ =>
    if formatting s t then .error (.wait s)
    else if p.space = .host then
      let s1 := flushLines s (fun h => h.line == p.line.addr) false
      if (latentAt s p).isSome then .error (.bad 4 s1) else .ok (s1, readBytes s1.hostMem p.addr 8)
    else if isPoisoned s p ∧ p.space ≠ .window then .error (.bad 4 (discover s p m.cid))
    else
      let s1 := discover s p m.cid
      .ok (s1, readBytes (spaceMem s1 p.space) p.addr 8)
  | .hostMiss page =>
    if s.hostRefused.contains key then .error (.bad 4 { s with hostRefused := s.hostRefused.filter fun k => k != key })
    else .error (.wait (hostWait s (motifView m) page .read).1)
  | .pod chip off =>
    let k := frontAsker m.cid ring va
    match requestBy s k 0 1 with
    | none => .error (.wait (sendBy s k 0 chip off 1 8 0 []))
    | some r =>
      match r.answer with
      | none => .error (.wait s)
      | some (0, b) => .ok (s, b.take 8)
      | some _ => .error (.bad 4 s)
  | .fault f => .error (if f.kind = 0 then .wait s else .bad 4 (noticeFault s (motifView m) f))
  | .scratch _ => .error (.bad 4 s)

/-- A run of n pieces of eight bytes from an address on. -/
def frontRead (m : Motif) (ring : Nat) : Nat → Nat → State → Except FrontStop (State × List Byte)
  | 0, _, s => .ok (s, [])
  | n + 1, va, s =>
    match frontPiece s m ring va with
    | .error e => .error e
    | .ok (s1, b) =>
      match frontRead m ring n ((va + 8) % 2 ^ 64) s1 with
      | .error e => .error e
      | .ok (s2, bs) => .ok (s2, b ++ bs)

/-- A kernel header of 256 bytes; none when it breaks R149 in itself (R150). -/
def parseHeader (b : List Byte) : Option Header :=
  let allot := fieldAt b 0x28 2
  let strands := fieldAt b 0x2A 1
  let producer := fieldAt b 0x2B 1
  let scratch := fieldAt b 0x2C 2
  let divstack := fieldAt b 0x2E 1
  let flags := fieldAt b 0x2F 1
  let priv := fieldAt b 0x30 4
  let barriers := fieldAt b 0x34 2
  let acctiles := fieldAt b 0x36 1
  let mstream := fieldAt b 0x38 4
  let mlength := fieldAt b 0x3C 4
  let trap := fieldAt b 0x40 4
  let param := fieldAt b 0x44 2
  let seqbar := fieldAt b 0x46 2
  let qbind := (b.drop 0x48).take 4
  let seq := bitAt flags 2
  if fieldAt b 0 4 ≠ 0x454E4C4B ∨ fieldAt b 4 2 ≠ 1 ∨ fieldAt b 6 2 ≠ 256 ∨ allot < 32 ∨ 512 < allot ∨ allot % 32 ≠ 0 ∨
      strands = 0 ∨ 32 < strands ∨ strands ≤ producer ∨ 512 < scratch ∨ 64 < divstack ∨ 8 ≤ flags ∨ 65536 < priv ∨
      priv % 16 ≠ 0 ∨ 16 ≤ acctiles ∨ fieldAt b 0x37 1 ≠ 0 ∨ mstream % 256 ≠ 0 ∨ mlength % 4 ≠ 0 ∨ trap % 4 ≠ 0 ∨
      4096 < param ∨ param % 8 ≠ 0 then none
  else if (qbind.any fun x => decide (x.toNat / 8 % 16 ≠ 0)) || decide (fieldAt b 0x4C 4 % 4 ≠ 0) ||
      decide (fieldAt b 0x50 4 % 256 ≠ 0) || decide (fieldAt b 0x58 168 ≠ 0) || (seq != decide (mstream ≠ 0)) ||
      decide (seqbar &&& (65535 - barriers) ≠ 0) || (!seq && decide (seqbar ≠ 0)) then none
  else
    some { features := fieldAt b 8 32, allot := allot, strands := strands, producer := producer, scratch := scratch
           divstack := divstack, fused := bitAt flags 0, cut := bitAt flags 1, seq := seq, priv := priv
           barriers := BitVec.ofNat 16 barriers, acctiles := BitVec.ofNat 4 acctiles, mstream := mstream
           mlength := mlength, trap := trap, param := param, seqbar := BitVec.ofNat 16 seqbar, qbind := qbind }

/-- The strands of a motif that stand on a quadrant (R140, R148). -/
def strandsOn (n quad : Nat) : Nat := (n + 3 - quad) / 4

/-- Whether one motif fits an empty cluster (R140, R148, R150). -/
def Header.fitsEmpty (h : Header) : Bool :=
  (List.range 4).all fun q => decide (strandsOn h.strands q ≤ 16 ∧ strandsOn h.strands q * h.allot ≤ 1024)

/-- The checks of a stage's header that need the pattern and the device (R150, R421, R422). -/
def Header.accepted (h : Header) (v : VDev) (nqueues : Nat) (input : Option Nat) : Bool :=
  let bound := h.qbind.zipIdx.filter fun e => decide (128 ≤ e.1.toNat)
  v.accepted.getLsbD 0 && decide (BitVec.ofNat 256 h.features &&& ~~~v.accepted = 0) &&
  (bound.isEmpty || v.accepted.getLsbD 12) &&
  (bound.all fun e => decide (e.1.toNat % 8 < nqueues) &&
    (match input with
     | some i => e.2 == 0 || e.1.toNat % 8 != i
     | none => true)) &&
  h.fitsEmpty

/-- A stage as a record names it, before its header is read: image, grid count, input queue. -/
structure StageRef where
  image : Nat
  grid : Nat
  input : Option Nat
  deriving DecidableEq, Repr

/-- A pattern descriptor of 400 bytes; none when malformed (R143, R184). -/
def parsePattern (b : List Byte) : Option (List StageRef × List PQueue) :=
  let nst := fieldAt b 4 1
  let nq := fieldAt b 5 1
  let stage := fun (j : Nat) => (b.drop (0x10 + 16 * j)).take 16
  let queue := fun (j : Nat) => (b.drop (0x90 + 32 * j)).take 32
  let badStage := fun (j : Nat) =>
    let e := stage j
    let inp := fieldAt e 12 1
    if nst ≤ j then decide (leNat e ≠ 0)
    else decide (fieldAt e 0 8 % 256 ≠ 0) || decide (fieldAt e 13 3 ≠ 0) || decide (inp / 8 % 16 ≠ 0) ||
      (bitAt inp 7 == decide (fieldAt e 8 4 ≠ 0)) || (bitAt inp 7 && decide (nq ≤ inp % 8)) ||
      (!bitAt inp 7 && decide (inp ≠ 0))
  let badQueue := fun (j : Nat) =>
    let e := queue j
    let cap := fieldAt e 8 4
    if nq ≤ j then decide (leNat e ≠ 0)
    else decide (cap = 0) || decide (2 ^ 20 < cap) || decide (fieldAt e 16 4 ≤ fieldAt e 12 4) ||
      decide (cap < fieldAt e 16 4) || decide (fieldAt e 20 12 ≠ 0)
  if fieldAt b 0 4 ≠ 0x5441504B ∨ nst = 0 ∨ 8 < nst ∨ 8 < nq ∨ fieldAt b 6 10 ≠ 0 ∨ (List.range 8).any badStage ∨
      (List.range 8).any badQueue then none
  else
    some ((List.range nst).map fun j =>
            let e := stage j
            { image := fieldAt e 0 8, grid := fieldAt e 8 4
              input := if bitAt (fieldAt e 12 1) 7 then some (fieldAt e 12 1 % 8) else none },
          (List.range nq).map fun j =>
            let e := queue j
            { items := [], capacity := fieldAt e 8 4, low := fieldAt e 12 4, high := fieldAt e 16 4
              storage := BitVec.ofNat 64 (fieldAt e 0 8), closed := false })

/-- The headers of a record's stages, read in order and checked (R150, R185). -/
def readStages (v : VDev) (m : Motif) (ring nqueues : Nat) : List StageRef → State → Except FrontStop (State × List Stage)
  | [], s => .ok (s, [])
  | e :: es, s =>
    match frontRead m ring 32 e.image s with
    | .error x => .error x
    | .ok (s1, b) =>
      match parseHeader b with
      | none => .error (.bad 3 s1)
      | some h =>
        if !h.accepted v nqueues e.input then .error (.bad 3 s1)
        else
          match readStages v m ring nqueues es s1 with
          | .error x => .error x
          | .ok (s2, rest) =>
            .ok (s2, { image := BitVec.ofNat 64 e.image, header := h, grid := e.grid, input := e.input, created := 0
                       retired := 0 } :: rest)

/-- Whether the fields of a record's 64 bytes break R184 in themselves. -/
def recordMalformed (b : List Byte) : Bool :=
  let kind := fieldAt b 0 1
  let image := fieldAt b 0x18 8
  let param := fieldAt b 0x20 8
  let grid := fieldAt b 0x28 4
  decide (kind = 0) || decide (3 < kind) || decide (4 ≤ fieldAt b 1 1) || decide (fieldAt b 2 2 / 1024 % 32 ≠ 0) ||
  decide (fieldAt b 4 2 / 1024 % 32 ≠ 0) || decide (fieldAt b 6 2 ≠ 0) || decide (fieldAt b 0x30 16 ≠ 0) ||
  decide (image % 256 ≠ 0) || decide (param % 8 ≠ 0) || (kind == 1 && grid == 0) || (kind == 2 && grid != 0) ||
  (kind == 3 && (image != 0 || param != 0 || grid != 0 || fieldAt b 0x2C 4 != 0))

/-- Whether a wait names a ring of another device (R185). -/
def waitForeign (s : State) (vd w : Nat) : Bool := bitAt w 15 && (ringOf s (w % 1024)).owner != some vd

/-- The lanes of a motif of S strands: absent means 96 × S (R126). -/
def laneCountOk (n strands : Nat) : Bool := n == 0 || decide (96 * (strands - 1) < n ∧ n ≤ 96 * strands)

/-- The record at a ring's head read and checked: the record, or how the check ends (R184, R185). -/
def checkRecord (s : State) (ring : Nat) : Except FrontStop (State × Record) := do
  let r := ringOf s ring
  let cid := ringCid r
  let vd := cidVd cid
  let number := r.fetched + 1
  let s := noticeDesc s cid
  match readDesc s cid with
  | none => .error (.bad 1 s)
  | some d =>
    let m := ghostMotif cid d (portDie s vd) frontCluster
    let (s1, b) ← frontRead m ring 8 (r.base.toNat + 64 * (r.fetched % 2 ^ r.logsize)) s
    let kind := fieldAt b 0 1
    if recordMalformed b then .error (.bad 1 s1)
    else if waitForeign s1 vd (fieldAt b 2 2) || waitForeign s1 vd (fieldAt b 4 2) then .error (.bad 5 s1)
    else do
      let image := fieldAt b 0x18 8
      let (s2, p) ← (if kind = 2 then
          match frontRead m ring 50 image s1 with
          | .error e => .error e
          | .ok (s2, pb) =>
            match parsePattern pb with
            | none => .error (.bad 1 s2)
            | some p => .ok (s2, p)
        else if kind = 1 then .ok (s1, ([{ image := image, grid := fieldAt b 0x28 4, input := none }], []))
        else .ok (s1, ([], [])))
      let (s3, stages) ← readStages (vdevOf s vd) m ring p.2.length p.1 s2
      let lanes := fieldAt b 0x2C 4
      let param := fieldAt b 0x20 8
      if !(stages.all fun st => laneCountOk lanes st.header.strands) then .error (.bad 2 s3)
      else if param = 0 ∧ stages.any fun st => decide (st.header.param ≠ 0) then .error (.bad 1 s3)
      else
        .ok (s3,
          { ring := ring, number := number, cid := cid, kind := kind, flags := BitVec.ofNat 8 (fieldAt b 1 1)
            wait0 := BitVec.ofNat 16 (fieldAt b 2 2), wait1 := BitVec.ofNat 16 (fieldAt b 4 2)
            value0 := fieldAt b 8 8, value1 := fieldAt b 0x10 8, paramAddr := BitVec.ofNat 64 param, lanes := lanes
            stages := stages, queues := p.2, param := [], begun := false, done := false })

/-- Whether a ring may fetch: enabled, not stopped, of a running context of a device that is not migrating (R183, R365,
R400). -/
def ringFetches (s : State) (r : Ring) : Bool :=
  r.enable && !r.stopped && !(ctxOf s (ringCid r)).stopped && (vdevOf s (r.owner.getD 0)).migrating == 0

/-- Whether a wait of a record is met (R186). -/
def waitMet (s : State) (w : BitVec 16) (value : Nat) : Bool :=
  !w.getLsbD 15 || decide (value ≤ (ringOf s (w.toNat % 1024)).completed)

/-- Whether the next record of a ring can begin, its fields being known (R186). -/
def recordReady (s : State) (rec : Record) : Bool :=
  let r := ringOf s rec.ring
  waitMet s rec.wait0 rec.value0 && waitMet s rec.wait1 rec.value1 &&
  (!rec.flags.getLsbD 0 || decide (rec.number ≤ r.completed + 1)) && decide (rec.number ≤ r.begun + 1)

/-- RECORD_CHECK: the next record of a ring in a hoop slot is read and checked; one that cannot begin yet is left in the
ring, which is then not pending for it (R182, R184 to R186, R188). -/
def execRecordCheck (ring : Nat) (s : State) : Host.Outcome State Fault Refusal :=
  let r := ringOf s ring
  if !s.hoop.contains ring || !ringFetches s r || decide (r.tail ≤ r.fetched) then .next s
  else
    match checkRecord s ring with
    | .error (.wait s1) => .next s1
    | .error (.bad code s1) =>
      .next (failRing (updRing (frontForget s1 ring) ring fun r => { r with fetched := r.fetched + 1 }) ring code
        (some (r.fetched + 1)))
    | .ok (s1, rec) =>
      let s2 := frontForget s1 ring
      if !recordReady s2 rec then .next s2
      else
        let s3 := updRing s2 ring fun r => { r with fetched := r.fetched + 1 }
        .next { s3 with records := s3.records ++ [rec] }

/-! ## Beginning and completing a record -/

/-- Records begun and not completed that satisfy a test. -/
def openRecords (s : State) (p : Record → Bool) : Nat := (s.records.filter fun r => r.begun && !r.done && p r).length

/-- Whether the next record of a ring may begin (R186, R187). -/
def canBegin (s : State) (rec : Record) : Bool :=
  let vd := cidVd rec.cid
  recordReady s rec && decide (rec.number = (ringOf s rec.ring).begun + 1) &&
  decide (openRecords s (fun x => x.ring == rec.ring) < 8) &&
  decide (openRecords s (fun x => cidVd x.cid == vd) < 64)

/-- Whether a context has reached a host line through its device copy (R250). -/
def HostLine.usedBy (h : HostLine) (cid : Cid) : Bool := h.users.any fun u => u.cid == cid

/-- The beginning of a record: the clean device copies of its context's host lines go, and what earlier records released
is acquired, unordered pages included: no L1 copy stays (R187, R239, R242, R250). -/
def beginBracket (s : State) (cid : Cid) : State :=
  let port := (vdevOf s (cidVd cid)).port
  updL1 { s with hostLines := s.hostLines.filter fun h => !(h.port == port && h.changed.isEmpty) } fun _ => []

/-- The end of a record: the stores of its context are performed and the host lines that it changed written back (R187,
R250). -/
def endBracket (s : State) (cid : Cid) : State :=
  flushLines (performWhere s fun d => d.cid == cid) (fun h => h.usedBy cid) false

/-- A record completed: the writes it released come first, then the completion value (R187, R250). -/
def completeRecord (s : State) (rec : Record) : State :=
  let s1 := updRecord (endBracket s rec.cid) rec.ring rec.number fun r => { r with done := true }
  if 1024 ≤ rec.ring then { s1 with records := s1.records.filter fun r => !(r.ring == rec.ring && r.number == rec.number) }
  else countDone s1 rec.ring rec.number

/-- The parameter block as the front end reads it when the record begins (R261). -/
def readParam (s : State) (rec : Record) : Except FrontStop (State × List Byte) :=
  let n := rec.stages.foldl (fun n st => max n st.header.param) 0
  if n = 0 then .ok (s, [])
  else
    match descOfCtx s rec.cid with
    | none => .error (.bad 4 s)
    | some d =>
      frontRead (ghostMotif rec.cid d (portDie s (cidVd rec.cid)) frontCluster) rec.ring (n / 8) rec.paramAddr.toNat s

/-- RECORD_BEGIN (R143, R186, R187, R250, R261): a marker completes as it begins. -/
def execRecordBegin (ring : Nat) (s : State) : Host.Outcome State Fault Refusal :=
  let r := ringOf s ring
  match recordOf s ring (r.begun + 1) with
  | none => .next s
  | some rec =>
    if !r.enable || rec.begun || !canBegin s rec || (ctxOf s rec.cid).stopped ||
        decide ((vdevOf s (cidVd rec.cid)).migrating ≠ 0) then .next s
    else
      match readParam s rec with
      | .error (.wait s1) => .next s1
      | .error (.bad code s1) =>
        let s2 := { frontForget s1 ring with
          records := s1.records.filter fun x => !(x.ring == ring && x.number == rec.number) }
        .next (failRing s2 ring code (some rec.number))
      | .ok (s1, param) =>
        let s2 := beginBracket (frontForget s1 ring) rec.cid
        let s3 := updRing s2 ring fun r => skipBegun r.doneList.length { r with begun := r.begun + 1, served := s.clock + 1 }
        let s4 := updRecord s3 ring rec.number fun r => closeRecord 9 { r with begun := true, param := param }
        .next (if rec.kind = 3 then completeRecord s4 rec else s4)

/-- Whether a begun record's work is over (R144, R187). -/
def recordOver (rec : Record) : Bool := rec.kind == 3 || rec.stages.all (stageFinished rec.queues)

/-- Whether writes of a record's motifs or of their commands at other chips are not acknowledged, which its completion is to
release (R187, R239, R252). -/
def recordPutsOpen (s : State) (rec : Record) : Bool :=
  s.requests.any fun r => r.cid == rec.cid && rec.writers.contains r.uid && (r.op == 3 || r.op == 7) && r.answer.isNone

/-- Whether a record can complete: begun, its work over and its writes performed everywhere, its context running (R187, R239,
R365). -/
def recordCompletes (s : State) (rec : Record) : Bool :=
  rec.begun && !rec.done && recordOver rec && !(ctxOf s rec.cid).stopped && !recordPutsOpen s rec

/-- RECORD_COMPLETE (R187, R239, R250, R365). -/
def execRecordComplete (ring number : Nat) (s : State) : Host.Outcome State Fault Refusal :=
  match recordOf s ring number with
  | none => .next s
  | some rec => .next (if recordCompletes s rec then completeRecord s rec else s)

/-! ## The hoop -/

/-- Whether the record that a ring has not fetched yet can begin; one that cannot be read is fetched, to be checked. -/
def unfetchedReady (s : State) (ring : Nat) : Bool :=
  let r := ringOf s ring
  decide (r.fetched ≤ r.begun) &&
  (match checkRecord s ring with
   | .ok (_, rec) => recordReady s rec
   | .error _ => true)

/-- Whether a ring is pending: a fetched record has not begun, or a record is announced and the next one can begin (R186).
The next record of a ring that fetches nothing cannot. -/
def ringPending (s : State) (ring : Nat) : Bool :=
  let r := ringOf s ring
  (s.records.any fun x => x.ring == ring && !x.begun) ||
  (ringFetches s r && decide (r.fetched < r.tail) && unfetchedReady s ring)

/-- Whether the first ring is to have a slot before the second: the higher prio, then the least recently served (R186). The
spec breaks no tie between waiting rings that are alike in both: the model takes the lower number (log entry 90). -/
def ringBefore (s : State) (a b : Nat) : Bool :=
  let x := ringOf s a
  let y := ringOf s b
  decide (y.prio < x.prio) || (x.prio == y.prio && (decide (x.served < y.served) || (x.served == y.served && decide (a < b))))

/-- The best of a list of rings. -/
def bestRing (s : State) : List Nat → Option Nat
  | [] => none
  | r :: rs => some (rs.foldl (fun b x => if ringBefore s x b then x else b) r)

/-- The slots that a device's rings hold. -/
def slotsOf (s : State) (hoop : List Nat) (vd : Option Nat) : Nat := (hoop.filter fun r => (ringOf s r).owner == vd).length

/-- The ring that gives up its slot: of a device with several, the lowest prio, the least recently served, ties to the
higher number (R186). -/
def victimRing (s : State) (hoop : List Nat) : Option Nat :=
  let worse := fun (a b : Nat) =>
    let x := ringOf s a
    let y := ringOf s b
    decide (x.prio < y.prio) || (x.prio == y.prio && (decide (x.served < y.served) || (x.served == y.served && decide (b < a))))
  match hoop.filter fun r => decide (1 < slotsOf s hoop (ringOf s r).owner) with
  | [] => none
  | r :: rs => some (rs.foldl (fun b x => if worse x b then x else b) r)

/-- A slot given to a ring, a victim's if none is free. -/
def giveSlot (s : State) (hoop : List Nat) (r : Nat) : List Nat :=
  if hoop.length < 32 then hoop ++ [r]
  else
    match victimRing s hoop with
    | some v => hoop.filter (fun x => x != v) ++ [r]
    | none => hoop

/-- The waiting rings served in turn, each once in an evaluation (R186, log entry 23). -/
def fillHoop (s : State) : Nat → List Nat → List Nat → List Nat
  | 0, hoop, _ => hoop
  | n + 1, hoop, waiting =>
    match bestRing s waiting with
    | none => hoop
    | some r =>
      let rest := waiting.filter fun x => x != r
      if hoop.length < 32 then fillHoop s n (hoop ++ [r]) rest
      else
        match victimRing s hoop with
        | none => hoop
        | some v =>
          if (ringOf s r).prio < (ringOf s v).prio then hoop
          else fillHoop s n (hoop.filter (fun x => x != v) ++ [r]) rest

/-- The hoop after an evaluation (R186). -/
def evalHoop (s : State) : List Nat :=
  let pending := (s.rings.map (·.1)).filter (ringPending s)
  let kept := s.hoop.filter pending.contains
  let byDevice := (List.range 32).foldl (fun hoop vd =>
    if slotsOf s hoop (some vd) = 0 then
      match bestRing s (pending.filter fun r => (ringOf s r).owner == some vd) with
      | some r => giveSlot s hoop r
      | none => hoop
    else hoop) kept
  let waiting := pending.filter fun r => !byDevice.contains r
  fillHoop s waiting.length byDevice waiting

/-- The hoop evaluated, and when (R186). -/
def evaluateHoop (s : State) : State := { s with hoop := evalHoop s, hoopAt := s.clock }

/-- The evaluation that every 65,536 cycles bring (R186). -/
def tickHoop (s : State) : State := if s.hoopAt + 65536 ≤ s.clock then evaluateHoop s else s

/-- HOOP_EVALUATION (R186, R188). -/
def execHoopEvaluation (s : State) : Host.Outcome State Fault Refusal := .next (evaluateHoop s)

/-- Whether a descriptor may enable its ring (R181). The spec gives prio the values 0 to 3 and does not list a greater one
among the causes of a refusal: the model refuses it too (log entry 91). -/
def RingDesc.startable (d : RingDesc) (v : VDev) : Bool :=
  decide (d.base.toNat % 4096 = 0) && decide (4 ≤ d.logsize.toNat ∧ d.logsize.toNat ≤ 16) &&
  decide (d.prio.toNat ≤ 3) && decide (d.ctx.toNat < v.ctxcount) && decide (d.ctl.toNat < 4) && d.rsv == 0

/-- RING_ENABLE: a descriptor written; while enabled only the enable bit can be cleared, which frees the ring's slot (R181,
R186, R188, log entry 22). -/
def execRingEnable (vd ring : Nat) (d : RingDesc) (s : State) : Host.Outcome State Fault Refusal :=
  let r := ringOf s ring
  let on := d.ctl.getLsbD 0
  if 1024 ≤ ring ∨ r.owner ≠ some vd then .next s
  else if r.enable then
    if on then .next s
    else
      let s1 := updRing (orphanRecords s ring) ring fun r => { r with enable := false }
      .next (if s.hoop.contains ring then evaluateHoop s1 else s1)
  else if on && !RingDesc.startable d (vdevOf s vd) then .next s
  else
    let fields := { r with
      base := d.base, logsize := d.logsize.toNat, prio := d.prio.toNat, ctx := d.ctx.toNat, enable := on }
    .next (updRing s ring fun _ =>
      if on then
        { fields with
          tail := 0, fetched := 0, begun := 0, completed := 0, stopped := false, code := 0, failed := [], doneList := [] }
      else fields)

/-! ## The dispatcher -/

/-- The motifs resident on a cluster. -/
def residents (s : State) (die k : Nat) : List Motif := s.motifs.filter fun m => m.die == die && m.cluster == k

/-- The strands and registers that motifs take on a quadrant (R148). -/
def quadLoad (ms : List Motif) (quad : Nat) : Nat × Nat :=
  ms.foldl (fun a m => (a.1 + strandsOn m.header.strands quad, a.2 + strandsOn m.header.strands quad * m.header.allot)) (0, 0)

/-- Whether a motif of a context fits a cluster now: not while it drains, nor again once it has been emptied for another
context (R140, R148, R190, R203, R399). -/
def fitsCluster (s : State) (cid : Cid) (h : Header) (die k : Nat) : Bool :=
  let c := clusterOf s die k
  let ms := residents s die k
  !c.absent && !(c.draining && (!ms.isEmpty || c.ctx == some cid)) && decide (ms.length < 16) &&
  decide (ms.foldl (fun n m => n + m.header.scratch) 0 + h.scratch ≤ 512) &&
  ((List.range 4).all fun q =>
    let l := quadLoad ms q
    decide (l.1 + strandsOn h.strands q ≤ 16 ∧ l.2 + strandsOn h.strands q * h.allot ≤ 1024)) &&
  (!h.seq || ms.all fun m => !m.header.seq) &&
  (ms.isEmpty || (c.fused == h.fused && ms.all fun m => m.cid == cid))

/-- The free place indices of a context, lowest first (R198). -/
def freePlaces (s : State) (cid : Cid) (d : Desc) : List Nat :=
  let used := ((allMotifs s).filter fun m => m.cid == cid).flatMap fun m => (m.strands.filter fun t => !t.over).map (·.place)
  (List.range d.pslots).filter fun i => !used.contains i

/-- The clusters of a device's ranges in the order that breaks ties: dies in rotation after the last placement's, then
the lowest number (R189). -/
def clusterOrder (v : VDev) : List (Nat × Nat) :=
  let first := match v.lastDie with
    | none => 0
    | some d => d + 1
  (List.range 4).flatMap fun i =>
    let die := (first + i) % 4
    match v.share.ranges.getD die none with
    | some (lo, hi) => (List.range (hi + 1 - lo)).map fun k => (die, lo + k)
    | none => []

/-- An element put into a list before the first one that it is to precede. -/
def insertBy (before : Nat × Nat → Nat × Nat → Bool) (x : Nat × Nat) : List (Nat × Nat) → List (Nat × Nat)
  | [] => [x]
  | y :: ys => if before x y then x :: y :: ys else y :: insertBy before x ys

/-- The cluster that the dispatcher takes: the fewest resident strands, ties in order (R189). -/
def chooseCluster (s : State) (cid : Cid) (h : Header) (d : Desc) : Option (Nat × Nat) :=
  let v := vdevOf s (cidVd cid)
  if v.hold || decide ((freePlaces s cid d).length < h.strands) then none
  else
    let load := fun (c : Nat × Nat) => ((residents s c.1 c.2).map fun m => m.strands.length).sum
    match (clusterOrder v).filter fun c => fitsCluster s cid h c.1 c.2 with
    | [] => none
    | c :: cs => some (cs.foldl (fun b x => if load x < load b then x else b) c)

/-- The dispatch class of a stage of a begun record; none when it creates no motif now (R147). -/
def dispatchClass (rec : Record) (st : Stage) : Option Nat :=
  let outs := (outQueues st.header).filterMap fun j => rec.queues[j]?
  let input := st.input.bind fun i => rec.queues[i]?
  let belowHigh := outs.all fun q => decide (q.items.length < q.high)
  let notFull := outs.all fun q => decide (q.items.length < q.capacity)
  match st.input, input with
  | none, _ => if st.created < st.grid ∧ belowHigh then some 1 else none
  | some _, some q =>
    if decide (q.high < q.items.length) && belowHigh then some 1
    else if (decide (q.low < q.items.length) || (q.closed && !q.items.isEmpty)) && notFull then some 2
    else none
  | _, none => none

/-- The clusters that could take a motif, in the order in which the dispatcher prefers them (R189). -/
def clusterChoices (s : State) (cid : Cid) (h : Header) (d : Desc) : List (Nat × Nat) :=
  let v := vdevOf s (cidVd cid)
  if v.hold || decide ((freePlaces s cid d).length < h.strands) then []
  else
    let load : Nat × Nat → Nat := fun c => ((residents s c.1 c.2).map fun m => m.strands.length).sum
    let before := fun (a b : Nat × Nat) => decide (load a ≤ load b)
    ((clusterOrder v).filter fun c => fitsCluster s cid h c.1 c.2).foldr (insertBy before) []

/-- Whether a stage holds items in its input queue and has no resident motif (R147). -/
def stageStarved (s : State) (rec : Record) (k : Nat) (st : Stage) : Bool :=
  (match st.input.bind fun i => rec.queues[i]? with
    | some q => !q.items.isEmpty
    | none => false) &&
  !(s.motifs.any fun m => m.ring == rec.ring && m.record == rec.number && m.stage == k)

/-- The other stages that hold items and have no resident motif: they keep the last cluster that could hold one (R147). -/
def starved (s : State) (rec : Record) (k : Nat) : List Stage :=
  (rec.stages.zipIdx.filter fun e => e.2 != k && stageStarved s rec e.2 e.1).map (·.1)

/-- A cluster takes up a context: the handles of the one before are written back, the slice counter begins again and the
load of the context begins (R190, R294, R399). -/
def switchCluster (s : State) (die k : Nat) (cid : Cid) : State :=
  let c := clusterOf s die k
  if c.ctx = some cid then updCluster s die k fun c => { c with draining := false }
  else
    let old := c.handles.filter fun h => h.cid != cid
    let s1 := old.foldl (fun s h =>
      match descOfCtx s h.cid with
      | some d => evictEntry s (ghostMotif h.cid d die k) h.handle
      | none => s) s
    updCluster s1 die k fun c =>
      { c with
        ctx := some cid, slice := 0, loading := some s.clock, draining := false
        handles := c.handles.filter fun h => h.cid == cid }

/-- A motif taken up by a cluster: the context, the L1 mode, the order lists (R190, R191, R203). -/
def admitMotif (s : State) (m : Motif) : State :=
  let s1 := switchCluster s m.die m.cluster m.cid
  let s2 := updCluster s1 m.die m.cluster fun c =>
    { c with
      l1 := if c.fused = m.header.fused then c.l1 else []
      fused := m.header.fused
      order := c.order ++ m.strands.map fun t => (m.uid, t.index) }
  { s2 with motifs := s2.motifs ++ [m] }

/-- A new motif of a stage (R17, R126, R131, R147, R172, R198, R319, R321). -/
def newMotif (s : State) (rec : Record) (k : Nat) (st : Stage) (d : Desc) (die cl : Nat) : Motif :=
  let h := st.header
  let n := if rec.lanes = 0 then 96 * h.strands else rec.lanes
  let places := freePlaces s rec.cid d
  { uid := s.nextUid, cid := rec.cid, ring := rec.ring, record := rec.number, stage := k
    motifid := BitVec.ofNat 32 st.created, image := st.image, header := h, desc := d, die := die, cluster := cl
    vdie := die, vcluster := cl, lanes := n
    strands := (List.range h.strands).map fun j =>
      Strand.atStart j (places.getD j 0) (min 96 (n - 96 * j)) (st.image + 256)
    scratch := [], barriers := [], timelines := List.replicate 4 { issued := 0, done := 0 }, commands := []
    statuses := [], seq := if h.seq then some (Sequencer.atStart h.mstream) else none
    param := rec.param.take h.param, preempt := none, drained := false }

/-- Whether a motif of a stage on a cluster would take the last one that could hold a motif of another stage that is
starved (R147). -/
def takesLast (s : State) (rec : Record) (d : Desc) (k : Nat) (st : Stage) (c : Nat × Nat) : Bool :=
  (starved s rec k).any fun o =>
    (chooseCluster s rec.cid o.header d).isSome &&
    (chooseCluster (admitMotif { s with nextUid := s.nextUid + 1 } (newMotif s rec k st d c.1 c.2)) rec.cid o.header d).isNone

/-- The motif that a stage of a record would place now: on the first cluster in the order of preference that is not the last
for a starved stage (R147, R189). The spec names no stage that goes first where two starved stages each bar the other from
the last cluster: the model then places neither until an eviction makes room (log entry 89). -/
def stageMotif (s : State) (rec : Record) (d : Desc) (k : Nat) (st : Stage) : Option Motif :=
  ((clusterChoices s rec.cid st.header d).find? fun c => !takesLast s rec d k st c).map fun c => newMotif s rec k st d c.1 c.2

/-- Whether a stage of a record is the one that the dispatcher serves: none of a better class, or of a lower index in its
class, can be placed (R147). -/
def servedNext (s : State) (rec : Record) (d : Desc) (k cls : Nat) : Bool :=
  rec.stages.zipIdx.all fun e =>
    match dispatchClass rec e.1 with
    | none => true
    | some c => !(decide (c < cls) || (c == cls && decide (e.2 < k))) || (stageMotif s rec d e.2 e.1).isNone

/-- A motif asked to stop; the time of the first request stands (R374, R376). -/
def askStop (clock : Nat) (m : Motif) : Motif :=
  { m with preempt := match m.preempt with
      | some t => some t
      | none => some clock }

/-- Room for a starved stage that finds no cluster: the first motif of its context with a strand at a blocking wait, without
which one could hold it, is asked to leave (R147, R363, R378; log entry 89). -/
def makeRoom (s : State) (rec : Record) (d : Desc) (st : Stage) : State :=
  let v := vdevOf s (cidVd rec.cid)
  let rests := fun (m : Motif) => m.strands.any fun t => !t.over && t.live.all fun x => !x.canIssue
  let helps := fun (m : Motif) => (clusterOrder v).any fun c =>
    fitsCluster { s with motifs := s.motifs.filter fun x => x.uid != m.uid } rec.cid st.header c.1 c.2
  if v.hold || decide ((freePlaces s rec.cid d).length < st.header.strands) then s
  else
    match s.motifs.find? fun m => m.cid == rec.cid && rests m && helps m with
    | some m => updMotif s m.uid (askStop s.clock)
    | none => s

/-- MOTIF_PLACEMENT (R140, R147, R189, R190, R198, R203). -/
def execMotifPlacement (ring number stage : Nat) (s : State) : Host.Outcome State Fault Refusal :=
  match recordOf s ring number with
  | none => .next s
  | some rec =>
    match rec.stages[stage]?, descOfCtx s rec.cid with
    | some st, some d =>
      let v := vdevOf s (cidVd rec.cid)
      match (if rec.begun && !(ctxOf s rec.cid).stopped && !(v.share.mode == false && v.migrating != 0) then
              dispatchClass rec st else none) with
      | none => .next s
      | some cls =>
        match stageMotif s rec d stage st with
        | none => .next (if stageStarved s rec stage st && servedNext s rec d stage cls then makeRoom s rec d st else s)
        | some m =>
          if !servedNext s rec d stage cls then .next s
          else
            let s1 := admitMotif { s with nextUid := s.nextUid + 1 } m
            let s2 := updRecord s1 ring number fun r =>
              { r with stages := r.stages.zipIdx.map fun e =>
                  if e.2 = stage then { e.1 with created := e.1.created + 1 } else e.1 }
            .next (updVdev s2 (cidVd rec.cid) fun v => { v with lastDie := some m.die })
    | _, _ => .next s

/-- Whether a motif's work is over (R142, R325). -/
def motifOver (m : Motif) : Bool :=
  m.strands.all Strand.over && m.commands.isEmpty && (m.timelines.all fun t => t.done == t.issued) &&
  (match m.seq with
   | some q => q.ended && q.work.isEmpty
   | none => true)

/-- A motif leaves its cluster: its strands leave the order list, and the handle entries of its context are written back
when it was the last one there (R142, R294). -/
def leaveCluster (s : State) (m : Motif) : State :=
  let s1 := { s with motifs := s.motifs.filter fun x => x.uid != m.uid }
  let s2 := updCluster s1 m.die m.cluster fun c =>
    { c with order := c.order.filter fun p => p.1 != m.uid, waited := c.waited.filter fun p => p.1 != m.uid }
  if s2.motifs.any fun x => x.die == m.die && x.cluster == m.cluster && x.cid == m.cid then s2
  else
    ((clusterOf s2 m.die m.cluster).handles.filter fun h => h.cid == m.cid).foldl
      (fun s h => evictEntry s { m with strands := [] } h.handle) s2

/-- Whether a live cut still needs the scratchpad, the registers and the rows of a motif: they are streamed before they are
released (R440, R442, R446). -/
def unitsHeld (s : State) (m : Motif) : Bool := (jobOf s m.cid).recording.any fun c => c.units.contains m.uid

/-- MOTIF_RETIRE (R142, R144, R147, R446). -/
def execMotifRetire (uid : Nat) (s : State) : Host.Outcome State Fault Refusal :=
  match motifOf s uid with
  | none => .next s
  | some m =>
    if !motifOver m || (ctxOf s m.cid).stopped || unitsHeld s m then .next s
    else
      let s1 := leaveCluster s m
      let s2 := updRecord s1 m.ring m.record fun r =>
        { r with
          writers := r.writers ++ [m.uid]
          stages := r.stages.zipIdx.map fun e =>
            if e.2 = m.stage then { e.1 with retired := e.1.retired + 1 } else e.1 }
      .next (wakeQueues (closeQueues s2 m.ring m.record) m)

/-- CLUSTER_SWITCH: a cluster with motifs of another context takes no new ones, and they are asked to leave; an empty one
takes up the incoming context (R190, R374, R446). -/
def execClusterSwitch (cl : ClusterRef) (cid : Cid) (s : State) : Host.Outcome State Fault Refusal :=
  let ms := residents s cl.die cl.cluster
  if (clusterOf s cl.die cl.cluster).absent then .next s
  else if ms.isEmpty then .next (switchCluster s cl.die cl.cluster cid)
  else if ms.all fun m => m.cid == cid then .next s
  else
    let hit := fun (m : Motif) => m.die == cl.die && m.cluster == cl.cluster && m.cid != cid
    let s1 := { s with motifs := s.motifs.map fun m => if hit m then askStop s.clock m else m }
    .next (updCluster s1 cl.die cl.cluster fun c => { c with draining := true })

end Sys2Proof.Machine
end

