-- ==== Sys2Proof/Machine/Packets.lean ====
section
/-! DEFINITION. Packets as a link delivers them: the checks of a header, routing onward, answering a sender, and who is
woken by an answer (R411 to R416). -/

namespace Sys2Proof.Machine

/-- The aop codes of R264 that an atomic or a reduction may carry: fn in bits 3:0, bit 4 for 64 bits; a reduction has no
.exch and no .cas (R264, R411). The field means nothing in other packets. -/
def aopLegal (op aop : BitVec 8) : Bool :=
  if op = 5 ∨ op = 7 then
    decide (aop.toNat < 32) && decide (aop.toNat % 16 < 8) && !(op == 7 && (aop.toNat % 16 == 2 || aop.toNat % 16 == 3))
  else true

/-- Whether the lines that a packet carries have tags of R271 and at most 16 sectors, so that at most 4 of them are expanded
(R278, R411). -/
def linesLegal (p : Packet) : Bool :=
  if (p.op = 2 ∨ p.op = 3) ∧ p.size = 0 then
    let tags := (List.range p.nlines.toNat).map fun i => p.tags.toNat / 16 ^ i % 16
    tags.all (fun t => !wrongTag (BitVec.ofNat 4 t)) && decide ((tags.map tagSectors).sum ≤ 16)
  else true

/-- Byte 0x38 of a packet of a job with a cut block: the residue 3 and the bits above are reserved (R447). -/
def cutByteLegal (s : State) (p : Packet) : Bool :=
  (cutBlockOf s p.cid).isNone ||
  (p.cut.extractLsb' 0 2 != 3 &&
    (if p.op = 8 then p.cut.getLsbD 2 && p.cut.extractLsb' 4 4 == 0 else p.cut.extractLsb' 3 5 == 0))

/-- Whether a header is one that a receiver takes: its CRC holds and it has no reserved op or value (R411, R412, R447;
log entry 29). -/
def packetValid (s : State) (p : Packet) : Bool :=
  p.hcrc == crc32c (packetHead p) && decide (1 ≤ p.op.toNat ∧ p.op.toNat ≤ 9) && !p.destRsv && p.srcRsv == 0 &&
  decide (p.nlines.toNat ≤ 8) && decide (p.size.toNat ≤ 5) && decide (p.status.toNat ≤ 3) &&
  decide (p.addr.toNat < 2 ^ (if p.op = 8 then 32 else 44)) &&
  (if p.size = 0 then decide (p.addr.toNat % 128 = 0) || p.op == 8 || p.op == 9
   else p.nlines == 1 && decide (p.addr.toNat % sizeBytes p.size = 0)) &&
  aopLegal p.op p.aop && linesLegal p && cutByteLegal s p

/-- The system log's code for a packet dropped (R412; log entry 11). -/
def logDropped : Nat := 50

/-- A discarded packet goes to the system log (R412). -/
def dropPacket (s : State) (link : Nat) (p : Packet) : State :=
  send (logEvent s logDropped (link + 64 * p.op.toNat)) (.dropped link)

/-- Whether a packet is for this chip (R414). -/
def packetLocal (s : State) (p : Packet) : Bool :=
  let e := tget 0 (vdevOf s (cidVd p.cid)).route p.dest.toNat
  e.getLsbD 15 && e.extractLsb' 0 6 == 63

/-- The lines or the bytes of a payload, whole lines expanded; tag 15 says poison, 16 that the check value fails (R278, R281,
R411). -/
def payloadPieces (p : Packet) : List (Nat × List Byte) :=
  if p.size ≠ 0 then [(0, p.payload.take (sizeBytes p.size))]
  else (packetLines p).zipIdx.map fun e =>
    if e.1.1 ≠ 15 ∧ p.checks.getD e.2 0 ≠ crc32c e.1.2 then (16, e.1.2) else e.1

/-- The operation that answers a request (R412). -/
def answerOp (op : BitVec 8) : Option Nat :=
  if op = 1 then some 2
  else if op = 3 ∨ op = 7 then some 4
  else if op = 5 then some 6 else none

/-- An answer sent back to a request's sender; without a route to it, it is lost (R412, R414). -/
def reply (s : State) (p : Packet) (op status : Nat) (f : Packet → Packet) : State :=
  let a := newPacket s p.cid p.src.toNat 1 op (jobOf s p.cid).epoch
  (routePacket s (f { a with rtag := p.rtag, status := BitVec.ofNat 16 status })).getD s

/-- A packet for another chip: queued by the table of its device; without a valid entry a request is answered with
status 3 and the packet dropped (R414, R415). -/
def forward (s : State) (p : Packet) : State :=
  match routePacket s p with
  | some s1 => s1
  | none =>
    match answerOp p.op with
    | some op => reply s p op 3 id
    | none => s

/-- The slots of a request's strand that wait for another chip look again, in saved motifs too (R137, R375). -/
def wakeAway (s : State) (r : Request) (w : Wait → Bool) : State :=
  mapMotifs s fun m =>
    if m.uid = r.uid then
      { m with strands := m.strands.map fun t => if t.index = r.strand then wakeSlots w t else t }
    else m

/-- The flits of a request whose delivery its answer confirms leave the replay buffers (R410). -/
def confirmDelivery (s : State) (cid : Cid) (rtag : Word) : State :=
  let keep := fun (p : Packet) => !(p.cid == cid && p.rtag == rtag && (answerOp p.op).isSome)
  { s with links := s.links.map fun e => (e.1, { e.2 with replay := e.2.replay.filter keep }) }

/-- The outstanding request that an answer pairs with (R412). -/
def requestFor (s : State) (cid : Cid) (rtag : Nat) (ops : List Nat) : Option Request :=
  s.requests.find? fun r => r.rtag == rtag && r.cid == cid && r.answer.isNone && ops.contains r.op

/-- A request answered: its waiter looks again (R200, R412). -/
def answerRequest (s : State) (r : Request) (status : Nat) (bytes : List Byte) : State :=
  let set := fun (x : Request) =>
    if x.rtag = r.rtag ∧ x.cid = r.cid ∧ x.answer.isNone then { x with answer := some (status, bytes) } else x
  wakeAway { s with requests := s.requests.map set } r fun w => w == .aperture

/-- Whether the queue that a packet for another chip would join has room for the whole of it (R415). -/
def hasRoom (s : State) (p : Packet) : Bool :=
  let e := tget 0 (vdevOf s (cidVd p.cid)).route p.dest.toNat
  let l := linkOf s (routeLink s e)
  let q := { p with cls := p.cls || e.getLsbD 12 }
  match tget none l.room (queueKey q) with
  | none => true
  | some n => decide (((l.out.filter fun x => queueKey x.2.2 == queueKey q).map fun x => packetFlits x.2.2).sum + packetFlits q ≤ n)

/-- Whether a packet must wait in its channel's receive buffer: for its job's restoration, or behind a packet that waits there.
What a restoration holds is in no other job's way (R413, R448, R460). -/
def mustWait (s : State) (link : Nat) (p : Packet) : Bool :=
  let restoring := fun (c : Cid) => s.restores.any fun r => cidOf r.vd r.ctx == c
  restoring p.cid ||
  s.rxHeld.any fun e => e.1 == link && e.2.vc == p.vc && e.2.cls == p.cls && (e.2.cid == p.cid || !restoring e.2.cid)

/-- A packet that waits in the receive buffer. -/
def hold (s : State) (link : Nat) (p : Packet) : State := { s with rxHeld := s.rxHeld ++ [(link, p)] }

end Sys2Proof.Machine
end

