-- ==== Sys2Proof/Machine/SaveArea.lean ====
section
/-! DEFINITION. The save area of a motif as bytes in memory: the forms of the save path, the image of a strand, and the
motif's own units in its save slot (R199, R378 to R381). What the spec gives no byte layout of stays beside the bytes (log
entry 9). -/

namespace Sys2Proof.Machine

/-! ## Vector registers -/

/-- The value of a register's lane as the save path's forms see it. -/
def laneWord (t : Strand) (r lane : Nat) : Word := tget 0 t.vregs (r * 96 + lane)

/-- The form in which the save path writes a vector register: the smallest, the lower tag on a tie (R380). -/
def saveTag (t : Strand) (r : Nat) : Nat :=
  let ws := (List.range 96).map (laneWord t r)
  let base := laneWord t r 0
  let stride := laneWord t r 1 - base
  if ws.all fun w => w == base then 1
  else if (List.range 96).all fun l => laneWord t r l == base + BitVec.ofNat 32 l * stride then 2
  else if ws.all fun w => w == (w.setWidth 8).signExtend 32 then 3
  else if ws.all fun w => w == (w.setWidth 16).signExtend 32 then 4
  else 0

/-- The save-path tags of a motif: strand, register, tag (R379, R380). -/
def saveTags (m : Motif) : List (Nat × Nat × Nat) :=
  m.strands.flatMap fun t => (List.range m.header.allot).map fun r => (t.index, r, saveTag t r)

/-- The bytes that a register takes in the form of a save-path tag (R380). -/
def tagSize (tag : Nat) : Nat :=
  match tag with
  | 0 => 384
  | 1 => 4
  | 2 => 8
  | 3 => 96
  | _ => 192

/-- A register's bytes in the form of a tag (R380). -/
def packReg (t : Strand) (r tag : Nat) : List Byte :=
  let word := fun (l : Nat) => (laneWord t r l).toNat
  match tag with
  | 0 => (List.range 96).flatMap fun l => leBytes 4 (word l)
  | 1 => leBytes 4 (word 0)
  | 2 => leBytes 4 (word 0) ++ leBytes 4 (laneWord t r 1 - laneWord t r 0).toNat
  | 3 => (List.range 96).flatMap fun l => leBytes 1 (word l % 2 ^ 8)
  | _ => (List.range 96).flatMap fun l => leBytes 2 (word l % 2 ^ 16)

/-- The word of a lane that stored bytes in the form of a tag restore (R380). -/
def unpackLane (tag : Nat) (b : List Byte) (lane : Nat) : Word :=
  match tag with
  | 0 => BitVec.ofNat 32 (fieldAt b (4 * lane) 4)
  | 1 => BitVec.ofNat 32 (fieldAt b 0 4)
  | 2 => BitVec.ofNat 32 (fieldAt b 0 4) + BitVec.ofNat 32 lane * BitVec.ofNat 32 (fieldAt b 4 4)
  | 3 => (BitVec.ofNat 8 (fieldAt b lane 1)).signExtend 32
  | _ => (BitVec.ofNat 16 (fieldAt b (2 * lane) 2)).signExtend 32

/-! ## The image of a strand -/

/-- An absent slot's entry (R379). -/
def noSlot : List Byte := List.replicate 32 0

/-- The status part of a strand's image, 0x08C0 to 0x08FF (R379). -/
def Strand.statusImage (t : Strand) : List Byte :=
  padTo 64 (leBytes 4 t.wb ++ leBytes 4 t.handler.toNat ++ leBytes 4 t.frm.toNat ++ leBytes 4 t.fflags.toNat ++
    leBytes 4 t.fexc.toNat ++ leBytes 4 t.srseed.toNat ++ leBytes 4 t.evpend.toNat ++ leBytes 4 t.lastPop.toNat ++
    leBytes 8 t.evtimer.toNat ++ leBytes 8 t.trappc.toNat ++ leBytes 4 t.trapcause.toNat ++ leBytes 4 t.trapval.toNat)

/-- The image of a strand: divergence stack, live slots, scalar registers, status, stochastic-rounding state, the tags of
the registers and their data. Where the rule names a part without its layout the bytes are 0 (R379; log entry 9). -/
def Strand.image (t : Strand) (allot : Nat) : List Byte :=
  let tags := (List.range allot).map (saveTag t)
  padTo 0x800 (t.stack.flatMap Slot.entry) ++
  ((t.live.head?.map Slot.entry).getD noSlot ++ (t.live[1]?.map Slot.entry).getD noSlot) ++
  ((List.range 32).flatMap fun n => leBytes 4 (t.sreg n).toNat) ++
  t.statusImage ++ ((List.range 96).flatMap fun l => leBytes 3 (tget 0 t.gens l).toNat) ++ List.replicate 0x60 0 ++
  padTo 0xC0 (leBytes 0xC0 (tags.zipIdx.map fun e => e.1 * 8 ^ e.2).sum) ++ List.replicate 0xC0 0 ++
  tags.zipIdx.flatMap fun e => packReg t e.2 e.1

/-- The save-path tags that the head of a strand's image holds: register n in bits 3n+2 to 3n of the string (R380). -/
def imageTags (head : List Byte) (allot : Nat) : List Nat :=
  let bits := fieldAt head 0xA80 0xC0
  (List.range allot).map fun n => bits / 8 ^ n % 8

/-- A slot as its entry gives it; of its wait condition the entry says only whether it may issue (R133, R379). -/
def Slot.load (x : Slot) (b : List Byte) : Slot :=
  { x with
    pc := BitVec.ofNat 64 (fieldAt b 0 8), members := BitVec.ofNat 96 (fieldAt b 8 12)
    wait := if fieldAt b 20 4 = 0 then .ready else x.wait }

/-- The slots of a part of an image: an entry without members is no slot (R379). -/
def loadSlots (kept : List Slot) (n : Nat) (b : List Byte) : List Slot :=
  let blank : Slot := { pc := 0, members := 0, wait := .ready, held := false }
  ((List.range n).map fun i => (kept.getD i blank).load ((b.drop (32 * i)).take 32)).filter fun x => x.members != 0

/-- Whether an entry of a slot holds a reserved value (R7, R133). -/
def entryReserved (b : List Byte) : Bool := decide (2 < fieldAt b 20 4) || fieldAt b 28 4 != 0

/-- Why the image of a strand is rejected: a reserved tag, or a reserved field of one of its slots (R368, R380). -/
def imageFault (head : List Byte) (allot depth : Nat) : Option Nat :=
  if (imageTags head allot).any fun t => decide (4 < t) then some 1
  else if (List.range depth).any (fun i => entryReserved ((head.drop (32 * i)).take 32)) ||
      (List.range 2).any (fun i => entryReserved ((head.drop (0x800 + 32 * i)).take 32)) then some 2
  else none

/-- What a saved strand has now of a part of its state: what the device has written into it since the save, else what its
image holds (R375, R381). -/
def loaded {α : Type} [DecidableEq α] (now was image : α) : α := if now = was then image else now

/-- A table of words from what each key holds. -/
def tableOf (n : Nat) (f : Nat → Word) : Table Word :=
  (List.range n).filterMap fun i => if f i = 0 then none else some (i, f i)

/-- The vector registers of a strand from the tags and the packed data of its image (R379, R380). -/
def loadVregs (tags : List Nat) (data : List Byte) : Table Word :=
  let starts := tags.foldl (fun (a : List (Nat × Nat) × Nat) t => (a.1 ++ [(t, a.2)], a.2 + tagSize t)) ([], 0)
  starts.1.zipIdx.flatMap fun e =>
    (tableOf 96 (unpackLane e.1.1 ((data.drop e.1.2).take (tagSize e.1.1)))).map fun w => (e.2 * 96 + w.1, w.2)

/-- A saved strand with what its image holds (R379, R381); `was` is the strand as the image was written. -/
def Strand.load (t was : Strand) (tags : List Nat) (head data : List Byte) : Strand :=
  let word := fun (off : Nat) => BitVec.ofNat 32 (fieldAt head off 4)
  { t with
    stack := loadSlots t.stack t.stack.length head
    live := loadSlots t.live 2 (head.drop 0x800)
    sregs := tableOf 29 fun n => if n = 0 then 0 else loaded (tget 0 t.sregs n) (tget 0 was.sregs n) (word (0x840 + 4 * n))
    mask := BitVec.ofNat 96 (fieldAt head 0x8B4 12)
    wb := fieldAt head 0x8C0 4
    handler := bitAt (fieldAt head 0x8C4 4) 0
    frm := word 0x8C8
    fflags := word 0x8CC
    fexc := word 0x8D0
    srseed := word 0x8D4
    evpend := loaded t.evpend was.evpend (word 0x8D8)
    lastPop := word 0x8DC
    evtimer := BitVec.ofNat 64 (fieldAt head 0x8E0 8)
    trappc := BitVec.ofNat 64 (fieldAt head 0x8E8 8)
    trapcause := word 0x8F0
    trapval := word 0x8F4
    gens := (List.range 96).filterMap fun l =>
      let g := BitVec.ofNat 24 (fieldAt head (0x900 + 3 * l) 3)
      if g = 0 then none else some (l, g)
    vregs := loadVregs tags data }

/-! ## The bytes in memory -/

/-- One line of an image written by the hardware through the context's tables: the system region is never compressed (R199,
R270). -/
def writeImageLine (m : Motif) (v : View) (s : State) (va : Nat) (bytes : List Byte) : State :=
  match pageTarget s v false va bytes.length .write with
  | .phys p e => agentWrite s m (.phys p { e with comp := e.comp && decide (va < systemBase 0) }) va bytes
  | _ => s

/-- Bytes of an image written line by line; they begin on a line. -/
def writeImage (m : Motif) (v : View) (s : State) (va : Nat) (bytes : List Byte) : State :=
  (linePieces (bytes.length / 128 + 1) 0 bytes).foldl (fun s l => writeImageLine m v s (va + 128 * l.1) l.2) s

/-- A byte that no rule states, by a counter of the state and its address: what the hardware's own read of a poisoned line of
an image gives (log entry 8). -/
def freeByte (free a : Nat) : Byte :=
  BitVec.ofNat 8 ((List.range 8).map fun i => (Config.freeBit free (8 * a + i)).toNat * 2 ^ i).sum

/-- One line of an image as the hardware reads it. -/
def readImageLine (s : State) (m : Motif) (v : View) (va : Nat) : List Byte :=
  (agentRead s m (pageTarget s v false va 128 .read) 128).getD ((List.range 128).map fun i => freeByte s.free (va + i))

/-- Bytes of an image; they begin on a line. -/
def readImage (s : State) (m : Motif) (v : View) (va n : Nat) : List Byte :=
  ((List.range ((n + 127) / 128)).flatMap fun i => readImageLine s m v (va + 128 * i)).take n

/-- The address of a motif's save slot (R378). -/
def slotBase (m : Motif) (slot : Nat) : Nat := m.desc.msave + 2 ^ 21 * slot

/-- The bytes of a tile: its rows in order (R319, R378). -/
def Tile.image (t : Tile) : List Byte :=
  (List.range 128).flatMap fun r =>
    let row := t.rows.getD r []
    (List.range 256).flatMap fun c => leBytes 4 (row.getD c 0).toNat

/-- A tile with the cells that its image holds. -/
def Tile.load (t : Tile) (b : List Byte) : Tile :=
  let row := fun (r : Nat) => (List.range 256).map fun c => BitVec.ofNat 32 (fieldAt b (1024 * r + 4 * c) 4)
  { t with rows := tileRows ((List.range 128).map row) }

/-- The scratchpad and the tiles of a motif as parts of its record: offsets and bytes (R378). -/
def Motif.unitParts (m : Motif) : List (Nat × List Byte) :=
  let tile := fun (q : Sequencer) (i : Nat) => (q.tiles.getD i { rows := [], f64 := false, flags := 0 }).image
  (0x80000, readBytes m.scratch 0 (m.header.scratch * 1024)) ::
  match m.seq with
  | none => []
  | some q => (List.range 4).map fun i => (0x100000 + 0x20000 * i, tile q i)

/-- A motif with the scratchpad and the tiles that its record holds, of which `read` gives the bytes at an offset; `was` is the
motif as the record was written. -/
def Motif.loadUnits (m was : Motif) (read : Nat → Nat → List Byte) : Motif :=
  let scratch := (read 0x80000 (m.header.scratch * 1024)).zipIdx.filterMap fun e => if e.1 = 0 then none else some (e.2, e.1)
  { m with
    scratch := loaded m.scratch was.scratch scratch
    seq := m.seq.map fun q =>
      { q with tiles := q.tiles.zipIdx.map fun e => e.1.load (read (0x100000 + 0x20000 * e.2) 0x20000) } }

/-- A motif's image written: each strand's at its place, the scratchpad and the tiles in the save slot, whose reserved bytes
beside the sequencer's state are 0 (R378, R379). -/
def saveImage (s : State) (m : Motif) (slot : Nat) : State :=
  let v := motifView m
  let s1 := m.strands.foldl (fun s t => writeImage m v s (systemBase t.place) (t.image m.header.allot)) s
  ((0x3400, List.replicate 0xC00 0) :: m.unitParts).foldl (fun s e => writeImage m v s (slotBase m slot + e.1) e.2) s1

/-- The head of each strand's image, with its strand. -/
def imageHeads (s : State) (m : Motif) (v : View) : List (Strand × List Byte) :=
  m.strands.map fun t => (t, readImage s m v (systemBase t.place) 0xC00)

/-- The tags that the images of a motif's strands hold: strand, register, tag. -/
def storedTags (m : Motif) (heads : List (Strand × List Byte)) : List (Nat × Nat × Nat) :=
  heads.flatMap fun e => (imageTags e.2 m.header.allot).zipIdx.map fun x => (e.1.index, x.2, x.1)

/-- Why a motif's image is rejected: the detail of its code 34 and the strand that it names (R368, R380). -/
def imageRejected (s : State) (m : Motif) (v : View) (slot : Nat) (heads : List (Strand × List Byte)) : Option (Nat × Nat) :=
  if (readImage s m v (slotBase m slot + 0x3400) 0xC00).any fun b => b != 0 then some (2 + 0xFF * 2 ^ 8 + 2 * 2 ^ 16, 0xFF)
  else heads.findSome? fun e => (imageFault e.2 m.header.allot e.1.stack.length).map fun cause =>
    (1 + e.1.index * 2 ^ 8 + cause * 2 ^ 16, e.1.index)

/-- A motif with what its image in memory holds (R381); `was` is the motif as the image was written. -/
def loadImage (s : State) (m was : Motif) (v : View) (slot : Nat) (heads : List (Strand × List Byte)) : Motif :=
  let strand := fun (e : Strand × List Byte) =>
    let tags := imageTags e.2 m.header.allot
    let data := readImage s m v (systemBase e.1.place + 0xC00) (tags.map tagSize).sum
    e.1.load ((was.strands.find? fun t => t.index == e.1.index).getD e.1) tags e.2 data
  { m.loadUnits was (fun off n => readImage s m v (slotBase m slot + off) n) with strands := heads.map strand }

/-- The pages that hold a number of bytes. -/
def pagesOf (va n : Nat) : List Nat := (List.range ((n + 4095) / 4096)).map fun i => va + 4096 * i

/-- Where a motif's image lies: its strands' in the system region, the motif's own in its slot of the save region; address and
length (R199, R378, R379). -/
def imageAreas (m : Motif) (slot : Nat) (tags : List (Nat × Nat × Nat)) : List (Nat × Nat) :=
  let base := slotBase m slot
  let data := fun (t : Strand) => ((tags.filter fun e => e.1 == t.index).map fun e => tagSize e.2.2).sum
  m.strands.map (fun t => (systemBase t.place, 0xC00 + data t)) ++
  [(base, 0x4000), (base + 0x80000, m.header.scratch * 1024), (base + 0x100000, if m.seq.isSome then 0x80000 else 0)]

/-- The pages that a motif's image lies in. -/
def imagePages (m : Motif) (slot : Nat) (tags : List (Nat × Nat × Nat)) : List Nat :=
  (imageAreas m slot tags).flatMap fun a => pagesOf a.1 a.2

/-- The state with the errors found that the hardware's read of an image meets (R283, R284). -/
def scanImage (s : State) (m : Motif) (v : View) (slot : Nat) (tags : List (Nat × Nat × Nat)) : State :=
  discoverAll s m.cid ((imageAreas m slot tags).flatMap fun a => (List.range ((a.2 + 127) / 128)).map fun i =>
    (a.1, pageTarget s v false (a.1 + 128 * i) 128 .read))

end Sys2Proof.Machine
end

