-- ==== Sys2Proof/Machine/Cuts.lean ====
section
/-! DEFINITION. Consistent cuts: the local record, markers, the Fumarole engines, completion and failure, and the
instructions SNAP, SNAPWAIT and SNAPSTAT (R431 to R458). -/

namespace Sys2Proof.Machine

/-! ## The state of a cut -/

/-- The cut of a job with a number, live or the last of its colour (R456, R457). -/
def cutOf (s : State) (cid : Cid) (cutid : Nat) : Option Cut :=
  (jobOf s cid).colours.findSome? fun c => match c with
    | some c => if c.cutid = cutid then some c else none
    | none => none

/-- A cut changed. -/
def updCut (s : State) (cid : Cid) (cutid : Nat) (f : Cut → Cut) : State :=
  mapCuts s cid fun c => if c.cutid = cutid then f c else c

/-- A cut changed in a way that shows in cutstate: CUT is pending in every strand (R120, R458). -/
def moveCut (s : State) (cid : Cid) (cutid : Nat) (f : Cut → Cut) : State := setEvent (updCut s cid cutid f) cid 2

/-- The links that a list of 48 bits names. -/
def linksOf (bits : Nat) : List Nat := (List.range 48).filter (bitAt bits)

/-- The incoming channels that a cut awaits: 8 of each link (R447, R457). -/
def Cut.channels (c : Cut) : Nat := 8 * (linksOf c.links).length

/-- A cut whose last marker has come goes on to streaming (R458). -/
def markersIn (s : State) (cid : Cid) (cutid : Nat) : State :=
  match cutOf s cid cutid with
  | some c => if c.live ∧ c.state = 1 ∧ c.channels ≤ c.markers.length then moveCut s cid cutid fun c => { c with state := 2 } else s
  | none => s

/-! ## The local record -/

/-- A slot that waits in SNAP is recorded with its SNAP not yet issued (R438). -/
def recordSlot (x : Slot) : Slot :=
  match x.wait with
  | .snap _ _ => { x with wait := .ready }
  | _ => x

/-- A motif as a cut records it at the pulse: commands with zero progress (R437, R438). -/
def recordMotif (m : Motif) : Motif :=
  { m with
    strands := m.strands.map fun t => { t with live := t.live.map recordSlot, stack := t.stack.map recordSlot }
    commands := m.commands.map fun c => if c.complete then c else { c with done := [], waits := [], begun := [] }
    preempt := none
    drained := false }

/-- The marker of a cut for one channel (R447). -/
def markerOf (s : State) (cid : Cid) (cutid vc : Nat) (cls : Bool) : Packet :=
  let p := newPacket s cid 0 vc 8 0
  sealPacket { p with
    cls := cls, addr := BitVec.ofNat 64 cutid
    cut := BitVec.ofNat 8 (epochOf cutid % 3 + 4 + cutid % 2 * 8) }

/-- The eight markers of a cut placed on each of its links, behind what is queued (R448). -/
def sendMarkers (s : State) (cid : Cid) (cutid links : Nat) : State :=
  (linksOf links).foldl (fun s l =>
    (List.range 8).foldl (fun s k =>
      let p := markerOf s cid cutid (k / 2) (k % 2 == 1)
      updLink s l (enqueue s.clock p)) s) s

/-- A job's cut recorded on this chip: the pulse switches the epoch, the markers go out, and every item that its image
takes at the pulse is held (R434, R436 to R438, R448). -/
def recordCut (s : State) (cid : Cid) (cutid : Nat) (b : CutBlock) : State :=
  let mine := fun (m : Motif) => m.cid == cid
  let rings := s.rings.filter fun e => e.2.owner == some (cidVd cid) && e.2.ctx == cidCtx cid && e.2.enable
  let sticky := s.clusters.flatMap fun e =>
    (e.2.handles.filter fun h => h.cid == cid && h.sticky != 0).map (fun h => (h.handle, h.sticky)) ++
    (e.2.stickyPend.filter fun p => p.cid == cid).map fun p => (p.handle, p.bits)
  let c : Cut :=
    { cutid := cutid, desc := descOfCtx s cid, state := 1, cause := 0, markers := [], doneFrom := [], doneSent := false, bytes := 0, live := true
      freed := false, visited := [], units := (s.motifs.filter mine).map (·.uid), preserved := [], streamed := []
      motifs := (s.motifs.filter mine).map recordMotif
      saved := (ctxOf s cid).saved.map (Saved.mapMotif recordMotif)
      records := s.records.filter fun r => r.cid == cid && r.begun && !r.done
      rings := rings.map fun e => (e.1, { e.2 with fetched := e.2.begun })
      requests := s.requests.filter fun r => r.cid == cid && r.op != 9
      logs := [], headerWritten := false, coord := b.coord, nchips := b.nchips, links := b.links, sticky := sticky }
  let s1 := updJob s cid fun j =>
    { j with epoch := epochOf cutid, latest := cutid, colours := j.colours.set (cutid % 2) (some c) }
  let s2 := sendMarkers (setEvent s1 cid 2) cid cutid b.links
  markersIn (wakeCtx s2 cid fun w => match w with
    | .snap _ _ => true
    | _ => false) cid cutid

/-- Whether the colour of a cut is free for it on this chip (R442). -/
def colourReady (s : State) (cid : Cid) (cutid : Nat) : Bool :=
  match (jobOf s cid).colours.getD (cutid % 2) none with
  | none => true
  | some c => c.freed

/-- The coordinator's answer to a request for a cut: the number of the cut that it starts, or 0 when busy (R433, R442,
R455). -/
def startCut (s : State) (cid : Cid) (b : CutBlock) : State × Nat :=
  let c := nextCut (jobOf s cid).latest
  if colourReady s cid c then (recordCut s cid c b, c) else (s, 0)

/-- A recorded strand whose SNAP started the cut: the SNAP of the slot of those lanes is completed, its destination holds the
number (R438). -/
def completeSnap (uid strand : Nat) (lanes : LaneMask) (pc : Dword) (reg size cutid : Nat) (m : Motif) : Motif :=
  let slot := fun (x : Slot) =>
    if x.pc = pc ∧ x.members &&& lanes ≠ 0 then { x with pc := x.pc + BitVec.ofNat 64 size, wait := .ready } else x
  let one := fun (t : Strand) =>
    if t.index = strand then
      { t with live := t.live.map slot, stack := t.stack.map slot, sregs := tset 0 t.sregs reg (BitVec.ofNat 32 cutid) }
    else t
  if m.uid = uid then { m with strands := m.strands.map one } else m

/-- The record of a cut with a strand's SNAP completed, in resident and saved motifs (R438). -/
def patchSnap (s : State) (cid : Cid) (cutid uid strand : Nat) (lanes : LaneMask) (pc : Dword) (reg size : Nat) : State :=
  let f := completeSnap uid strand lanes pc reg size cutid
  updCut s cid cutid fun c => { c with motifs := c.motifs.map f, saved := c.saved.map (Saved.mapMotif f) }

/-! ## Instructions -/

/-- SNAP (R432, R438, R454, R455). -/
def execSnap (p : Option Pfx) (w : FmtA) (s : State) : Host.Outcome State Fault Refusal :=
  runStrand (.snap p w) (fun q s =>
    let cid := q.m.cid
    let k := q.asker
    let give := fun (s : State) (v : Nat) => putDest s q { dst := w.d, width := 1, vals := [(0, v)] }
    let reg := scalarNo w.d
    if !q.m.desc.cutRight then give s 0xFFFFFFFF
    else
      let s := noticeBlock s cid
      match cutBlockOf s cid with
      | none => give s 0xFFFFFFFF
      | some b =>
        if b.coord = ownChip s (cidVd cid) then
          let r := startCut s cid b
          if r.2 = 0 then give s 0
          else give (patchSnap r.1 cid r.2 q.m.uid q.t.index k.lanes q.pc reg 4) r.2
        else
          match requestBy s k reg 9 with
          | none =>
            let req : Request :=
              { rtag := s.nextRtag, op := 9, cid := cid, uid := k.uid, strand := k.strand, lanes := k.lanes
                slotPc := k.pc, index := reg, again := false, link := 0, answer := none, sent := s.clock }
            let s1 := { s with nextRtag := (s.nextRtag + 1) % 2 ^ 32, requests := s.requests ++ [req] }
            .error (.block (.snap reg 4) (sendCtrl s1 cid b.coord 4 0 0 s.nextRtag))
          | some r =>
            match r.answer with
            | none => .error (.block (.snap reg 4) s)
            | some a =>
              let v := leNat a.2
              if v = 0 ∨ v = 0xFFFFFFFF ∨ (cutOf s cid v).isSome then give (forgetBy s k 9) v
              else .error (.block (.snap reg 4) s)) s

/-- SNAPWAIT (R432, R454, R456). -/
def execSnapwait (p : Option Pfx) (w : FmtA) (s : State) : Host.Outcome State Fault Refusal :=
  runStrand (.snapwait p w) (fun q s =>
    let v := q.read w.a 1 0
    match cutOf s q.m.cid v with
    | none => putDest s q { dst := w.d, width := 1, vals := [(0, 7)] }
    | some c =>
      if c.live then .error (.block (.cut (BitVec.ofNat 32 v)) s)
      else putDest s q { dst := w.d, width := 1, vals := [(0, c.state)] }) s

/-- SNAPSTAT's sample of a cut (R457). -/
def snapSample (s : State) (cid : Cid) (fn v : Nat) : Nat :=
  match cutOf s cid v with
  | none => if fn = 0 then 7 else 0
  | some c =>
    match fn with
    | 0 => c.state + c.cause * 16
    | 1 => c.markers.length + c.channels * 2 ^ 16
    | 2 => if c.coord = ownChip s (cidVd cid) then c.doneFrom.length else c.doneSent.toNat
    | _ => c.bytes

/-- SNAPSTAT (R432, R454, R457). -/
def execSnapstat (p : Option Pfx) (w : FmtA) (s : State) : Host.Outcome State Fault Refusal :=
  runStrand (.snapstat p w) (fun q s =>
    putDest s q { dst := w.d, width := if w.fn = 3 then 2 else 1
                  vals := [(0, snapSample s q.m.cid w.fn.toNat (q.read w.a 1 0))] }) s

/-! ## Markers and control packets -/

/-- The number of an incoming channel: its link, VC and class (R447). -/
def channelNo (link : Nat) (p : Packet) : Nat := link * 8 + p.vc.toNat * 2 + p.cls.toNat

/-- A cut recorded on a chip that does not start it. The strand whose SNAP started it may have its answer already: its record
holds the SNAP completed (R434, R438, R455). -/
def followCut (s : State) (cid : Cid) (cutid : Nat) (b : CutBlock) : State :=
  let answered := s.requests.filter fun r => r.op == 9 && r.cid == cid && (match r.answer with
    | some a => leNat a.2 == cutid
    | none => false)
  answered.foldl (fun s r => patchSnap s cid cutid r.uid r.strand r.lanes r.slotPc r.index 4) (recordCut s cid cutid b)

/-- Whether a marker names a cut of a job with a cut block, on a link of the job (R431, R433, R447). -/
def markerCounts (s : State) (link : Nat) (p : Packet) : Option CutBlock :=
  (cutBlockOf s p.cid).filter fun b => decide (1 ≤ p.addr.toNat ∧ p.addr.toNat ≤ 0xFFFF0000) && bitAt b.links link

/-- A marker that cannot yet have its cut recorded, since the colour is not free: it holds its channel (R442, R448). -/
def markerWaits (s : State) (link : Nat) (p : Packet) : Bool :=
  (markerCounts s link p).isSome && (cutOf s p.cid p.addr.toNat).isNone && !colourReady s p.cid p.addr.toNat

/-- A marker taken: a chip that has not recorded the cut does; the channel has delivered its marker (R431, R448). -/
def takeMarker (s0 : State) (link : Nat) (p : Packet) : State :=
  let s := noticeBlock s0 p.cid
  match markerCounts s link p with
  | none => s
  | some b =>
    let cutid := p.addr.toNat
    let s1 := if (cutOf s p.cid cutid).isSome then s else followCut s p.cid cutid b
    let ch := channelNo link p
    markersIn (updCut s1 p.cid cutid fun c =>
      { c with markers := if c.markers.contains ch then c.markers else c.markers ++ [ch] }) p.cid cutid

/-- MARKER: taken, or held behind what its channel holds or for its colour (R431, R448, R460). -/
def execMarker (link : Nat) (p : Packet) (s : State) : Host.Outcome State Fault Refusal :=
  if p.op ≠ 8 ∨ !packetValid s p then .next (dropPacket s link p)
  else if mustWait s link p || markerWaits s link p then .next (hold s link p)
  else .next (takeMarker s link p)

/-- The cut that a CTRL packet names, and its cause or answer (R451). -/
def ctrlCut (p : Packet) : Nat := fieldAt p.payload 4 4

/-- The cause or the answer of a CTRL packet (R451). -/
def ctrlValue (p : Packet) : Nat := fieldAt p.payload 8 4

/-- A live cut complete on this chip: its colour is free, waiters go on (R452, R456). -/
def completeCut (s : State) (cid : Cid) (cutid : Nat) : State :=
  match cutOf s cid cutid with
  | some c =>
    if c.live then
      wakeCut (moveCut s cid cutid fun c => { c with state := 4, live := false, freed := true }) cid cutid
    else s
  | none => s

/-- A DONE counted at the coordinator; the last one completes the cut everywhere (R452). -/
def countDoneOf (s : State) (cid : Cid) (cutid chip : Nat) : State :=
  let s1 := updCut s cid cutid fun c =>
    { c with doneFrom := if c.doneFrom.contains chip then c.doneFrom else c.doneFrom ++ [chip] }
  match cutOf s1 cid cutid with
  | some c =>
    if c.live ∧ c.nchips ≤ c.doneFrom.length then
      let others := c.doneFrom.filter fun x => x != ownChip s (cidVd cid)
      completeCut (others.foldl (fun s x => sendCtrl s cid x 2 cutid 0 0) s1) cid cutid
    else s1
  | none => s1

/-- DONE at the coordinator (R451, R452). -/
def doneCtrl (s : State) (p : Packet) : State :=
  match cutOf s p.cid (ctrlCut p) with
  | some c => if c.live && c.coord == ownChip s (cidVd p.cid) then countDoneOf s p.cid c.cutid p.src.toNat else s
  | none => s

/-- FAIL: the coordinator passes it on to every chip (R453). -/
def failCtrl (s : State) (p : Packet) : State :=
  match cutOf s p.cid (ctrlCut p) with
  | some c =>
    if c.live then
      let s1 := endCut s p.cid c.cutid (ctrlValue p)
      if c.coord = ownChip s (cidVd p.cid) then sendFail s1 p.cid c (ctrlValue p) else s1
    else s
  | none => s

/-- SNAPREQ: the coordinator starts a cut or answers busy (R455). -/
def snapreqCtrl (s : State) (p : Packet) : State :=
  match cutBlockOf s p.cid with
  | some b =>
    if b.coord = ownChip s (cidVd p.cid) then
      let r := startCut s p.cid b
      sendCtrl r.1 p.cid p.src.toNat 5 r.2 r.2 p.rtag.toNat
    else s
  | none => s

/-- SNAPANS: the waiting SNAP has its answer; the record of the cut, if it stands already, holds the SNAP completed
(R438, R455). -/
def snapansCtrl (s : State) (p : Packet) : State :=
  match requestFor s p.cid p.rtag.toNat [9] with
  | none => s
  | some r =>
    let v := ctrlValue p
    let s1 := answerRequest s r 0 (leBytes 4 v)
    let s2 := if (cutOf s1 p.cid v).isSome then patchSnap s1 p.cid v r.uid r.strand r.lanes r.slotPc r.index 4 else s1
    wakeAway s2 r fun w => w == .snap r.index 4

/-- A CTRL packet that is taken: of another chip it goes on; of this chip, in a context with a cut block, it takes effect by its
kind (R414, R431, R451). -/
def takeCtrl (s : State) (p : Packet) : State :=
  if !packetLocal s p then forward s p
  else if (cutBlockOf s p.cid).isNone then s
  else
    match fieldAt p.payload 0 1 with
    | 1 => doneCtrl s p
    | 2 => completeCut s p.cid (ctrlCut p)
    | 3 => failCtrl s p
    | 4 => snapreqCtrl s p
    | 5 => snapansCtrl s p
    | _ => s

/-- A CTRL packet of a kind as the package takes it in: dropped, held in the receive buffer like any other, or taken (R412,
R415, R448, R460). -/
def receiveCtrl (s : State) (link kind : Nat) (p : Packet) : State :=
  if p.op ≠ 9 ∨ !packetValid s p then dropPacket s link p
  else if mustWait s link p || !(packetLocal s p || hasRoom s p) then hold s link p
  else if packetLocal s p ∧ fieldAt p.payload 0 1 ≠ kind then s
  else takeCtrl s p

/-- DONE (R451, R452). -/
def execDoneCtrl (link : Nat) (p : Packet) (s : State) : Host.Outcome State Fault Refusal := .next (receiveCtrl s link 1 p)

/-- COMPLETE (R452). -/
def execCompleteCtrl (link : Nat) (p : Packet) (s : State) : Host.Outcome State Fault Refusal := .next (receiveCtrl s link 2 p)

/-- FAIL (R453). -/
def execFailCtrl (link : Nat) (p : Packet) (s : State) : Host.Outcome State Fault Refusal := .next (receiveCtrl s link 3 p)

/-- SNAPREQ (R455). -/
def execSnapreq (link : Nat) (p : Packet) (s : State) : Host.Outcome State Fault Refusal := .next (receiveCtrl s link 4 p)

/-- SNAPANS (R438, R455). -/
def execSnapans (link : Nat) (p : Packet) (s : State) : Host.Outcome State Fault Refusal := .next (receiveCtrl s link 5 p)

/-- CUT_ABORT: a live cut of the device's job fails with cause 4 (R423, R453). -/
def execCutAbort (vd : Nat) (v : BitVec 64) (s : State) : Host.Outcome State Fault Refusal :=
  let cutid := (v.extractLsb' 0 32).toNat
  .next (failCut s (cidOf vd (v.extractLsb' 32 11).toNat) 4 fun c => c.cutid == cutid)

/-! ## The Fumarole engines -/

/-- The die of a granule's home: that of its frame's stack; tier two by the ports' pages (R204, R206, R207, R409). -/
def granuleDie (_ : State) (p : PAddr) : Nat :=
  match p.space with
  | .device => frameDie (p.addr / 2 ^ 21)
  | _ => p.addr / 16384 % 4

/-- The leaves of a table of stage one, from a level down: virtual base and leaf (R209). -/
def leavesOf (s : State) (vd : Nat) : Nat → Nat → Nat → List (Nat × Leaf)
  | 0, _, _ => []
  | level + 1, table, base =>
    (List.range 512).flatMap fun i =>
      let va := base + i * 2 ^ (12 + 9 * level)
      match stage2 s none vd (table + 8 * i) 8 with
      | .error _ => []
      | .ok l =>
        let p := leafSpace (bitAt l.e 11) (l.at (table + 8 * i))
        let e := leNat (readBytes (spaceMem s p.space) p.addr 8)
        if isPoisoned s p || !bitAt e 0 then []
        else if bitAt e 1 then leavesOf s vd level (pteAddr e) va
        else [(va, { e := e, size := leafSize (level + 1) e, base := leafBase (level + 1) e })]

/-- The pieces of 4 KiB of a context's mapped memory that a cut records: their virtual and their physical addresses
(R213, R437). -/
def recordedPieces (s : State) (cid : Cid) (d : Desc) (pod : Bool) : List (Nat × PAddr) :=
  let vd := cidVd cid
  let leaves := if pod then (if d.podroot = 0 then [] else leavesOf s vd 4 d.podroot 0) else leavesOf s vd 5 d.sroot 0
  let front := if pod then 0xFF00000000000000 + ownChip s vd * 2 ^ 44 else 0
  leaves.flatMap fun e =>
    if bitAt e.2.e 10 then []
    else
      (List.range (e.2.size / 4096)).filterMap fun i =>
        let va := e.1 + 4096 * i
        match stage2Leaf s none vd (e.2.at va) with
        | .error _ => none
        | .ok l2 =>
          let p := leafSpace (bitAt (if (vdevOf s vd).s2on then l2.e else e.2.e) 11)
            (if (vdevOf s vd).s2on then l2.at (e.2.at va) else e.2.at va)
          let snap := bitAt e.2.e 56 || ((vdevOf s vd).s2on && bitAt l2.e 56)
          if (snap || (!pod && recordedRegion s cid d va)) && (p.space == .device || p.space == .tier2) then some (front + va, p)
          else none

/-- The granules that a cut records, each with a virtual address that reaches it (R437, R440). -/
def recordedGranules (s : State) (cid : Cid) : List (PAddr × Nat) :=
  match descOfCtx s cid with
  | none => []
  | some d =>
    (recordedPieces s cid d false ++ recordedPieces s cid d true).foldl (fun acc e =>
      if acc.any fun g => g.1 == e.2.granule then acc else acc ++ [(e.2.granule, e.1 / 16384 * 16384)]) []

/-- The next granule of a die that no engine has visited for a cut of the job (R442, R445). -/
def nextGranule (s : State) (cid : Cid) (die : Nat) : Option (PAddr × Nat) :=
  let open' := (jobOf s cid).colours.filterMap fun c => match c with
    | some c => if c.freed then none else some c
    | none => none
  if open'.isEmpty then none
  else
    (recordedGranules s cid).find? fun g =>
      decide (granuleDie s g.1 = die) && open'.any fun c => !c.visited.contains g.1

/-- The bytes that an image spends on a granule: its section head and body (R439). -/
def granuleBytes : Nat := 16992

/-- The motifs of a job on a die whose units a cut's engine has not streamed yet (R442, R445). -/
def unitsOn (s : State) (cid : Cid) (die : Nat) : List Motif :=
  s.motifs.filter fun m => m.cid == cid && m.die == die &&
    (jobOf s cid).colours.any fun c => (c.map fun c => c.units.contains m.uid).getD false

/-- The scratchpad, the registers and the rows of a motif streamed in one pass for every cut: what each image holds of them
was taken at its pulse (R440, R442, R446). -/
def streamUnits (s : State) (cid : Cid) (uid : Nat) : State :=
  mapCuts s cid fun c => { c with units := c.units.filter fun u => u != uid }

/-- A granule that no post-cut write has touched, streamed in one pass for every live cut that needs it; its tag is 0
again (R441, R442, R445). -/
def streamUntouched (s0 : State) (cid : Cid) (g : PAddr × Nat) : State :=
  let s := scanGranule s0 g.1 cid
  let j := jobOf s cid
  let img := granuleImage s g.1 g.2 true
  let tag := granuleTag s g.1
  let one := fun (c : Cut) =>
    if c.freed || c.visited.contains g.1 then c
    else if c.live && !writtenSince tag c j then
      { c with visited := c.visited ++ [g.1], streamed := c.streamed ++ [img], bytes := c.bytes + granuleBytes }
    else { c with visited := c.visited ++ [g.1] }
  let touched := j.colours.any fun c => match c with
    | some c => !c.freed && writtenSince tag c j
    | none => false
  let needed := j.recording.any fun c => !c.visited.contains g.1 && !writtenSince tag c j
  let s1 := mapCuts s cid one
  if touched && !needed then s1 else setGranuleTag s1 g.1 0

/-- A preserved granule of a cut streamed: into the image if the cut records it, which its pages tell where the write that
preserved it did not, and else only out of the buffer (R437, R440, R445). -/
def Cut.streamKept (c : Cut) (pages : List (PAddr × Nat)) (g : Granule) : Cut :=
  let left := { c with preserved := c.preserved.erase g }
  let into := fun (g : Granule) => { left with streamed := c.streamed ++ [g], bytes := c.bytes + granuleBytes }
  if g.sure then into g
  else match pages.find? fun e => e.1 == g.unit with
    | some e => into { g with va := e.2 }
    | none => left

/-- FUMAROLE_STREAM: one unit: a preserved one, the oldest first, else one not written since the pulse: a motif's before
memory's, which lets the motif go sooner (R442, R445, R446; log entry 72). -/
def execFumaroleStream (cid : Cid) (die : Nat) (s : State) : Host.Outcome State Fault Refusal :=
  let mine := fun (g : Granule) => decide (granuleDie s g.unit = die)
  let held := (jobOf s cid).recording.find? fun c => c.preserved.any mine
  match held.bind fun c => (c.preserved.find? mine).map fun g => (c.cutid, g) with
  | some (cutid, g) =>
    .next (updCut s cid cutid fun c => c.streamKept (recordedGranules s cid) g)
  | none =>
    match unitsOn s cid die, nextGranule s cid die with
    | m :: _, _ => .next (streamUnits s cid m.uid)
    | [], some g => .next (streamUntouched s cid g)
    | [], none => .next s

/-- Whether every unit of the job on this chip has been visited for a cut (R442). -/
def allVisited (s : State) (cid : Cid) (c : Cut) : Bool :=
  ((recordedGranules s cid).all fun g => c.visited.contains g.1) &&
  !(s.motifs.any fun m => m.cid == cid && c.units.contains m.uid)

/-- Whether every transaction of the job issued before a cut has been performed or has failed (R442, R451). -/
def preCutOver (s : State) (cid : Cid) (c : Cut) : Bool :=
  let later := fun (e : Nat) => e == epochOf c.cutid || e == epochOf (jobOf s cid).latest
  let chunks := fun (m : Motif) => m.cid == cid && m.commands.any fun x => !x.complete && x.begun.any fun b => !later b.2
  !(s.pendStores.any fun d => d.cid == cid && !later d.epoch) && !(s.motifs.any chunks) &&
  !(s.clusters.any fun e => e.2.stickyPend.any fun p => p.cid == cid && !later p.epoch) &&
  !(c.requests.any fun r => r.answer.isNone && s.requests.any fun x => x.rtag == r.rtag && x.cid == cid && x.answer.isNone)

/-! ## Images -/

/-- The body of a section that holds a granule: its virtual address, its ECC mode, the tags, the check values and the expanded
lines; a poisoned line is zeros (R280, R439). -/
def Granule.body (g : Granule) : List Byte :=
  let tag := fun (i : Nat) => (tget 1 g.tags i).toNat
  let line := fun (i : Nat) => if tag i = 15 then List.replicate 128 0 else readBytes g.cells (128 * i) 128
  leBytes 8 g.va ++ leBytes 8 g.mode ++ ((List.range 64).flatMap fun i => leBytes 1 (tag (2 * i) + 16 * tag (2 * i + 1))) ++
  ((List.range 128).flatMap fun i => leBytes 4 (if tag i = 15 then 0 else (crc32c (line i)).toNat)) ++ (List.range 128).flatMap line

/-- A section of an image: its kind, the length of its body, and the parts of the body whose bytes the spec lays out, by
offset (R378, R379, R439; log entry 30). -/
structure Section where
  kind : Nat
  length : Nat
  parts : List (Nat × List Byte)
  deriving DecidableEq, Repr

/-- The sections of an image beside memory (R437, R439; log entry 30). -/
def Cut.otherSections (c : Cut) : List Section :=
  let strand := fun (m : Motif) (t : Strand) => let b := t.image m.header.allot; Section.mk 3 b.length [(0, b)]
  let log := fun (ch : Nat) => ((c.logs.filter fun e => e.1 == ch).map fun e => 64 + e.2.payload.length).sum
  (c.motifs.map fun m => Section.mk 2 0x180000 m.unitParts) ++ (c.motifs.flatMap fun m => m.strands.map (strand m)) ++
  (c.rings.map fun _ => Section.mk 4 32 []) ++ (c.records.flatMap fun r => r.queues.map fun _ => Section.mk 5 32 []) ++
  ((c.logs.map (·.1)).eraseDups.map fun ch => Section.mk 6 (log ch) []) ++
  (if c.requests.isEmpty then [] else [Section.mk 7 (32 * c.requests.length) []])

/-- The sections of an image, in the order in which they stand: the granules first (R439). -/
def Cut.sections (c : Cut) : List Section := c.streamed.map (fun g => Section.mk 1 16976 [(0, g.body)]) ++ c.otherSections

/-- The bytes of an image beside its granules: the header and the other sections (R439; log entry 30). -/
def fixedBytes (c : Cut) : Nat := 256 + (c.otherSections.map fun x => 16 + x.length).sum

/-- The magic of an image (R439). -/
def imageMagic : Nat := 0x474D494B

/-- The header of an image (R439). -/
def Cut.header (c : Cut) (cid : Cid) (vchip : Nat) : List Byte :=
  let poisoned := (c.streamed.map fun g => (g.tags.filter fun t => t.2 == 15).length).sum
  padTo 256 (leBytes 4 imageMagic ++ leBytes 4 c.cutid ++ leBytes 2 cid.toNat ++ leBytes 2 vchip ++
    leBytes 4 c.sections.length ++ leBytes 8 c.bytes ++ leBytes 4 poisoned)

/-- Bytes of an image written to its region in tier two or in host memory, line by line; a poisoned line keeps nothing (R257,
R283, R431, R439). -/
def regionWrite (s : State) (cid : Cid) (kind addr : Nat) (bytes : List Byte) : State :=
  if kind = 1 then { s with hostMem := writeBytes s.hostMem addr bytes }
  else
    (piecesOf addr bytes.length 128).foldl (fun s a =>
      let p : PAddr := { space := .tier2, addr := a }
      let b := (bytes.drop (a - addr)).take (128 - a % 128)
      let s1 := beforeWrite s cid p b.length
      if lineTag s1 p = 15 then s1
      else
        let s2 := setLineTag (setSpaceMem s1 .tier2 (writeBytes (spaceMem s1 .tier2) a b)) p 0
        if b.length = 128 then dropLatent s2 p else s2) s

/-- The sections of an image written behind its header (R439). -/
def writeSections (s : State) (cid : Cid) (kind addr : Nat) (xs : List Section) : State :=
  (xs.foldl (fun (a : State × Nat) x =>
    let s1 := regionWrite a.1 cid kind a.2 (leBytes 8 x.kind ++ leBytes 8 x.length)
    (x.parts.foldl (fun s e => regionWrite s cid kind (a.2 + 16 + e.1) e.2) s1, a.2 + 16 + x.length)) (s, addr + 256)).1

/-- The image of a cut written to its region, the header last (R439). -/
def writeImageOf (s : State) (cid : Cid) (kind addr vchip : Nat) (c : Cut) : State :=
  regionWrite (writeSections s cid kind addr c.sections) cid kind addr (c.header cid vchip)

/-- CHIP_DONE: every marker in, every pre-cut transaction over, every unit and log written: the header, then DONE to the
coordinator (R439, R451, R453). -/
def execChipDone (cid : Cid) (cutid : Nat) (s : State) : Host.Outcome State Fault Refusal :=
  match cutOf s cid cutid, cutBlockOf s cid with
  | some c, some b =>
    if !c.live ∨ c.state ≠ 2 ∨ !preCutOver s cid c ∨ !c.preserved.isEmpty ∨ !allVisited s cid c then .next s
    else
      let bytes := c.bytes + fixedBytes c
      if b.size < bytes then .next (failCut s cid 3 fun x => x.cutid == cutid)
      else
        let own := ownChip s (cidVd cid)
        let addr := b.img.getD (cutid % 2) 0
        let done := { c with state := 3, doneSent := true, bytes := bytes, headerWritten := true }
        let img : Image := { kind := b.kind, addr := addr, cid := cid, vchip := own, cutid := cutid, cut := done }
        let s1 := moveCut (writeImageOf s cid b.kind addr own done) cid cutid fun _ => done
        let s2 := { s1 with images := s1.images.filter (fun i => !(i.cid == cid && i.vchip == own && i.cutid == cutid)) ++ [img] }
        .next (if c.coord = own then countDoneOf s2 cid cutid own else sendCtrl s2 cid c.coord 1 cutid 0 0)
  | _, _ => .next s

/-- COLOUR_FREE: the colour of an ended cut, once its visit and its pre-cut transactions are over (R442, R453). -/
def execColourFree (cid : Cid) (colour : Nat) (s : State) : Host.Outcome State Fault Refusal :=
  match (jobOf s cid).colours.getD colour none with
  | none => .next s
  | some c =>
    if c.live ∨ c.freed ∨ !allVisited s cid c ∨ !preCutOver s cid c then .next s
    else .next (updCut s cid c.cutid fun c => { c with freed := true })

end Sys2Proof.Machine
end

