-- ==== Sys2Proof/Machine/Preempt.lean ====
section
/-! DEFINITION. Events from outside a strand, the context commands, and pre-emption: stopping a motif's units, saving
it, restoring it, and the time slice (R120, R373 to R382, R399, R423, R425). -/

namespace Sys2Proof.Machine

/-! ## Events -/

/-- Whether the wallclock has reached the timer that a strand armed (R120). -/
def timerDue (s : State) (cid : Cid) (t : Strand) : Bool := t.armed && decide (t.evtimer.toNat ≤ wallOf s (cidVd cid))

/-- TMR set in a strand, once, and a slot that waits for events woken (R120). -/
def ringTimer (t : Strand) : Strand := wakeSlots (fun w => w == .event) { t with evpend := t.evpend ||| 1, armed := false }

/-- Every timer that is due rings, of resident strands and of saved ones. Each step begins with it, so that nothing sees a
wallclock past a timer without its TMR (R120). -/
def ringTimers (s : State) : State :=
  if (allMotifs s).any fun m => m.strands.any (timerDue s m.cid) then
    mapMotifs s fun m => { m with strands := m.strands.map fun t => if timerDue s m.cid t then ringTimer t else t }
  else s

/-- EVTIMER_EXPIRY: once, when the wallclock has reached the timer that the strand armed, resident or saved (R120). -/
def execEvtimerExpiry (uid strand : Nat) (s : State) : Host.Outcome State Fault Refusal :=
  let hit := fun (m : Motif) (t : Strand) => m.uid == uid && t.index == strand && timerDue s m.cid t
  .next (mapMotifs s fun m => { m with strands := m.strands.map fun t => if hit m t then ringTimer t else t })

/-- SIGNAL: HSIG in every strand of the context; a context that does not exist is ignored (R120, R423). -/
def execSignal (vd : Nat) (v : BitVec 32) (s : State) : Host.Outcome State Fault Refusal :=
  let c := (v.extractLsb' 0 11).toNat
  .next (if c < (vdevOf s vd).ctxcount then setEvent s (cidOf vd c) 1 else s)

/-! ## Context commands -/

/-- Whether a command names a motif (R425). -/
def cmdNames (c : CtxCmd) (cid : Cid) (m : Motif) : Bool :=
  m.cid == cid && (c.motif == 0xFFFFFFFF || m.motifid == c.motif)

/-- Whether a command names a strand of a motif that it names (R425). -/
def cmdPicks (c : CtxCmd) (t : Strand) : Bool := c.strand == 0xFF || c.strand.toNat == t.index

/-- Whether the context, the motif and the strand that a command names exist (R425). -/
def cmdExists (c : CtxCmd) (s : State) (vd : Nat) : Bool :=
  let cid := cidOf vd c.ctx.toNat
  let ms := (allMotifs s).filter (cmdNames c cid)
  decide (c.ctx.toNat < (vdevOf s vd).ctxcount) && (c.motif == 0xFFFFFFFF || !ms.isEmpty) &&
  (c.strand == 0xFF || ms.any fun m => m.strands.any (cmdPicks c))

/-- Whether a device's context command has not taken effect everywhere yet: motifs that it pre-empts are still to be
saved, or a migration interrupted their switch (R402, R425). -/
def ctxBusy (s : State) (vd : Nat) : Bool :=
  ((vdevOf s vd).ctxPend.any fun uid =>
    s.motifs.any fun m => m.uid == uid && m.preempt.isSome && !(ctxOf s m.cid).stopped) ||
  (vdevOf s vd).switchRec.any fun e => s.contexts.any fun x => !x.stopped && x.saved.any fun v => v.motif.uid == e.1

/-- A context command: one written while busy, or that names what does not exist, does nothing and sets ctxstat[1]; a 1
written to a reserved bit is ignored (R7, R425; log entry 24). -/
def ctxCommand (vd : Nat) (c : CtxCmd) (s : State) (f : Cid → State → State) : State :=
  if ctxBusy s vd || !cmdExists c s vd then updVdev s vd fun v => { v with ctxError := true }
  else f (cidOf vd c.ctx.toNat) s

/-- A cluster's slice counter is frozen while a strand there is halted (R373, R399). -/
def refreeze (s : State) : State :=
  let halted := fun (key : Nat) => s.motifs.any fun m =>
    clusterKey m.die m.cluster == key && m.strands.any fun t => t.halted && !t.over
  { s with clusters := s.clusters.map fun e => (e.1, { e.2 with frozen := halted e.1 }) }

/-- The strands of resident motifs that a command picks changed. -/
def mapPicked (s : State) (cid : Cid) (c : CtxCmd) (f : Strand → Strand) : State :=
  let one := fun (m : Motif) =>
    if cmdNames c cid m then { m with strands := m.strands.map fun t => if cmdPicks c t then f t else t } else m
  { s with motifs := s.motifs.map one }

/-- The list of strands that a saved motif halts on its restoration changed. -/
def mapHeld (s : State) (cid : Cid) (c : CtxCmd) (f : List Nat → List Nat → List Nat) : State :=
  let one := fun (v : Saved) =>
    if cmdNames c cid v.motif then
      { v with haltOnRestore := f v.haltOnRestore ((v.motif.strands.filter (cmdPicks c)).map (·.index)) }
    else v
  { s with contexts := s.contexts.map fun x => { x with saved := x.saved.map one } }

/-- CTX_HALT: a saved strand is halted as it is restored (R373, R425). -/
def execCtxHalt (vd : Nat) (c : CtxCmd) (s : State) : Host.Outcome State Fault Refusal :=
  .next (ctxCommand vd c s fun cid s =>
    refreeze (mapHeld (mapPicked s cid c fun t => if t.over then t else { t with halted := true }) cid c fun old new =>
      old ++ new.filter fun i => !old.contains i))

/-- CTX_PREEMPT: every motif that holds a named strand (R374 to R378, R425). -/
def execCtxPreempt (vd : Nat) (c : CtxCmd) (s : State) : Host.Outcome State Fault Refusal :=
  .next (ctxCommand vd c s fun cid s =>
    let hit := fun (m : Motif) => cmdNames c cid m && m.strands.any (cmdPicks c) && !(ctxOf s cid).stopped
    let s1 := { s with motifs := s.motifs.map fun m => if hit m then askStop s.clock m else m }
    updVdev s1 vd fun v => { v with ctxPend := (s.motifs.filter hit).map (·.uid) })

/-- What a teardown frees: motifs, save slots, place indices, handle-cache entries, pending work; the context's rings
are disabled (R365, R425). -/
def freeContext (s : State) (cid : Cid) : State :=
  let mine := fun (r : Ring) => r.owner == some (cidVd cid) && r.ctx == cidCtx cid
  let gone := (s.rings.filter fun e => mine e.2).map (·.1)
  let uids := (s.motifs.filter fun m => m.cid == cid).map (·.uid)
  let strip := fun (c : Cluster) =>
    let left : Cluster := { c with
      handles := c.handles.filter fun h => h.cid != cid
      stickyPend := c.stickyPend.filter fun p => p.cid != cid
      order := c.order.filter fun p => !uids.contains p.1
      waited := c.waited.filter fun p => !uids.contains p.1 }
    if c.ctx = some cid then { left with ctx := none, slice := 0, draining := false } else left
  let off := fun (r : Ring) => if mine r then { r with enable := false } else r
  let s1 := { s with
    motifs := s.motifs.filter fun m => m.cid != cid
    contexts := s.contexts.filter fun c => c.cid != cid
    clusters := s.clusters.map fun e => (e.1, strip e.2)
    records := s.records.filter fun r => r.cid != cid
    rings := s.rings.map fun e => (e.1, off e.2)
    hoop := s.hoop.filter fun r => !gone.contains r
    faults := s.faults.filter fun f => f.cid != cid
    requests := s.requests.filter fun r => r.cid != cid
    jobs := s.jobs.filter fun j => j.cid != cid
    restores := s.restores.filter fun r => !(r.vd == cidVd cid && r.ctx == cidCtx cid) }
  let waiting := s.restores.any fun r => r.vd == cidVd cid && r.ctx == cidCtx cid
  -- a slot that frees has the hoop evaluated at once (R186)
  let s2 := if s.hoop.any gone.contains then evaluateHoop s1 else s1
  refreeze (if waiting then updVdev s2 (cidVd cid) fun v => { v with rststate := 0 } else s2)

/-- CTX_TEARDOWN: the motif and strand fields are to be all ones; a running context first stops, with no entry (R365,
R425; log entry 24). -/
def execCtxTeardown (vd : Nat) (c : CtxCmd) (s : State) : Host.Outcome State Fault Refusal :=
  if c.motif ≠ 0xFFFFFFFF ∨ c.strand ≠ 0xFF then .next (updVdev s vd fun v => { v with ctxError := true })
  else
    .next (ctxCommand vd c s fun cid s =>
      freeContext (if (ctxOf s cid).stopped then s else stopContext s cid) cid)

/-! ## Stopping the units of a motif -/

/-- Whether a strand is at a blocking point in every live slot, or has ended (R374). -/
def Strand.atRest (t : Strand) : Bool := t.over || t.live.all fun x => !x.canIssue

/-- The lowest free save slot of a context (R378). -/
def freeSlot (s : State) (cid : Cid) (d : Desc) : Option Nat :=
  (List.range d.mslots).find? fun i => !((ctxOf s cid).saved.any fun v => v.slot == i)

/-- Whether a motif has a halted strand (R373). -/
def Motif.halts (m : Motif) : Bool := m.strands.any fun t => t.halted && !t.over

/-- Whether a motif is being pre-empted: a request of a context with no free save slot waits, and so does one of a motif with a
halted strand (R373, R378). -/
def preempting (s : State) (m : Motif) : Bool := m.preempt.isSome && !m.halts && (freeSlot s m.cid m.desc).isSome

/-- Strands of motifs that are being pre-empted are stopped where every live slot is at a blocking point: their wake
condition is saved, and they issue no more before they are restored (R374, R375). -/
def stopRested (s : State) : State :=
  let stop := fun (t : Strand) => if t.atRest && !t.over && !t.halted then { t with stopped := true } else t
  { s with motifs := s.motifs.map fun m => if preempting s m then { m with strands := m.strands.map stop } else m }

/-- STOP_DEADLINE_EXPIRY: the strand issues no more; slots that are not in a wait are saved at their next PC (R374). -/
def execStopDeadlineExpiry (uid strand : Nat) (s : State) : Host.Outcome State Fault Refusal :=
  match motifOf s uid with
  | none => .next s
  | some m =>
    match m.preempt, strandOf m strand with
    | some since, some t =>
      if since + m.desc.deadline ≤ s.clock ∧ preempting s m ∧ !t.atRest ∧ !t.halted then
        .next (updStrand s uid strand fun t => { t with stopped := true })
      else .next s
    | _, _ => .next s

/-- A command as it is squashed: the committed prefix stays, a SEEDSCAN begins again (R354, R376). -/
def Command.squash (c : Command) : Command :=
  if c.complete || c.op == .mstore then c
  else { c with done := if c.op = .seedscan then [] else List.range (committed c) }

/-- DRAIN_LIMIT_EXPIRY (R376). -/
def execDrainLimitExpiry (uid : Nat) (s : State) : Host.Outcome State Fault Refusal :=
  match motifOf s uid with
  | none => .next s
  | some m =>
    match m.preempt with
    | some since =>
      if since + m.desc.drainlim ≤ s.clock ∧ preempting s m ∧ !m.drained then
        .next (updMotif s uid fun m => { m with commands := m.commands.map Command.squash, drained := true })
      else .next s
    | none => .next s

/-! ## Saving -/

/-- Whether the units of a motif have stopped: every strand at rest or stopped and none halted, no command left to run,
the rows of every MSTORE written (R344, R373, R374, R376). -/
def unitsStopped (m : Motif) : Bool :=
  (m.strands.all fun t => (t.atRest || t.stopped) && !(t.halted && !t.over)) &&
  m.commands.all fun c => c.complete || (m.drained && c.op != .mstore)

/-- The hardware's own access to a motif's image, through the context's tables: what stops it (R199, R216). -/
def imageStop (s : State) (v : View) (acc : Access) (pages : List Nat) : Option State :=
  let ts := pages.map fun va => (va, pageTarget s v false va 128 acc)
  match hardOf ts with
  | some (va, f) => some (contextErrorOf (noticeFault s v f) v.cid 19 f.kind va)
  | none =>
    let r := pageWaits s v acc false false (ts.map (·.2))
    if r.2 ≠ [] then some r.1 else if ts.any fun e => formatting s e.2 then some s else none

/-- A motif as its image records it: no request to stop is left, and what was squashed runs again (R376, R378). -/
def Motif.asSaved (m : Motif) : Motif :=
  { m with
    preempt := none
    drained := false
    strands := m.strands.map fun t => { t with stopped := false }
    seq := m.seq.map fun q => { q with saveHere := false } }

/-- The readings of the two clocks that a device's programs go on from (R401). -/
def saveClocks (s : State) (vd : Nat) : State :=
  updVdev s vd fun v => { v with savedClock := clockOf s vd, savedWall := wallOf s vd }

/-- MOTIF_SAVE (R344, R373 to R380, R446): the image is written to memory. A context with no free slot is not pre-empted, the request waits; so does a motif
whose units a live cut still needs, and one whose image pages are not mapped. -/
def execMotifSave (uid : Nat) (s : State) : Host.Outcome State Fault Refusal :=
  match motifOf s uid with
  | none => .next s
  | some m =>
    if m.preempt.isNone || !unitsStopped m || (ctxOf s m.cid).stopped || unitsHeld s m then .next s
    else
      match freeSlot s m.cid m.desc with
      | none => .next s
      | some i =>
        let v : Saved := { slot := i, motif := m.asSaved, tags := saveTags m, haltOnRestore := [], recorded := false, written := some m.asSaved }
        match imageStop s (motifView m) .write (imagePages m i v.tags) with
        | some s1 => .next s1
        | none =>
          let s1 := updCtx (leaveCluster (saveImage s m.asSaved i) m) m.cid fun c => { c with saved := c.saved ++ [v] }
          .next (if (vdevOf s (cidVd m.cid)).migrating = 1 then saveClocks s1 (cidVd m.cid) else s1)

/-! ## Restoring -/

/-- A wake condition evaluated afresh: a join, a numbered barrier and a SNAP wait on, and so does a wait for a status
register that is still pending; a slot that waits for pages retries first, every other wait is judged by its instruction
again (R316, R371, R375, R381). -/
def Wait.afresh (pending : List PendStatus) : Wait → Wait
  | .join t l n => .join t l n
  | .barrier n => .barrier n
  | .snap r n => .snap r n
  | .status n => if pending.any fun e => e.reg == n then .status n else .ready
  | _ => .ready

/-- The turn of a restored strand: a slot with a pending fault retries first (R371, R381). -/
def Strand.retryTurn (t : Strand) : Nat :=
  match t.live.findIdx? fun x => x.waitsOn fun _ => true with
  | none => t.turn
  | some 0 => if t.live.length = 1 then t.turn else 1
  | some _ => 0

/-- The pending faults of a motif: of its strands, then of its commands (R376, R381). -/
def Motif.pendingFaults (m : Motif) : List Retry :=
  (m.strands.filter fun t => !t.over && t.waitsOn fun _ => true).map (fun t => .strand t.index) ++
  (m.commands.filter fun c => !c.complete && !c.waits.isEmpty).map fun c => .command c.tl c.number

/-- The waits of a motif judged afresh, page waits retried: the strands' first, then the commands', before anything else
issues (R375, R376, R381). -/
def Motif.afresh (m : Motif) : Motif :=
  let slot := fun (t : Strand) (x : Slot) => { x with wait := x.wait.afresh t.pending }
  let strand := fun (t : Strand) =>
    { t with turn := t.retryTurn, live := t.live.map (slot t), stack := t.stack.map (slot t) }
  { m with
    retries := m.retries.filter (fun r => !m.pendingFaults.contains r) ++ m.pendingFaults
    strands := m.strands.map strand
    commands := m.commands.map fun c => { c with waits := [] }
    seq := m.seq.map fun q => { q with wait := q.wait && q.waits.isEmpty, waits := [], opWaits := [] } }

/-- The cluster that a saved motif is restored on, as at launch (R140, R189, R381). -/
def chooseRestored (s : State) (m : Motif) : Option (Nat × Nat) :=
  let v := vdevOf s (cidVd m.cid)
  if v.hold then none
  else
    let load := fun (c : Nat × Nat) => ((residents s c.1 c.2).map fun m => m.strands.length).sum
    match (clusterOrder v).filter fun c => fitsCluster s m.cid m.header c.1 c.2 with
    | [] => none
    | c :: cs => some (cs.foldl (fun b x => if load x < load b then x else b) c)

/-- A saved motif placed on a cluster: its programs read the cluster and the die they read before under migration mode 0,
which virtualises identifiers, and after the restoration of a recorded job; under mode 1 those of its new place. L1 copies of that cluster may be older than what
it read before, and go (R123, R232, R381, R384, R401, R460). -/
def placeSaved (s : State) (v : Saved) (c : Nat × Nat) : State :=
  let m := v.motif.afresh
  let here := (vdevOf s (cidVd m.cid)).share.mode && !v.recorded
  let m1 := { m with
    die := c.1
    cluster := c.2
    vdie := if here then c.1 else m.vdie
    vcluster := if here then c.2 else m.vcluster
    strands := m.strands.map fun t => { t with halted := v.haltOnRestore.contains t.index && !t.over } }
  formRecord (refreeze (updCluster (admitMotif s m1) c.1 c.2 fun x => { x with l1 := [] })) m.uid

/-- A guest's switch that a migration interrupted goes on: the restored motif is being pre-empted again, and the wait counts
its recorded cycles (R402). -/
def resumeSwitch (s : State) (vd uid : Nat) : State :=
  match (vdevOf s vd).switchRec.find? fun e => e.1 == uid with
  | none => s
  | some e =>
    updVdev (updMotif s uid fun m => { m with preempt := some (s.clock - e.2) }) vd fun v =>
      { v with switchRec := v.switchRec.filter fun e => e.1 != uid }

/-- What comes of reading a saved motif's image at its new place: it waits, it is rejected with a detail of code 34 and the
strand named, or the motif is loaded (R199, R368, R379 to R381). -/
inductive Reload where
  | wait (s : State)
  | bad (detail strand : Nat) (s : State)
  | ok (m : Motif) (s : State)
  deriving DecidableEq, Repr

/-- The image of a saved motif read: the heads, which hold the tags, then the rest. What the hardware's read of a poisoned line
gives is free (log entry 8). -/
def reload (s : State) (v : Saved) (c : Nat × Nat) : Reload :=
  match v.written with
  | none =>
    match v.tags.find? fun e => decide (4 < e.2.2) with
    | some e => .bad (1 + e.1 * 2 ^ 8 + 2 ^ 16) e.1 s
    | none => .ok v.motif s
  | some was =>
    let m := v.motif
    let w : View := { motifView m with die := c.1, cluster := c.2 }
    match imageStop s w .read (imagePages m v.slot []) with
    | some s1 => .wait s1
    | none =>
      let heads := imageHeads s m w
      let tags := storedTags m heads
      match imageStop s w .read (imagePages m v.slot tags) with
      | some s1 => .wait s1
      | none =>
        let s1 := scanImage { s with free := s.free + 1 } m w v.slot tags
        match imageRejected s m w v.slot heads with
        | some e => .bad e.1 e.2 s1
        | none => .ok (loadImage s m was w v.slot heads) s1

/-- MOTIF_RESTORE (R199, R368, R378 to R381): an image with a reserved value is rejected; the image is consumed. -/
def execMotifRestore (vd ctx slot : Nat) (s : State) : Host.Outcome State Fault Refusal :=
  let cid := cidOf vd ctx
  let x := ctxOf s cid
  match x.saved.find? fun v => v.slot == slot with
  | none => .next s
  | some v =>
    if x.stopped || (decide ((vdevOf s vd).migrating ≠ 0) && !(vdevOf s vd).share.mode) then .next s
    else
      match chooseRestored s v.motif with
      | none => .next s
      | some c =>
        let consume := fun (s : State) => updCtx s cid fun x => { x with saved := x.saved.filter fun v => v.slot != slot }
        match reload s v c with
        | .wait s1 => .next s1
        | .bad detail strand s1 => .next (contextError (consume s1) v.motif strand 34 detail 0)
        | .ok m s1 =>
          let s2 := placeSaved (consume s1) { v with motif := m } c
          .next (updVdev (resumeSwitch s2 vd m.uid) vd fun d => { d with lastDie := some c.1 })

/-! ## Time slices -/

/-- The package as it would be without a context's motifs on a cluster. -/
def vacated (s : State) (die k : Nat) (cid : Cid) : State :=
  { s with motifs := s.motifs.filter fun m => !(m.die == die && m.cluster == k && m.cid == cid) }

/-- Whether a motif of another context waits that would fit a cluster (R140, R189, R399). -/
def motifWaitsFor (s : State) (die k : Nat) (cid : Cid) : Bool :=
  let s1 := vacated s die k cid
  let may := fun (c : Cid) =>
    let v := vdevOf s (cidVd c)
    c != cid && !(ctxOf s c).stopped && !v.hold && (v.migrating == 0 || v.share.mode) && (clusterOrder v).contains (die, k)
  (s.records.any fun r => r.begun && may r.cid && r.stages.any fun st =>
    (dispatchClass r st).isSome && fitsCluster s1 r.cid st.header die k &&
    (match descOfCtx s r.cid with
      | some d => decide (st.header.strands ≤ (freePlaces s r.cid d).length)
      | none => false)) ||
  (s.contexts.any fun x => may x.cid && x.saved.any fun v => fitsCluster s1 x.cid v.motif.header die k)

/-- Whether a cluster has been emptied for another context, which has not come yet (R190, R399). -/
def emptied (s : State) (die k : Nat) : Bool := (clusterOf s die k).draining && (residents s die k).isEmpty

/-- A cluster's slice over: the cluster is pre-empted for another context, or the counter begins again. A cluster that has
been emptied for another context is let go once none waits for it (R399). -/
def expireSlice (s : State) (die k : Nat) : State :=
  let c := clusterOf s die k
  match c.ctx with
  | none => s
  | some cid =>
    if c.frozen ∨ (c.slice < (vdevOf s (cidVd cid)).share.vslice ∧ !emptied s die k) then s
    else if motifWaitsFor s die k cid then
      let hit := fun (m : Motif) => m.die == die && m.cluster == k && m.cid == cid
      updCluster { s with motifs := s.motifs.map fun m => if hit m then askStop s.clock m else m } die k
        fun c => { c with draining := true }
    else updCluster s die k fun c => { c with slice := 0, draining := c.draining && !(residents s die k).isEmpty }

/-- SLICE_EXPIRY: deferred while a strand on the cluster is halted (R373, R399). -/
def execSliceExpiry (cl : ClusterRef) (s : State) : Host.Outcome State Fault Refusal := .next (expireSlice s cl.die cl.cluster)

/-- The slices that had run out on clusters where strands were halted are over now (R373, R382). -/
def expireDeferred (before s : State) : State :=
  (before.clusters.filter fun e => e.2.frozen && decide (∃ c ∈ e.2.ctx, 0 < (vdevOf s (cidVd c)).share.vslice)).foldl
    (fun s e => expireSlice s (e.1 / 64) (e.1 % 64)) s

/-- CTX_RESUME: what was deferred while the strands were halted is taken in the order of R382's worked example: the slice
expiry; pre-emption, whose request counts from now, and which stops at once a strand at a blocking point; the resolves
that were held (R373, R425). -/
def execCtxResume (vd : Nat) (c : CtxCmd) (s : State) : Host.Outcome State Fault Refusal :=
  .next (ctxCommand vd c s fun cid s =>
    let s1 := mapHeld (mapPicked s cid c fun t => { t with halted := false }) cid c fun old new =>
      old.filter fun i => !new.contains i
    let resumes := fun (m : Motif) => s.motifs.any fun old => old.uid == m.uid && old.halts && !m.halts
    let again := fun (m : Motif) => if resumes m then { m with preempt := m.preempt.map fun _ => s.clock } else m
    let s2 := refreeze { s1 with motifs := s1.motifs.map again }
    settleHeld (settleRetries (stopRested (expireDeferred s s2))))

end Sys2Proof.Machine
end

