-- ==== Sys2Proof/Machine/Share.lean ====
section
/-! DEFINITION. Share blocks and their commit, the arbiters' buckets, the energy account, degraded service, migration
and the in-field test (R205, R384 to R405). -/

namespace Sys2Proof.Machine

/-! ## Share blocks -/

/-- The range of a die in a share block (R384). -/
def parseRange (b : List Byte) (j : Nat) : Option (Nat × Nat) :=
  let v := fieldAt b (0x28 + 2 * j) 2
  if bitAt v 15 then some (v % 64, v / 256 % 64) else none

/-- A share block of 64 bytes (R384). -/
def parseShare (b : List Byte) : Share :=
  { rate := (List.range 6).map fun k => fieldAt b (4 * k) 2
    depth := (List.range 6).map fun k => fieldAt b (4 * k + 2) 2
    borrow := BitVec.ofNat 6 (fieldAt b 0x18 1)
    hard := bitAt (fieldAt b 0x19 1) 0
    mode := bitAt (fieldAt b 0x19 1) 1
    pvdid := fieldAt b 0x1A 1
    erate := fieldAt b 0x1C 4
    edepth := fieldAt b 0x20 4
    vslice := fieldAt b 0x24 4
    ranges := (List.range 4).map (parseRange b) }

/-- The share block that the next tick leaves in force for a device. -/
def nextShare (s : State) (vd : Nat) : Share := ((vdevOf s vd).newShare).getD (vdevOf s vd).share

/-- Whether two ranges share a cluster. -/
def overlap (a b : Option (Nat × Nat)) : Bool :=
  match a, b with
  | some (lo, hi), some (lo', hi') => decide (lo ≤ hi' ∧ lo' ≤ hi)
  | _, _ => false

/-- The first byte offset of a share block that fails a check (R384, R405; log entry 26). -/
def shareFault (s : State) (vd : Nat) (b : List Byte) : Option Nat :=
  let n := parseShare b
  let others := (List.range 32).filter fun v => v != vd
  let sum := fun (k : Nat) => n.rate.getD k 0 + (others.map fun v => (nextShare s v).rate.getD k 0).sum
  let bucket := fun (k : Nat) =>
    if 65536 < sum k then some (4 * k)
    else if 0 < n.rate.getD k 0 ∧ n.depth.getD k 0 = 0 then some (4 * k + 2) else none
  let range := fun (j : Nat) =>
    let v := fieldAt b (0x28 + 2 * j) 2
    let meets := others.any fun o =>
      (n.hard || (nextShare s o).hard) && overlap (parseRange b j) ((nextShare s o).ranges.getD j none)
    if bitsAt v 6 2 ≠ 0 ∨ (bitAt v 15 ∧ (v / 256 % 64 < v % 64 ∨ meets)) then some (0x28 + 2 * j)
    else if bitAt v 14 ∨ (bitAt v 15 ∧ 59 < v / 256 % 64) then some (0x29 + 2 * j) else none
  let edepth := fieldAt b 0x20 4
  ([(List.range 6).findSome? bucket,
    if 64 ≤ fieldAt b 0x18 1 then some 0x18 else none,
    if 4 ≤ fieldAt b 0x19 1 then some 0x19 else none,
    if 32 ≤ fieldAt b 0x1A 1 then some 0x1A else none,
    if fieldAt b 0x1B 1 ≠ 0 then some 0x1B else none,
    if edepth = 0 ∨ 2 ^ 31 ≤ edepth then some 0x20 else none,
    if fieldAt b 0x24 4 < 65536 then some 0x24 else none,
    (List.range 4).findSome? range,
    (List.range 16).findSome? fun i => if fieldAt b (0x30 + i) 1 ≠ 0 then some (0x30 + i) else none]).findSome? id

/-- SHARE_COMMIT: a block that fails leaves the old one in force; one that passes waits for the next tick (R384, R394);
a number that is no device is ignored (log entry 26). -/
def execShareCommit (v : BitVec 32) (s : State) : Host.Outcome State Fault Refusal :=
  let vd := v.toNat
  if 32 ≤ vd then .next s
  else
    let b := (vdevOf s vd).staging
    match shareFault s vd b with
    | some off => .next { s with commit := 0x80000000 ||| BitVec.ofNat 32 off }
    | none =>
      .next (updVdev { s with commit := 0 } vd fun d => { d with newShare := some (parseShare b), degraded := false })

/-- WAYMASK_WRITE (R205, R386). -/
def execWaymaskWrite (vd : Nat) (v : BitVec 32) (s : State) : Host.Outcome State Fault Refusal :=
  .next (updVdev s vd fun d => { d with waymask := v.setWidth 16 })

/-! ## The energy account -/

/-- The strands of a device resident on a cluster, and all of them. -/
def heldStrands (s : State) (key vd : Nat) : Nat × Nat :=
  let ms := s.motifs.filter fun m => clusterKey m.die m.cluster == key
  (((ms.filter fun m => cidVd m.cid == vd).map fun m => m.strands.length).sum, (ms.map fun m => m.strands.length).sum)

/-- The clusters held in a tick, charged by resident strands (R395, event 14). -/
def heldCharge (s : State) (vd : Nat) : Nat :=
  let keys := ((s.motifs.filter fun m => cidVd m.cid == vd).map fun m => clusterKey m.die m.cluster).eraseDups
  (keys.map fun k => let n := heldStrands s k vd; s.weights.getD 14 0 * n.1 / n.2).sum

/-- A bucket after a tick, in femtojoules (R396). -/
def bucketTick (sh : Share) (bucket : Int) (charge : Nat) : Int :=
  let depth : Int := sh.edepth * 10 ^ 9
  max (min (bucket + sh.erate * 10 ^ 9) depth - charge) (-depth)

/-- Whether a motif stands on a cluster outside the ranges of a share block (R385). -/
def outside (sh : Share) (m : Motif) : Bool :=
  match sh.ranges.getD m.die none with
  | some (lo, hi) => !decide (lo ≤ m.cluster ∧ m.cluster ≤ hi)
  | none => true

/-- The motifs of a device on clusters outside its ranges are pre-empted (R385). -/
def evictOutside (s : State) (vd : Nat) (sh : Share) : State :=
  { s with motifs := s.motifs.map fun m => if cidVd m.cid = vd ∧ outside sh m then askStop s.clock m else m }

/-- The motifs that a guest's own command is pre-empting, with the cycles waited (R402). -/
def guestSwitch (s : State) (vd : Nat) : List (Nat × Nat) :=
  (s.motifs.filter fun m => (vdevOf s vd).ctxPend.contains m.uid).filterMap fun m => m.preempt.map fun t => (m.uid, s.clock - t)

/-- A staged block put in force (R384, R385, R396). -/
def applyShare (s : State) (vd : Nat) : State :=
  let v := vdevOf s vd
  match v.newShare with
  | none => s
  | some n =>
    let start : Bool := decide (v.share.erate = 0 ∧ n.erate ≠ 0)
    let bucket : Int := if start then n.edepth * 10 ^ 9 else v.bucket
    let s1 := updVdev s vd fun v =>
      { v with
        share := n
        newShare := none
        bucket := bucket
        hold := if n.erate = 0 then false else if start then false else v.hold }
    -- a guest's own switch that the eviction interrupts is recorded (R402)
    let s2 := evictOutside s1 vd n
    let ended := (guestSwitch s vd).filter fun e => s2.motifs.any fun m => m.uid == e.1 && outside n m
    updVdev s2 vd fun v => { v with switchRec := v.switchRec ++ ended.filter fun e => !(v.switchRec.any fun x => x.1 == e.1) }

/-- One device's tick: the charge and the refill of the tick that ends, the hold, what bucketstat shows, then a staged
block (R391, R395 to R397). -/
def tickDevice (s : State) (vd : Nat) : State :=
  let v := vdevOf s vd
  let charge := v.charge + heldCharge s vd
  let bucket := if v.share.erate = 0 then v.bucket else bucketTick v.share v.bucket charge
  let hold : Bool := decide (v.share.erate ≠ 0 ∧ bucket ≤ 0)
  let s1 := updVdev s vd fun v =>
    { v with
      bucket := bucket, charge := 0, hold := hold, empty := v.emptyNow, lent := v.lentNow, emptyNow := 0, lentNow := 0 }
  let s2 := if v.hold && v.share.erate != 0 && !hold then setEventVd s1 vd 4 else s1
  applyShare s2 vd

/-! ## Arbiters -/

/-- The key of an arbiter instance. -/
def arbiterKey (kind inst : Nat) : Nat := kind * 1024 + inst

/-- The rate of a device at an arbiter kind, in units of 2^-16 of a slot: at quadrant issue an eighth under the energy
hold (R388, R397). -/
def rateOf (s : State) (kind vd : Nat) : Nat :=
  let v := vdevOf s vd
  let r := v.share.rate.getD kind 0
  if kind = 0 ∧ v.hold then r / 8 else r

/-- Whether a device may be served from the pool (R388, R397). -/
def mayBorrow (s : State) (kind vd : Nat) : Bool :=
  let v := vdevOf s vd
  v.share.borrow.getLsbD kind && !(kind == 0 && v.hold)

/-- The slots that an arbiter offers now: a quadrant one in each cycle, and at least the one at hand (R387). -/
def offered (s : State) (kind : Nat) (a : Arbiter) : Nat := if kind = 0 then max 1 (s.clock - a.since) else 1

/-- The tokens and the pool after the additions of n slots in which nothing is granted: those of n single slots, since
neither a full bucket nor a full pool ever loses what it holds (R388). -/
def fillSlots (s : State) (kind n : Nat) (a : Arbiter) : Arbiter :=
  let depth := fun (vd : Nat) => ((vdevOf s vd).share.depth.getD kind 0 * 65536 : Int)
  let level := fun (vd : Nat) => (tget 0 a.tok vd + n * rateOf s kind vd : Int)
  let full := fun (vd : Nat) => min (level vd) (depth vd)
  let spilt : Int := ((List.range 32).map fun vd => max 0 (level vd - depth vd)).sum
  let sum : Int := ((List.range 32).map fun vd => (rateOf s kind vd : Int)).sum
  { a with
    tok := (List.range 32).filterMap fun vd => if full vd = 0 then none else some (vd, full vd)
    pool := min (a.pool + spilt + n * (65536 - sum)) (65535 * 65536), since := s.clock }

/-- An arbiter after the slots that it offers now (R388). -/
def fillArbiter (s : State) (kind : Nat) (a : Arbiter) : Arbiter := fillSlots s kind (offered s kind a) a

/-- The key of the strand scheduler of a quadrant. -/
def quadArbiter (key quad : Nat) : Nat := arbiterKey 0 (key * 4 + quad)

/-- A quadrant's arbiter with the tokens of the slots that it has offered (R388). -/
def filledQuad (s : State) (key quad : Nat) : Arbiter :=
  fillSlots s 0 (s.clock - (tget Arbiter.reset s.arbiters (quadArbiter key quad)).since)
    (tget Arbiter.reset s.arbiters (quadArbiter key quad))

/-- The quadrants' slots up to now counted at the rates in force: a tick may change them (R388, R397, R405). -/
def settleQuads (s : State) : State :=
  let may := (List.range 32).any fun vd => (vdevOf s vd).newShare.isSome || (vdevOf s vd).share.erate != 0
  let keys := (List.range 4).flatMap fun die => (List.range 60).map fun k => clusterKey die k
  let fill := fun (t : Table Arbiter) (key : Nat) => (List.range 4).foldl (fun t quad =>
    tset Arbiter.reset t (quadArbiter key quad) (filledQuad s key quad)) t
  if may then { s with arbiters := keys.foldl fill s.arbiters } else s

/-- ENERGY_TICK: every microsecond of wall time (R384, R395 to R397). -/
def execEnergyTick (s : State) : Host.Outcome State Fault Refusal := .next ((List.range 32).foldl tickDevice (settleQuads s))

/-- Whether a request's own tokens pay for it (R388). -/
def ownerFunded (a : Arbiter) (r : ArbReq) : Bool := decide ((r.units : Int) * 65536 ≤ tget 0 a.tok r.vd)

/-- Whether a request that its tokens do not pay for can be paid from the pool (R388). -/
def poolFunded (s : State) (kind : Nat) (a : Arbiter) (r : ArbReq) : Bool :=
  !ownerFunded a r && mayBorrow s kind r.vd && decide ((r.units : Int) * 65536 ≤ a.pool)

/-- Whether the bucket of the first device overflows before that of the second; ties to the lower number (R389). -/
def overflowsFirst (s : State) (kind : Nat) (a : Arbiter) (x y : Nat) : Bool :=
  let room := fun (vd : Nat) => ((vdevOf s vd).share.depth.getD kind 0 : Int) * 65536 - tget 0 a.tok vd
  let rx := rateOf s kind x
  let ry := rateOf s kind y
  if rx = 0 ∧ ry = 0 then decide (x < y)
  else if rx = 0 then false
  else if ry = 0 then true
  else decide (room x * ry < room y * rx) || (decide (room x * ry = room y * rx) && decide (x < y))

/-- The first of a list by an order. -/
def bestBy (before : Nat → Nat → Bool) : List Nat → Option Nat
  | [] => none
  | x :: xs => some (xs.foldl (fun b y => if before y b then y else b) x)

/-- The device served from the pool: in turn after the one last served (R389). -/
def poolTurn (a : Arbiter) (vds : List Nat) : Option Nat :=
  bestBy (fun x y => decide ((x + 31 - a.lastPool) % 32 < (y + 31 - a.lastPool) % 32)) vds

/-- The request granted in a slot, and whether the pool pays (R389). -/
def grantRequest (s : State) (kind : Nat) (a : Arbiter) (reqs : List ArbReq) : Option (ArbReq × Bool) :=
  let own := reqs.filter (ownerFunded a)
  let lent := reqs.filter (poolFunded s kind a)
  match bestBy (overflowsFirst s kind a) (own.map (·.vd)) with
  | some vd => (own.find? fun r => r.vd == vd).map fun r => (r, false)
  | none =>
    match poolTurn a (lent.map (·.vd)) with
    | some vd => (lent.find? fun r => r.vd == vd).map fun r => (r, true)
    | none => none

/-- The arbiter after a grant: who pays (R388). -/
def payGrant (a : Arbiter) : Option (ArbReq × Bool) → Arbiter
  | none => a
  | some (r, true) => { a with pool := a.pool - r.units * 65536, lastPool := r.vd }
  | some (r, false) => { a with tok := tset 0 a.tok r.vd (tget 0 a.tok r.vd - r.units * 65536) }

/-- The energy event that a granted unit of an arbiter kind is (R387, R395; log entry 25). -/
def unitEvent (kind : Nat) : Option Nat :=
  match kind with
  | 1 => some 9
  | 2 => some 11
  | 3 => some 13
  | 4 => some 12
  | _ => none

/-- The lanes that a unit has left; none when it has lost none (R393). -/
def unitLanesOf (s : State) (kind unit : Nat) : Option Nat := tget none s.unitLanes (arbiterKey kind unit)

/-- Whether a packet is held on a link: while a request of its job that went over a failed link, whose alternate this is,
is unanswered, new traffic of VC0 and VC2 waits (R416). -/
def heldBack (s : State) (link : Nat) (p : Packet) : Bool :=
  let lost := s.requests.filter fun r => r.cid == p.cid && r.answer.isNone && (linkOf s r.link).failed
  let alternate := (vdevOf s (cidVd p.cid)).route.any fun e =>
    e.2.getLsbD 15 && (e.2.extractLsb' 6 6).toNat == link && lost.any fun r => (e.2.extractLsb' 0 6).toNat == r.link
  (p.vc == 0 || p.vc == 2) && alternate && !(lost.any fun r => r.rtag == p.rtag.toNat)

/-- Whether a link's sender holds credits for the whole of a packet (R413). -/
def credited (l : Link) (p : Packet) : Bool :=
  match tget none l.credits (queueKey p) with
  | none => true
  | some n => decide (packetFlits p ≤ n)

/-- The first packet of a device that may leave a link: the head of its channel's and class's queue, with credits for the whole
of it (R413, R416). -/
def headPacket (s : State) (link vd : Nat) : Option Packet :=
  let out := (linkOf s link).out
  (out.zipIdx.find? fun e =>
    cidVd e.1.2.2.cid == vd && !heldBack s link e.1.2.2 && credited (linkOf s link) e.1.2.2 &&
    !((out.take e.2).any fun f => f.1 == e.1.1 && f.2.1 == e.1.2.1)).map (·.1.2.2)

/-- A packet that a link sender sends, for which it gives up credits. It stays in the replay buffer until its delivery is
confirmed, which the model takes to be when the next one leaves, or an answer to it comes (R410, R413; log entry 83). -/
def transmit (s : State) (link vd : Nat) : State :=
  match headPacket s link vd with
  | none => s
  | some p =>
    let key := queueKey p
    updLink s link fun l =>
      { l with
        out := l.out.erase (p.vc.toNat, p.cls.toNat, p), replay := [p], moved := tset 0 l.moved key s.clock
        credits := tset none l.credits key ((tget none l.credits key).map fun n => n - packetFlits p) }

/-- The instances of an arbiter kind (R387). -/
def arbiterCount (kind : Nat) : Nat := ([960, 256, 192, 16, 48, 4] : List Nat).getD kind 0

/-- The requests at an instance: those at hand, at a link sender each for the flits of the packet that its device would send.
The requests of a quadrant are its strands', which its scheduler grants as it issues (R191, R387, R389, R415). -/
def slotRequests (s : State) (kind inst : Nat) (reqs : List ArbReq) : List ArbReq :=
  let rs := reqs.filter fun r => decide (r.vd < 32)
  if kind = 0 then []
  else if kind = 4 then rs.filterMap fun r => (headPacket s inst r.vd).map fun p => { r with units := packetFlits p } else rs

/-- The key of an instance among the arbiters: a quadrant's is its cluster's key and its number. -/
def instanceKey (kind inst : Nat) : Nat :=
  if kind = 0 then arbiterKey 0 (clusterKey (inst / 240) (inst / 4 % 60) * 4 + inst % 4) else arbiterKey kind inst

/-- ARBITER_SLOT: one slot of an instance. A request granted occupies the arbiter for one slot a unit; a grant of a link
sender sends a packet; a unit that has failed offers no slot (R387 to R389, R391, R393, R395). -/
def execArbiterSlot (kind inst : Nat) (reqs : List ArbReq) (s : State) : Host.Outcome State Fault Refusal :=
  if arbiterCount kind ≤ inst ∨ unitLanesOf s kind inst = some 0 ∨ (kind = 4 ∧ (linkOf s inst).failed) then .next s
  else
    let key := instanceKey kind inst
    let a := fillArbiter s kind (tget Arbiter.reset s.arbiters key)
    let rs := if a.busy = 0 then slotRequests s kind inst reqs else []
    let g := grantRequest s kind a rs
    let busy := match g with
      | some (r, _) => r.units - 1
      | none => a.busy - 1
    let s1 := { s with arbiters := tset Arbiter.reset s.arbiters key { payGrant a g with busy := busy } }
    let poor := rs.filter fun r => !ownerFunded a r && !poolFunded s kind a r
    let s2 := poor.foldl (fun s r => updVdev s r.vd fun v => { v with emptyNow := v.emptyNow ||| BitVec.ofNat 6 (2 ^ kind) }) s1
    .next (match g with
      | none => s2
      | some (r, lent) =>
        let s3 := match unitEvent kind with
          | some i => charge s2 r.vd i r.units
          | none => s2
        let s4 := if kind = 4 then transmit s3 inst r.vd else s3
        if lent then updVdev s4 r.vd fun v => { v with lentNow := v.lentNow ||| BitVec.ofNat 6 (2 ^ kind) } else s4)

/-! ## Retired and degraded units -/

/-- A degraded event of every device with a rate at an arbiter kind (R120, R394). -/
def degrade (s : State) (kind : Nat) : State :=
  (List.range 32).foldl (fun s vd =>
    if (vdevOf s vd).share.rate.getD kind 0 = 0 then s
    else
      let s1 := updVdev (setEventVd s vd 3) vd fun v => { v with degraded := true }
      reportErr s1 { cid := cidOf vd 0, code := 32, detail := kind }) s

/-- The units of a die. -/
def dieOf (s : State) (die : Nat) : DieUnits := s.dies.getD die DieUnits.reset

/-- The state with the units of a die changed. -/
def updDie (s : State) (die : Nat) (f : DieUnits → DieUnits) : State :=
  { s with dies := s.dies.zipIdx.map fun e => if e.2 = die then f e.1 else e.1 }

/-- What a cluster's caches hold goes, the handle entries as a replacement writes them back (R294). -/
def emptyCaches (s : State) (die k : Nat) : State :=
  let c := clusterOf s die k
  let s1 := c.handles.foldl (fun s h =>
    match descOfCtx s h.cid with
    | some d => evictEntry s (ghostMotif h.cid d die k) h.handle
    | none => s) s
  updCluster s1 die k fun c => { c with handles := [], l1 := [], tlb := [], qtlb := [], atc := [] }

/-- The spare takes over a logical number, with caches of its own: the motifs are saved and restored under it, and see no
change (R403, R404). -/
def substitute (s : State) (die k spare : Nat) : State :=
  let s1 := updDie (emptyCaches s die k) die fun u =>
    { u with phys := u.phys.set k spare, spares := u.spares.filter fun x => x != spare }
  { s1 with motifs := s1.motifs.map fun m => if m.die = die ∧ m.cluster = k then m.afresh else m }

/-- UNIT_RETIRE: a spare takes the cluster's number, or the number becomes absent (R392, R394; log entry 27). -/
def execUnitRetire (cl : ClusterRef) (s : State) : Host.Outcome State Fault Refusal :=
  if 4 ≤ cl.die ∨ 60 ≤ cl.cluster ∨ (clusterOf s cl.die cl.cluster).absent then .next s
  else
    match (dieOf s cl.die).spares with
    | p :: _ => .next (substitute s cl.die cl.cluster p)
    | [] =>
      let s1 := updCluster s cl.die cl.cluster fun c => { c with absent := true }
      let hit := fun (m : Motif) => m.die == cl.die && m.cluster == cl.cluster
      .next (degrade { s1 with motifs := s1.motifs.map fun m => if hit m then askStop s.clock m else m } 0)

/-- The cuts that a link's loss of lanes fails: those of every job that records links (R453). -/
def failLinkCuts (s : State) (link : Nat) : State :=
  (s.jobs.map (·.cid)).foldl (fun s cid => failCut s cid 1 fun c => bitAt c.links link) s

/-! ## Migration -/

/-- Whether a device that migrates out is quiescent (R400, R424). -/
def quiescent (s : State) (vd : Nat) : Bool :=
  let v := vdevOf s vd
  v.migrating == 1 &&
  (if v.share.mode then !(s.records.any fun r => cidVd r.cid == vd && r.begun) && !(s.motifs.any fun m => cidVd m.cid == vd)
   else !(s.motifs.any fun m => cidVd m.cid == vd))

/-- MIGRATE_OUT: rings fetch no more; in mode 0 every motif is pre-empted, in mode 1 begun records complete (R400); a guest's
switch under way is recorded (R402). -/
def execMigrateOut (vd : Nat) (s : State) : Host.Outcome State Fault Refusal :=
  let v := vdevOf s vd
  let s1 := updVdev s vd fun w =>
    { w with migrating := 1, switchRec := if v.share.mode then w.switchRec else w.switchRec ++ guestSwitch s vd }
  if v.share.mode then .next s1
  else .next (saveClocks { s1 with motifs := s1.motifs.map fun m => if cidVd m.cid = vd then askStop s.clock m else m } vd)

/-- MIGRATE_IN, on this package or on the target: fetching goes on; in mode 0 the clock resumes from its saved reading and the
wallclock takes the written offset, never below its saved reading. While motifs of the device still run here, their clocks
have gone on past the saved readings, and neither falls (R123, R400, R401; log entry 28). -/
def execMigrateIn (vd : Nat) (s : State) : Host.Outcome State Fault Refusal :=
  let v := vdevOf s vd
  let runs := s.motifs.any fun m => cidVd m.cid == vd
  let s1 := updVdev s vd fun v => { v with migrating := 0 }
  if v.share.mode then .next s1
  else
    let wall : Int := if runs then wallOf s vd else v.savedWall
    .next (updVdev s1 vd fun v =>
      { v with
        clockOff := if runs || v.savedClock == 0 then v.clockOff else (v.savedClock : Int) - s.clock
        savedClock := if runs then v.savedClock else 0
        wallOff := max v.wcoff.toInt (wall - wallNow s) })

/-! ## In-field test -/

/-- The system log's codes for the in-field test (R403; log entry 11). -/
def testSkipped : Nat := 40

/-- A cluster passed. -/
def testPassed : Nat := 41

/-- A cluster failed. -/
def testFailed : Nat := 42

/-- The next exposed cluster of a die in the rotation by physical number: one that stands for a number in use (R403). -/
def nextTested (s : State) (die : Nat) : Option (Nat × Nat) :=
  let u := dieOf s die
  ((List.range 64).map fun i => (u.next + i) % 64).findSome? fun p =>
    (u.phys.idxOf? p).bind fun k => if (clusterOf s die k).absent then none else some (p, k)

/-- Whether the interval of wall time since a die's last test is over; an interval of 0 disables the test (R403). -/
def testDue (s : State) (die : Nat) : Bool :=
  let seconds := (s.ifst.extractLsb' 0 16).toNat
  seconds != 0 && decide ((dieOf s die).tested + seconds * 10 ^ 9 ≤ wallNow s)

/-- Whether the test of a cluster waits for the next interval (R404). -/
def testDeferred (s : State) (die k : Nat) : Bool :=
  (residents s die k).any fun m =>
    let vd := cidVd m.cid
    (freeSlot s m.cid m.desc).isNone || m.halts || (s.motifs.any fun x => cidVd x.cid == vd && x.preempt.isSome) ||
    decide ((vdevOf s vd).migrating ≠ 0)

/-- INFIELD_TEST: one exposed cluster of the die moves to a spare and is under test (R403, R404). -/
def execInfieldTest (die : Nat) (s0 : State) : Host.Outcome State Fault Refusal :=
  if 4 ≤ die ∨ !testDue s0 die ∨ (dieOf s0 die).testing.isSome then .next s0
  else
    let s := updDie s0 die fun u => { u with tested := wallNow s0 }
    match (dieOf s die).spares, nextTested s die with
    | spare :: _, some (p, k) =>
      if testDeferred s die k then .next s
      else .next (updDie (substitute s die k spare) die fun u => { u with testing := some p, next := (p + 1) % 64 })
    | _, _ => .next (logEvent s testSkipped die)

/-- SCAN_TEST_COMPLETE: the cluster becomes a spare, or is retired (R392, R403). -/
def execScanTestComplete (die : Nat) (pass : Bool) (s : State) : Host.Outcome State Fault Refusal :=
  match (dieOf s die).testing with
  | none => .next s
  | some p =>
    let s1 := updDie s die fun u => { u with testing := none, spares := if pass then u.spares ++ [p] else u.spares }
    .next (logEvent s1 (if pass then testPassed else testFailed) (die * 64 + p))

end Sys2Proof.Machine
end

