-- ==== Sys2Proof/Machine/Fabric.lean ====
section
/-! DEFINITION. Feltor packets at their target and at their sender: reads, puts, atomics and reductions, responses,
forwarding, timeouts, and the links themselves (R200, R201, R277 to R285, R410 to R416, R449). -/

namespace Sys2Proof.Machine

/-! ## The receive buffer -/

/-- A packet that leaves the receive buffer of an incoming channel is logged for each live cut of its job whose marker
the channel has not delivered (R449). -/
def logChannel (s : State) (link : Nat) (p : Packet) : State :=
  let ch := channelNo link p
  let one := fun (c : Cut) =>
    if c.live && bitAt c.links link && !c.markers.contains ch then { c with logs := c.logs ++ [(ch, p)] } else c
  if s.jobs.any fun j => j.cid == p.cid then mapCuts s p.cid one else s

/-- Whether a packet is of the epoch after this chip's, on a channel whose marker of that cut has not come (R449). -/
def earlyPacket (s : State) (p : Packet) : Bool :=
  p.cut.getLsbD 2 && p.cut.toNat % 4 == ((jobOf s p.cid).epoch + 1) % 3

/-- The protocol error: the packet counts as though the marker had come, and the cut fails with cause 5 (R449; log entry
31). -/
def protocolError (s : State) (link : Nat) (p : Packet) (b : CutBlock) : State :=
  let cutid := nextCut (jobOf s p.cid).latest
  if colourReady s p.cid cutid then
    let s1 := updCut (recordCut s p.cid cutid b) p.cid cutid fun c => { c with markers := c.markers ++ [channelNo link p] }
    failCut s1 p.cid 5 fun c => c.cutid == cutid
  else if b.coord = ownChip s (cidVd p.cid) then s
  else sendCtrl s p.cid b.coord 3 cutid 5 0

/-! ## At the target -/

/-- The agent that performs a packet's accesses: its job's context on this chip (R200). -/
def packetAgent (s : State) (cid : Cid) : Option Motif :=
  (descOfCtx s cid).map fun d => ghostMotif cid d (portDie s (cidVd cid)) frontCluster

/-- The target of bytes of the pod-shared region, translated here (R200, R201). -/
def podHome (s : State) (m : Motif) (off n : Nat) (acc : Access) : Target :=
  if !featureOn s (cidVd m.cid) 8 then hardFault 11 off else podPage s (motifView m) off n acc

/-- The first fault among targets (R201). -/
def podFault (ts : List Target) : Option XFault :=
  ts.findSome? fun t => match t with
    | .fault f => some f
    | _ => none

/-- An access that its target's translation refuses: reported here with code 20, answered with status 1 (R201, R368). -/
def refuseAccess (s : State) (p : Packet) (kind op : Nat) : State :=
  reply (reportErr s { cid := p.cid, code := 20, detail := kind, addr := p.addr.toNat }) p op 1 id

/-- The same for a fault of the walk, which may have met a poisoned table (R201, R212). -/
def refuseFault (s : State) (p : Packet) (m : Motif) (f : XFault) (op : Nat) : State :=
  refuseAccess (noticeFault s (motifView m) f) p f.kind op

/-- The pod aperture address of an offset of this chip's own region (R200). -/
def ownAddress (s : State) (cid : Cid) (off : Nat) : Nat := 0xFF00000000000000 + ownChip s (cidVd cid) * 2 ^ 44 + off

/-- The lines or the bytes that a packet names: offset and length of each piece (R411). -/
def packetPieces (p : Packet) : List (Nat × Nat) :=
  if p.size = 0 then (List.range p.nlines.toNat).map fun i => (p.addr.toNat + 128 * i, 128)
  else [(p.addr.toNat, sizeBytes p.size)]

/-- Lines of a response: their tags and expanded bytes, a poisoned one with tag 15. -/
def linesAt (s : State) (ts : List Target) : List (Nat × List Byte) :=
  ts.map fun t => match t with
    | .phys q _ => if isPoisoned s q then (15, []) else ((lineTag s q).toNat, readLine s q)
    | _ => (15, [])

/-- The lines of one packet: at most 8, of at most 16 sectors (R278, R411). -/
def groupLines (sectors : Nat → Nat) : List (Nat × List Byte) → List (List (Nat × List Byte))
  | [] => []
  | x :: xs =>
    match groupLines sectors xs with
    | [] => [[x]]
    | g :: gs =>
      if g.length < 8 ∧ ((x :: g).map fun e => sectors e.1).sum ≤ 16 then (x :: g) :: gs else [x] :: g :: gs

/-- A response's packets: their lines leave in stored form, and expanded by a link whose end does not accept it (R277,
R278, R411). -/
def sendLines (s : State) (p : Packet) (lines : List (Nat × List Byte)) : State :=
  let groups := groupLines tagSectors lines
  (groups.foldl (fun (a : State × Nat) g =>
    let tags := (g.zipIdx.map fun x => x.1.1 * 2 ^ (4 * x.2)).sum
    let payload := g.flatMap fun x => if x.1 = 15 then [] else storedForm x.2 x.1
    let status := if g.any fun x => x.1 == 15 then 2 else 0
    (reply a.1 p 2 status fun r =>
      { r with
        nlines := BitVec.ofNat 4 g.length, size := 0, addr := p.addr + BitVec.ofNat 64 (128 * a.2)
        tags := BitVec.ofNat 32 tags, checks := g.map fun x => if x.1 = 15 then 0 else crc32c x.2
        payload := flitPad payload }, a.2 + g.length)) (s, 0)).1

/-- What a packet does at its target: a read that asks for a later atomic is judged as a write (R216; log entry 16). -/
def packetAccess (p : Packet) : Access :=
  if p.op = 1 then (if p.nlines ≠ 0 ∧ p.aop = probeMark then .write else .read)
  else if p.op = 3 ∧ p.nlines = 0 ∧ p.aop.toNat % 4 ≠ 3 then .read
  else .write

/-- The width of an atomic that a packet carries (R411). -/
def aopWidth (p : Packet) : Nat := if p.aop.getLsbD 4 then 8 else 4

/-- The targets of a packet's accesses (R200, R411). -/
def packetTargets (s : State) (p : Packet) (m : Motif) : List Target :=
  if p.op = 5 ∨ p.op = 7 then [podHome s m p.addr.toNat (aopWidth p) .write]
  else if p.nlines = 0 then [podHome s m p.addr.toNat 1 (packetAccess p)]
  else (packetPieces p).map fun e => podHome s m e.1 e.2 (packetAccess p)

/-- Whether a packet's access reaches a frame that is being formatted: it waits (R219). -/
def packetWaits (s : State) (p : Packet) : Bool :=
  (s.vdevs.any fun e => e.2.fmtBusy.isSome) && (p.op == 1 || p.op == 3 || p.op == 5 || p.op == 7) &&
  match packetAgent s p.cid with
  | none => false
  | some m => (packetTargets s p m).any (formatting s)

/-- Whether a packet other than a marker or CTRL finds what it needs: the frame that it reaches, or room in the queue that it
leaves by (R219, R415). -/
def packetReady (s : State) (p : Packet) : Bool := if packetLocal s p then !packetWaits s p else hasRoom s p

/-- A packet that leaves the receive buffer: logged, then forwarded or applied (R414, R449). -/
def leaveBuffer (s : State) (link : Nat) (p : Packet) (apply : State → State) : State :=
  let s0 := noticeBlock s p.cid
  let s1 := match cutBlockOf s0 p.cid with
    | none => s0
    | some b => if earlyPacket s0 p then protocolError s0 link p b else logChannel s0 link p
  if packetLocal s1 p then apply s1 else forward s1 p

/-- A packet other than a marker or CTRL as the package takes it in: dropped, held in the receive buffer, or admitted (R219,
R412, R413, R415, R448, R460). -/
def receive (s : State) (link : Nat) (p : Packet) (op : Nat) (apply : State → State) : State :=
  if p.op.toNat ≠ op ∨ !packetValid s p then dropPacket s link p
  else if mustWait s link p || !packetReady s p then hold s link p
  else leaveBuffer s link p apply

/-- The line that an operation without lines names (log entry 73). -/
def lineTarget (s : State) (p : Packet) (m : Motif) (acc : Access) : Target := podHome s m p.addr.toNat 1 acc

/-- CCONV .query asked by another chip: the stored tag and the combined COMP of a line (R288; log entry 73). -/
def answerQuery (s : State) (p : Packet) (m : Motif) : State :=
  match lineTarget s p m .read with
  | .phys q e =>
    let s1 := if latentAt s q = some 2 then discover s q p.cid else s
    reply (cacheTargets s1 (motifView m) [.phys q e]) p 2 0 fun r =>
      { r with addr := p.addr, tags := BitVec.ofNat 32 ((lineTag s1 q).toNat + if e.comp then 16 else 0) }
  | .fault f => refuseFault s p m f 2
  | _ => refuseAccess s p 7 2

/-- CCONV .pack, .unpack or .clear asked by another chip (R288; log entry 73). -/
def applyConvert (s : State) (p : Packet) (m : Motif) : State :=
  let fn := p.aop.toNat % 4
  match lineTarget s p m (if fn = 3 then .write else .read) with
  | .phys q e =>
    reply (convertLine (cacheTargets s (motifView m) [.phys q e]) p.cid fn (ownAddress s p.cid p.addr.toNat) q e) p 4 0 id
  | .fault f => refuseFault s p m f 4
  | _ => refuseAccess s p 7 4

/-- A read request applied at its target (R200, R201, R284, R412). -/
def applyRdreq (p : Packet) (s : State) : State :=
  match packetAgent s p.cid with
  | none => refuseAccess s p 1 2
  | some m =>
    let ts := packetTargets s p m
    match podFault ts with
    | some f => refuseFault s p m f 2
    | none =>
      let s1 := discoverAll s p.cid (ts.map fun t => (0, t))
      let s2 := cacheTargets s1 (motifView m) ts
      if p.nlines = 0 then answerQuery s1 p m
      else if p.size = 0 then sendLines s2 p (linesAt s2 ts)
      else
        match ts with
        | .phys q _ :: _ =>
          if isPoisoned s2 q then reply s2 p 2 2 id
          else
            reply s2 p 2 0 fun r =>
              { r with nlines := 1, size := p.size, addr := p.addr
                       payload := flitPad (readBytes (spaceMem s2 q.space) q.addr (sizeBytes p.size)) }
        | _ => s2

/-- RDREQ (R412). -/
def execRdreq (link : Nat) (p : Packet) (s : State) : Host.Outcome State Fault Refusal :=
  .next (receive s link p 1 (applyRdreq p))

/-- One piece of a put written at its home; poisoned data poisons the line; the answer says whether a poisoned line
discarded it (R257, R281, R284, R285; log entry 32). -/
def putPiece (p : Packet) (s : State) (off : Nat) (d : Nat × List Byte) (t : Target) : State × Bool :=
  match t with
  | .phys q e =>
    if p.aop = mergeMark ∧ p.size = 1 then
      let byte := ((tget 0 (spaceMem s q.space) q.addr) &&& p.payload.getD 1 0) ||| p.payload.getD 0 0
      homeWrite s p.cid (jobOf s p.cid).epoch q e.comp e.snap (ownAddress s p.cid off) [byte]
    else if d.1 = 15 ∨ d.1 = 16 then
      (poisonWrite s p.cid (jobOf s p.cid).epoch q e.snap (ownAddress s p.cid off) (if d.1 = 15 then 4 else 3) none, false)
    else homeWrite s p.cid (jobOf s p.cid).epoch q e.comp e.snap (ownAddress s p.cid off) d.2
  | _ => (s, false)

/-- How a put is known when it comes a second time. -/
def putKey (p : Packet) : Cid × Nat × Nat := (p.cid, p.src.toNat, p.rtag.toNat)

/-- A put applied at its target; a line whose check value fails is discarded and asked for once more (R200, R201, R228,
R281, R282, R412; log entry 32). -/
def applyPut (p : Packet) (s0 : State) : State :=
  let s := { s0 with rxFailed := s0.rxFailed.filter fun k => k != putKey p }
  match packetAgent s p.cid with
  | none => refuseAccess s p 1 4
  | some m =>
    if p.nlines = 0 then applyConvert s p m
    else if !s0.rxFailed.contains (putKey p) && (payloadPieces p).any fun d => d.1 == 16 then
      send { s with rxFailed := s.rxFailed ++ [putKey p] } (.packetAgain p.cid p.src.toNat p.rtag.toNat)
    else
    let ps := packetPieces p
    let ts := packetTargets s p m
    match podFault ts with
    | some f => refuseFault s p m f 4
    | none =>
      let s1 := cacheTargets s (motifView m) ts
      let go := (ps.zip (payloadPieces p)).zip ts
      let r := go.foldl (fun (a : State × Bool) e =>
        let w := putPiece p a.1 e.1.1.1 e.1.2 e.2
        (w.1, a.2 || w.2)) (s1, false)
      reply r.1 p 4 (if r.2 then 2 else 0) id

/-- PUT (R412). -/
def execPutPacket (link : Nat) (p : Packet) (s : State) : Host.Outcome State Fault Refusal :=
  .next (receive s link p 3 (applyPut p))

/-- An atomic or a reduction applied at its target: the old value goes back, or an acknowledgement (R200, R257, R264,
R265, R412; log entry 33). -/
def applyAtom (p : Packet) (op : Nat) (s : State) : State :=
  let n := aopWidth p
  match packetAgent s p.cid with
  | none => refuseAccess s p 1 op
  | some m =>
    let t := podHome s m p.addr.toNat n .write
    match podFault [t], t with
    | some f, _ => refuseFault s p m f op
    | none, .phys q e =>
      let s1 := cacheTargets (discover s q p.cid) (motifView m) [t]
      if isPoisoned s1 q then reply s1 p op 2 id
      else
        let old := leNat (readBytes (spaceMem s1 q.space) q.addr n)
        let b := leNat (p.payload.take n)
        let c := leNat ((p.payload.drop n).take n)
        let new := leBytes n (atomOp (p.aop.toNat % 8) n b c old)
        let s2 := (homeWrite s1 p.cid (jobOf s p.cid).epoch q e.comp e.snap (ownAddress s p.cid p.addr.toNat) new).1
        reply s2 p op 0 fun r =>
          if op = 6 then { r with nlines := 1, size := sizeCode n, addr := p.addr, payload := flitPad (leBytes n old) } else r
    | none, _ => s

/-- ATOM_PACKET (R412). -/
def execAtomPacket (link : Nat) (p : Packet) (s : State) : Host.Outcome State Fault Refusal :=
  .next (receive s link p 5 (applyAtom p 6))

/-- RED_PACKET (R412). -/
def execRedPacket (link : Nat) (p : Packet) (s : State) : Host.Outcome State Fault Refusal :=
  .next (receive s link p 7 (applyAtom p 4))

/-! ## At the sender -/

/-- A read asked for again after a delivery that failed its check (R282). -/
def readAgain (s : State) (r : Request) (p : Packet) : State :=
  let again := fun (x : Request) =>
    if x.rtag = r.rtag ∧ x.cid = r.cid ∧ x.answer.isNone then { x with again := true, sent := s.clock } else x
  let q := { newPacket s p.cid p.src.toNat 0 1 (jobOf s p.cid).epoch with
    nlines := p.nlines, size := p.size, addr := p.addr, rtag := p.rtag }
  (routePacket { s with requests := s.requests.map again } q).getD s

/-- The bytes of an answer: those of the access, or an expanded line with its tag (R412). -/
def answerBytes (p : Packet) (d : Nat × List Byte) : List Byte :=
  if p.size = 0 then d.2 ++ [BitVec.ofNat 8 (d.1 % 16)] else d.2

/-- A read response: a line whose check value fails is asked for once more and then counts as poisoned, here and at its home
(R281, R282, R284, R412, R464; log entry 74). -/
def applyRdrsp (p : Packet) (s : State) : State :=
  match requestFor s p.cid p.rtag.toNat [1] with
  | none => s
  | some r =>
    let s1 := confirmDelivery s p.cid p.rtag
    if p.status = 1 ∨ p.status = 3 then answerRequest s1 r p.status.toNat []
    else if p.nlines = 0 ∧ p.status = 0 then answerRequest s1 r 0 [BitVec.ofNat 8 p.tags.toNat]
    else
      match (payloadPieces p).head? with
      | none => answerRequest s1 r 2 []
      | some d =>
        if p.status = 2 ∨ d.1 = 15 then answerRequest s1 r 2 []
        else if d.1 = 16 then (if r.again then answerRequest (sendPoison s1 p.cid p.src.toNat p.addr.toNat) r 2 [] else readAgain s1 r p)
        else answerRequest s1 r 0 (answerBytes p d)

/-- RDRSP (R412). -/
def execRdrsp (link : Nat) (p : Packet) (s : State) : Host.Outcome State Fault Refusal :=
  .next (receive s link p 2 (applyRdrsp p))

/-- An atomic's old value comes back (R412, R464). -/
def applyAtomrsp (p : Packet) (s : State) : State :=
  match requestFor s p.cid p.rtag.toNat [5] with
  | none => s
  | some r => answerRequest (confirmDelivery s p.cid p.rtag) r p.status.toNat (p.payload.take (sizeBytes p.size))

/-- ATOMRSP (R412). -/
def execAtomrsp (link : Nat) (p : Packet) (s : State) : Host.Outcome State Fault Refusal :=
  .next (receive s link p 6 (applyAtomrsp p))

/-- The lowest row of an MSTORE that writes the line of a refused put. -/
def refusedRow (c : Command) (r : Request) : Nat :=
  (c.rows.findIdx? fun x => x.bytes.any fun b =>
    lineKey (b.1.toNat / 2 ^ 44 % 4096) (b.1.toNat % 2 ^ 44) == r.index).getD (committed c)

/-- The bytes of a put that a poisoned line discarded at its target are reported as their sender's (R257). -/
def putDiscarded (s : State) (r : Request) : State :=
  match (if r.strand ≠ 5000 then (allMotifs s).find? (fun m => m.uid == r.uid) else none) with
  | some m =>
    reportErr s { cid := r.cid, code := 25, motif := m.motifid.toNat, strand := min r.strand 255, die := m.die
                  cluster := m.cluster, stage := m.stage }
  | none => reportErr s { cid := r.cid, code := 25 }

/-- A command, resident or saved, whose put its target refused: its error, or the fault of the MSTORE's word (R300, R324,
R343). -/
def commandRefused (s : State) (m : Motif) (c : Command) (r : Request) : State :=
  let hit := fun (x : Motif) (f : Motif → Motif) => if x.uid = m.uid then f x else x
  if c.op = .mstore then formRecord (mapMotifs s fun x => hit x fun x => x.rowFault c 6 11 (refusedRow c r)) m.uid
  else
    let fails := fun (x : Command) =>
      if x.tl = c.tl ∧ x.number = c.number ∧ !x.complete then x.fails 4 11 0 (keyAddress r.index) else x
    mapMotifs s fun x => hit x fun x => { x with commands := x.commands.map fails }

/-- A put or a reduction that its target refused: the aperture fault of the strand or command that sent it, also of a saved
one; the cluster's own sticky write is the context's (R201, R216, R294, R300, R324). -/
def putRefused (s : State) (r : Request) : State :=
  if r.strand = 5000 then contextErrorOf s r.cid 19 11 r.slotPc.toNat
  else match (allMotifs s).find? fun m => m.uid == r.uid with
  | none => contextErrorOf s r.cid 19 11 0
  | some m =>
    if (ctxOf s m.cid).stopped then s
    else if r.strand < 1000 then contextError s m r.strand 19 11 0
    else match commandOf m (r.strand - 1000) r.slotPc.toNat with
      | none => s
      | some c => commandRefused s m c r

/-- A put without an answer to come is over: a sequencer's word looks at the answer itself, and any other sender has no more
to do than to learn of a refusal (R252, R328, R412). -/
def putOver (s : State) (r : Request) (status : Nat) : State :=
  let gone := { s with requests := s.requests.filter fun x => !(x.rtag == r.rtag && x.cid == r.cid && x.answer.isNone) }
  if r.strand = 2000 then answerRequest s r status []
  else if status = 1 ∨ status = 3 then putRefused gone r
  else gone

/-- A put is acknowledged: the request is over; bytes that a poisoned line discarded are reported (R252, R257, R412). -/
def applyPutack (p : Packet) (s : State) : State :=
  match requestFor s p.cid p.rtag.toNat [3, 7] with
  | none => s
  | some r =>
    let s1 := confirmDelivery s p.cid p.rtag
    putOver (if p.status = 2 then putDiscarded s1 r else s1) r p.status.toNat

/-- PUTACK (R412). -/
def execPutack (link : Nat) (p : Packet) (s : State) : Host.Outcome State Fault Refusal :=
  .next (receive s link p 4 (applyPutack p))

/-- REQUEST_TIMEOUT: a request unanswered for 2^26 cycles has the aperture fault (R201, R412). -/
def execRequestTimeout (rtag : Nat) (s : State) : Host.Outcome State Fault Refusal :=
  match s.requests.find? fun r => r.rtag == rtag && r.answer.isNone && r.op != 9 && r.op != hostOp with
  | none => .next s
  | some r =>
    if s.clock < r.sent + 2 ^ 26 then .next s
    else if r.op = 3 ∨ r.op = 7 then .next (putOver s r 1)
    else .next (answerRequest s r 1 [])

/-! ## Links -/

/-- PACKET_FORWARD: a packet for another chip (R414, R415, R449, R450). -/
def execPacketForward (link : Nat) (p : Packet) (s : State) : Host.Outcome State Fault Refusal :=
  if p.op = 8 then .next s
  else if p.op = 9 then .next (if packetLocal s p && packetValid s p then s else receiveCtrl s link 0 p)
  else .next (receive s link p p.op.toNat id)

/-- PACKET_DROPPED: a header whose CRC fails or that holds a reserved value (R412). -/
def execPacketDropped (link : Nat) (p : Packet) (s : State) : Host.Outcome State Fault Refusal :=
  .next (if packetValid s p then s else dropPacket s link p)

/-- FLIT_REPLAY: a flit of the replay buffer is sent again; the far router takes it once (R410). -/
def execFlitReplay (link : Nat) (s : State) : Host.Outcome State Fault Refusal :=
  .next (if (linkOf s link).replay.isEmpty then s else send s (.replayed link))

/-- The system log's code for a queue that moves nothing (R415; log entry 11). -/
def logStall : Nat := 51

/-- QUEUE_STALL_REPORT (R415). -/
def execQueueStallReport (link vc cls : Nat) (s : State) : Host.Outcome State Fault Refusal :=
  let l := linkOf s link
  let held := l.out.any fun e => e.1 == vc && e.2.1 == cls
  .next (if held && decide (tget 0 l.moved (vc * 2 + cls) + 2 ^ 24 ≤ s.clock) then
      logEvent s logStall (link * 8 + vc * 2 + cls)
    else s)

/-- A packet of a failed link placed on the alternate of its route entry, without a second mark of its class (R416). -/
def movePacket (s : State) (failed : Nat) (p : Packet) : State :=
  let e := tget 0 (vdevOf s (cidVd p.cid)).route p.dest.toNat
  let alt := if p.op = 8 then failed else if (e.extractLsb' 0 6).toNat = failed then (e.extractLsb' 6 6).toNat else routeLink s e
  if alt = failed ∨ p.op = 8 then s
  else (leavesAs (linkOf s alt) p).foldl (fun s q => updLink s alt (enqueue s.clock (sealPacket q))) s

/-- A link that fails: the unconfirmed packets of the replay buffer and the queued ones move, in order, to the alternates;
cuts that use the link fail (R416, R453; log entry 83). -/
def failLink (s : State) (link : Nat) : State :=
  let l := linkOf s link
  let s1 := updLink s link fun l => { l with failed := true, lanes := 0, out := [], replay := [] }
  failLinkCuts ((l.replay ++ l.out.map (·.2.2)).foldl (fun s p => movePacket s link p) s1) link

/-- LINK_FAIL (R393, R394, R416, R453). -/
def execLinkFail (link : Nat) (s : State) : Host.Outcome State Fault Refusal :=
  if 48 ≤ link then .next s
  else if (linkOf s link).failed then .next (failLink s link)
  else .next (degrade (failLink s link) 4)

/-- LINK_DEGRADE: a memory channel, CXL port or Feltor link is left with fewer lanes, or none (R393, R394, R416, R453). -/
def execLinkDegrade (kind unit lanes : Nat) (s : State) : Host.Outcome State Fault Refusal :=
  if kind = 4 then
    if unit < 48 ∧ lanes < (linkOf s unit).lanes then
      .next (degrade (if lanes = 0 then failLink s unit
        else failLinkCuts (updLink s unit fun l => { l with lanes := lanes }) unit) 4)
    else .next s
  else if kind = 2 ∨ kind = 3 then
    let fewer : Bool := match unitLanesOf s kind unit with
      | some n => decide (lanes < n)
      | none => true
    .next (if fewer then
        degrade { s with unitLanes := tset none s.unitLanes (arbiterKey kind unit) (some lanes) } kind
      else s)
  else .next s

/-- LINK_TRAINING: width, FEC, and whether the far end accepts lines in stored form; a narrower link is degraded (R277,
R393, R410). -/
def execLinkTraining (link lanes : Nat) (fec stored : Bool) (s : State) : Host.Outcome State Fault Refusal :=
  if 48 ≤ link ∨ !(lanes = 8 ∨ lanes = 4 ∨ lanes = 2) then .next s
  else
    let before := linkOf s link
    let s1 := updLink s link fun l => { l with lanes := lanes, fec := fec, stored := stored, failed := false }
    .next (if lanes < before.lanes then degrade (failLinkCuts s1 link) 4 else s1)

end Sys2Proof.Machine
end

