-- ==== Sys2Proof/Machine/Illegal.lean ====
section
/-! DEFINITION. Words that are no instruction of their stream: the illegal-instruction trap and sequencer fault 1
(R76 to R79). -/

namespace Sys2Proof.Machine

/-- The words of the instruction, prefix first. -/
def BadWord.words (b : BadWord) : List Word :=
  match b.pre with
  | some p => [p, b.word]
  | none => [b.word]

/-- Whether the word's opcode needs a feature that the device has not accepted (R76, R422). -/
def opRefused (s : State) (vd : Nat) (w : Word) : Bool :=
  match opFeature (wordOp w) with
  | some f => !featureOn s vd f
  | none => false

/-- Whether the word alone is an instruction of a vector FP64 form that the device has not accepted: its fn is then a
reserved one (R422). -/
def formRefused (s : State) (vd : Nat) (w : Word) : Bool :=
  match decodeStrand [w] with
  | .ok (i, _) => match i.shape with
    | some (_, sh) => fp64Form sh && !featureOn s vd 1
    | none => false
  | .error _ => false

/-- Step 1 of R77: the structure of the prefix is wrong. -/
def badPrefix (b : BadWord) : Bool :=
  match decodeStrand (BadWord.words b) with
  | .error .pfxThenPfx => true
  | .error .pfxMask => true
  | _ => false

/-- The word that the trap delivers: the prefix for its own fields, otherwise the word itself (R77, R79). -/
def badValue (s : State) (vd : Nat) (b : BadWord) : Word :=
  match decodeStrand (BadWord.words b) with
  | .error .pfxThenPfx => b.pre.getD b.word
  | .error .pfxMask => b.pre.getD b.word
  | .error .pfxField => if opRefused s vd b.word || formRefused s vd b.word then b.word else b.pre.getD b.word
  | _ => b.word

/-- The issue of such words by a slot: the structure of the prefix, the wait for a pending register of its triple,
predication, then the precise trap (R77, R79, R301). -/
def badStep (b : BadWord) (q0 : Iss) (s : State) : State :=
  let p := b.pre.map Pfx.ofWord
  let masked := match p with
    | some p => if p.mask = 0 then q0.act else q0.act &&& q0.t.triple p.mask.toNat
    | none => q0.act
  let q := { q0 with p := p, next := q0.pc + (if b.pre.isSome then 8 else 4) }
  let trap := fun (q : Iss) => afterIssue q noShape [] (settle q s (.trap 1 (badValue s (cidVd q.m.cid) b)))
  if badPrefix b && decide (q0.act ≠ 0) then trap { q with act := masked }
  else
    match tripleStop s q.t p with
    | some e => afterIssue q noShape [] (settle q s e)
    | none => if masked ≠ 0 then trap { q with act := masked } else skip q s

/-- UNASSIGNED_OPCODE (R73, R75 to R79): the trap of a strand's slot, or sequencer fault 1. -/
def execUnassignedOpcode (b : BadWord) (s : State) : Host.Outcome State Fault Refusal :=
  if b.sequencer then
    match seqIssuerOf s with
    | none => .fault .noIssuer
    | some q =>
      .next (if q.q.ended then s else elapse (seqFaultAt s q.m q.off 1 b.word.toNat [] q.q.work) 1)
  else
    match issuerOf s with
    | none => .fault .noIssuer
    | some q => .next (badStep b q s)

end Sys2Proof.Machine
end

