-- ==== Sys2Proof/Machine/Ingress.lean ====
section
/-! DEFINITION. The coherent window as the host sees it, and data arriving at a port (R225, R275, R281 to R286, R367, R431,
R435). -/

namespace Sys2Proof.Machine

/-! ## The coherent window and ingress -/

/-- The offset of the window that a function's BAR2 shows at an offset; none outside it (R225, R419). -/
def windowOffset (s : State) (f : Func) (off n : Nat) : Option Nat :=
  if s.recovery || n = 0 || decide (8 < n) then none
  else
    match f with
    | .pf => if off + n ≤ 0x40000 then some off else none
    | .vf vd =>
      let v := vdevOf s vd
      match v.winslice with
      | some i => if v.enabled ∧ off + n ≤ 8192 then some (i * 8192 + off) else none
      | none => none

/-- HOST_WINDOW_ACCESS (R225): a read is answered, a write changes the SRAM at once. -/
def execHostWindowAccess (a : WindowAccess) (s : State) : Host.Outcome State Fault Refusal :=
  match windowOffset s a.func a.offset a.size, a.write with
  | some o, some v => .next { s with window := writeBytes s.window o (leBytes a.size v.toNat) }
  | some o, none => .next (send s (.windowRead a.func (some (BitVec.ofNat 64 (leNat (readBytes s.window o a.size))))))
  | none, some _ => .next s
  | none, none => .next (send s (.windowRead a.func none))

/-- The bytes of arriving data that are used: a poisoned or twice failing delivery gives the cause of a poisoning
(R281, R282, R284). -/
def Ingress.verdict (d : Ingress) : Except Nat (List Byte) :=
  if d.poisoned then .error 4
  else
    match d.check with
    | none => .ok d.bytes
    | some c => if crc32c d.bytes = c then .ok d.bytes else if crc32c d.again = c then .ok d.again else .error 3

/-- The 64 bytes at a guest-physical address of a device, where they lie. -/
def blockHome (s : State) (vd gpa : Nat) : Option PAddr :=
  match stage2 s none vd gpa 64 with
  | .error _ => none
  | .ok l => some (if (vdevOf s vd).s2on then leafSpace (bitAt l.e 11) (l.at gpa) else leafSpace false gpa)

/-- The blocks that may not be rewritten now: descriptors of contexts with a resident motif, cut blocks of jobs with a
live cut (R367, R431). -/
def lockedBlocks (s : State) : List (Cid × Option PAddr) :=
  ((s.motifs.map (·.cid)).eraseDups.map fun c => (c, blockHome s (cidVd c) ((vdevOf s (cidVd c)).ctxbase + 64 * cidCtx c))) ++
  ((s.jobs.filter fun j => !j.recording.isEmpty).map fun j =>
    (j.cid, blockHome s (cidVd j.cid) ((vdevOf s (cidVd j.cid)).cutbase + 64 * cidCtx j.cid)))

/-- The context whose locked block arriving bytes would rewrite (R367, R431). -/
def lockedBy (s : State) (p : PAddr) (n : Nat) : Option Cid :=
  ((lockedBlocks s).find? fun e => match e.2 with
    | some b => b.space == p.space && spansMeet b.addr 64 p.addr n
    | none => false).map (·.1)

/-- The virtual address by which a live cut of the job records a physical one; none for memory that it does not record (R435,
R437). -/
def recordedAt (s : State) (cid : Cid) (p : PAddr) : Option Nat :=
  if (jobOf s cid).recording.isEmpty then none
  else ((recordedGranules s cid).find? fun g => g.1 == p.granule).map fun g => g.2 + p.addr % 16384

/-- The lines that arriving data would write are poisoned: reported to the owner of their frames, found by no access of a
context (R284). -/
def poisonIngress (s : State) (p : PAddr) (n cause : Nat) (cid : Cid) : State :=
  (piecesOf p.addr n 128).foldl (fun s a =>
    let q : PAddr := { p with addr := a }
    poisonWrite s cid (jobOf s cid).epoch q (recordedAt s cid q).isSome ((recordedAt s cid q).getD a) cause none) s

/-- Arriving bytes written at their home line by line; a poisoned line keeps its poison, unless a migration or a restoration
rewrites the whole of it, and memory that a live cut records is preserved first (R257, R275, R286, R435, R440). -/
def ingressWrite (s : State) (p : PAddr) (cid : Cid) (rewrite : Bool) (bytes : List Byte) : State :=
  let first := 128 - p.addr % 128
  let one := fun (s : State) (a : Nat) (b : List Byte) =>
    let q : PAddr := { p with addr := a }
    let cured := if rewrite && b.length == 128 then dropLatent (setLineTag s q 1) q else s
    let va := recordedAt s cid q
    if b.isEmpty then s else (homeWrite cured cid (jobOf s cid).epoch q false va.isSome (va.getD a) b).1
  let s1 := one s p.addr (bytes.take first)
  ((List.range (bytes.length / 128 + 1)).map fun k => (p.addr + first + 128 * k, (bytes.drop (first + 128 * k)).take 128)).foldl
    (fun s e => one s e.1 e.2) s1

/-- INGRESS_DATA (R275, R281, R282, R284, R367, R431): a delivery that fails its check is asked for again; a locked
descriptor or cut block is not rewritten. -/
def execIngressData (d : Ingress) (s : State) : Host.Outcome State Fault Refusal :=
  let p : PAddr := { space := d.space, addr := d.addr }
  let failed := match d.check with
    | some c => !d.poisoned && crc32c d.bytes != c
    | none => false
  let s1 := if failed then send s (.ingressAgain d.port d.addr) else s
  match Ingress.verdict d, d.space with
  | .ok b, .window => .next { s1 with window := writeBytes s1.window d.addr b }
  | .ok b, .host => .next { s1 with hostMem := writeBytes s1.hostMem d.addr b }
  | .ok b, _ =>
    match lockedBy s1 p b.length with
    | some c => .next (reportErr s1 { cid := c, code := 33, detail := cidCtx c })
    | none => .next (ingressWrite s1 p d.cid d.rewrite b)
  | .error _, .window => .next (logEvent s1 24 d.addr)
  | .error _, .host => .next (logEvent s1 24 d.addr)
  | .error cause, _ =>
    match lockedBy s1 p d.bytes.length with
    | some c => .next (reportErr s1 { cid := c, code := 33, detail := cidCtx c })
    | none => .next (poisonIngress s1 p d.bytes.length cause d.cid)

end Sys2Proof.Machine
end

