-- ==== Sys2Proof/Machine/Sequencer.lean ====
section
/-! DEFINITION. The register, branch, memory and barrier instructions of the matrix sequencer (R322 to R332). -/

namespace Sys2Proof.Machine

/-! ## k registers -/

/-- A result for a k register from two others (R326). -/
def kBinary (f : Dword → Dword → Dword) (w : FmtA) (z : SeqIss) (s : State) : Except SeqStop State := do
  let d ← kField w.d
  let a ← kField w.a
  let b ← kField w.b
  .ok (updSeq s z.m.uid fun q => q.setK d (f (q.kreg a) (q.kreg b)))

/-- KADD (R326). -/
def execKadd (w : FmtA) (s : State) : Host.Outcome State Fault Refusal :=
  runSeq (.kadd w) (kBinary (fun a b => a + b) w) s

/-- KSUB (R326). -/
def execKsub (w : FmtA) (s : State) : Host.Outcome State Fault Refusal :=
  runSeq (.ksub w) (kBinary (fun a b => a - b) w) s

/-- KSHL: the whole unsigned count (R326). -/
def execKshl (w : FmtA) (s : State) : Host.Outcome State Fault Refusal :=
  runSeq (.kshl w) (kBinary (fun a b => if 64 ≤ b.toNat then 0 else a <<< b.toNat) w) s

/-- KAND (R326). -/
def execKand (w : FmtA) (s : State) : Host.Outcome State Fault Refusal :=
  runSeq (.kand w) (kBinary (fun a b => a &&& b) w) s

/-- KOR (R326). -/
def execKor (w : FmtA) (s : State) : Host.Outcome State Fault Refusal :=
  runSeq (.kor w) (kBinary (fun a b => a ||| b) w) s

/-- KMUL (R326). -/
def execKmul (w : FmtA) (s : State) : Host.Outcome State Fault Refusal :=
  runSeq (.kmul w) (kBinary (fun a b => a * b) w) s

/-- KADDI (R326). -/
def execKaddi (w : FmtB) (s : State) : Host.Outcome State Fault Refusal :=
  runSeq (.kaddi w) (fun z s => do
    let d ← kField w.d
    let a ← kField w.a
    .ok (updSeq s z.m.uid fun q => q.setK d (q.kreg a + w.imm.signExtend 64))) s

/-- KLI (R326). -/
def execKli (w : FmtU) (s : State) : Host.Outcome State Fault Refusal :=
  runSeq (.kli w) (fun z s => do
    let d ← kField w.d
    .ok (updSeq s z.m.uid fun q => q.setK d (w.imm.signExtend 64))) s

/-- KBRA: the conditions of BRA on a signed 64-bit value (R112, R327). -/
def execKbra (w : FmtJ) (s : State) : Host.Outcome State Fault Refusal :=
  runSeqControl (.kbra w) (fun z s => do
    let a ← if w.fn = 0 then .ok 0 else kField w.a
    let v := (z.q.kreg a).toInt
    let holds : Bool := match w.fn.toNat with
      | 0 => true
      | 1 => decide (v = 0)
      | 2 => decide (v ≠ 0)
      | 3 => decide (v < 0)
      | 4 => decide (0 ≤ v)
      | 5 => decide (0 < v)
      | _ => decide (v ≤ 0)
    let next : Int := (z.off : Int) + 4 + (if holds then 4 * w.off.toInt else 0)
    -- a target outside the stream faults when it is fetched; offsets are 32-bit numbers (R323, R324)
    .ok (updSeq s z.m.uid fun q => { q with pc := wrapN 32 next })) s

/-- The bytes that KLD and KST move (R328). -/
def kBytes (w : BitVec 3) : Nat := if w = 3 then 8 else 4

/-- The address of KLD and KST (R328). -/
def kAddr (z : SeqIss) (w : FmtM) (a : Nat) : Nat :=
  wrapN 64 (((z.q.kreg a).toNat : Int) + w.off.toInt * kBytes w.w)

/-- KLD (R328). -/
def execKld (w : FmtM) (s : State) : Host.Outcome State Fault Refusal :=
  runSeq (.kld w) (fun z s => do
    let d ← kField w.d
    let a ← kField w.a
    let n := kBytes w.w
    let va := kAddr z w a
    if va % n ≠ 0 then .error (.fault 10 va [])
    else
      match gather s z.m (seqAsker z.m z.off) true [(va, n)] with
      | .hard _ kind s1 => .error (.faultIn 6 kind s1)
      | .pages ws s1 => .error (.pages ws s1)
      | .away s1 => .error (.wait s1)
      | .poison _ s1 at' => .error (.faultIn 7 at' s1)
      | .ok s1 data => .ok (updSeq s1 z.m.uid fun q => q.setK d (BitVec.ofNat 64 (leNat (data.headD []))))) s

/-- Whether nothing issued before the word can fault any more: no engine work that fetches is queued and no MSTORE is
unfinished. A word that stores waits for it, so that it has no effect behind a fault (R324, log
entry 76). -/
def nothingFaults (z : SeqIss) : Bool :=
  (z.q.work.all fun o => match o with
    | .mma _ _ _ _ _ _ _ _ _ => false
    | .mldacc _ _ _ _ => false
    | _ => true) && !storing z.m

/-- KST at another chip: the sequencer goes on once its store is acknowledged, so that a refusal faults at the word itself
(R324, R328). -/
def storeAway (z : SeqIss) (n chip off : Nat) (bytes : List Byte) (s : State) : Except SeqStop State :=
  let k := seqAsker z.m z.off
  match requestBy s k 1001 3 with
  | none => .error (.wait (sendBy s k 1001 chip off 3 n 0 bytes))
  | some r =>
    match r.answer with
    | none => .error (.wait s)
    | some (st, _) => if st = 1 ∨ st = 3 then .error (.faultIn 6 11 (forgetBy s k 3)) else .ok (forgetBy s k 3)

/-- KST (R257, R324, R328). -/
def execKst (w : FmtM) (s : State) : Host.Outcome State Fault Refusal :=
  runSeq (.kst w) (fun z s => do
    let d ← kField w.d
    let a ← kField w.a
    let n := kBytes w.w
    let va := kAddr z w a
    if va % n ≠ 0 then .error (.fault 10 va [])
    else
      let t := agentTarget s z.m va n .write
      match hardOf [(va, t)] with
      | some (_, f) => .error (.faultIn 6 f.kind (noticeFault s (motifView z.m) f))
      | none =>
        let r := pageWaits s (motifView z.m) .write false true [t]
        if r.2 ≠ [] then .error (.pages r.2 r.1)
        else if formatting s t || !nothingFaults z then .error (.wait s)
        else
          let bytes := leBytes n (z.q.kreg d).toNat
          match t with
          | .pod chip off => storeAway z n chip off bytes s
          | _ => .ok (scatterPiece z.m (seqAsker z.m z.off) (jobOf s z.m.cid).epoch (cacheTargets s (motifView z.m) [t]) va bytes)) s

/-- KEND (R329). -/
def execKend (w : FmtA) (s : State) : Host.Outcome State Fault Refusal :=
  runSeq (.kend w) (fun z s => .ok (updSeq s z.m.uid fun q => { q with ended := true })) s

/-- MYIELD: the place at which a pending pre-emption saves the sequencer (R329). -/
def execMyield (w : FmtA) (s : State) : Host.Outcome State Fault Refusal :=
  runSeq (.myield w) (fun z s =>
    .ok (if z.m.preempt.isSome then updSeq s z.m.uid fun q => { q with saveHere := true } else s)) s

/-! ## Barriers and counters -/

/-- The barrier of MSIG and MWAIT, with the checks of R330. -/
def seqBarrier (m : Motif) (w : FmtA) (signal : Bool) : Except SeqStop Nat :=
  let n := (w.b.extractLsb' 0 4).toNat
  if !m.header.barriers.getLsbD n || (signal && !m.header.seqbar.getLsbD n) then .error (.fault 3 n [])
  else .ok n

/-- Whether every strand of the motif has ended. -/
def allOver (m : Motif) : Bool := m.strands.all fun t => t.over

/-- A wait on a barrier's phase; one that nothing can end is fault 13 (R332). -/
def barrierWait (m : Motif) (n : Nat) (s : State) : Except SeqStop State :=
  if allOver m then .error (.fault 13 n []) else .error (.wait s)

/-- MSIG (R330, R332). -/
def execMsig (w : FmtA) (s : State) : Host.Outcome State Fault Refusal :=
  runSeq (.msig w) (fun z s => do
    let n ← seqBarrier z.m w true
    let b := tget Barrier.reset z.m.barriers n
    if b.seqIn then barrierWait z.m n s
    else if !z.q.work.isEmpty || storing z.m then .error (.wait s)
    else
      let arrive := fun (m : Motif) =>
        { m with
          barriers := tset Barrier.reset m.barriers n { b with arrivals := b.arrivals + 1, seqIn := true }
          seq := m.seq.map fun q =>
            { q with arrived := (n, b.phase) :: q.arrived.filter fun e => e.1 != n } }
      .ok (updMotif s z.m.uid fun m => checkBarrier (arrive m) n)) s

/-- MWAIT (R330, R332). -/
def execMwait (w : FmtA) (s : State) : Host.Outcome State Fault Refusal :=
  runSeq (.mwait w) (fun z s => do
    let n ← seqBarrier z.m w false
    let b := tget Barrier.reset z.m.barriers n
    match z.q.arrived.find? fun e => e.1 == n with
    | some e => if e.2 = b.phase then barrierWait z.m n s else .ok s
    | none => .ok s) s

/-- MWAITT (R331, R332). -/
def execMwaitt (w : FmtA) (s : State) : Host.Outcome State Fault Refusal :=
  runSeq (.mwaitt w) (fun z s => do
    let a ← kField w.a
    let tl := (w.b.extractLsb' 0 2).toNat
    let t := timelineOf z.m tl
    let v := (z.q.kreg a).toNat
    if v ≤ t.done then .ok s
    else if t.issued < v ∧ allOver z.m then .error (.fault 13 tl [])
    else .error (.wait s)) s

end Sys2Proof.Machine
end

