-- ==== Sys2Proof/Machine/Matrix.lean ====
section
/-! DEFINITION. The matrix engines: tiles, operand fetches, K-steps, row operations, the epilogue and MSTORE (R59, R318
to R320, R333 to R343, R352). -/

namespace Sys2Proof.Machine

/-! ## Tiles -/

/-- The 256 cells of a row. -/
def Tile.row (t : Tile) (r : Nat) : List Word :=
  let ws := t.rows.getD r []
  ws ++ List.replicate (256 - ws.length) 0

/-- A cell. -/
def Tile.cell (t : Tile) (r c : Nat) : Word := (t.rows.getD r []).getD c 0

/-- A tile of a sequencer. -/
def Sequencer.tile (q : Sequencer) (n : Nat) : Tile := q.tiles.getD n { rows := [], f64 := false, flags := 0 }

/-- A tile replaced. -/
def Sequencer.setTile (q : Sequencer) (n : Nat) (t : Tile) : Sequencer :=
  { q with tiles := q.tiles.zipIdx.map fun e => if e.2 = n then t else e.1 }

/-- The flags that a tile keeps: NV, OF, UF, NX (R319). -/
def tileFlags (f : Flags) : Flags := f &&& (fNV ||| fOF ||| fUF ||| fNX)

/-- A tile's mode once the work queued before the next word is done (R323). -/
def modeAfter (q : Sequencer) (n : Nat) : Bool :=
  q.work.foldl (fun b o => match o with
    | .mzero t pair => if pair then (if n = t ∨ n = t + 1 then true else b) else if n = t then false else b
    | .mldacc t _ e _ =>
      if (parseHandle e).fmt = 1 then (if n = t ∨ n = t + 1 then true else b) else if n = t then false else b
    | _ => b) (q.tile n).f64

/-- Whether both tiles of the pair of an even tile are in .f64 mode. -/
def pairMode (q : Sequencer) (n : Nat) : Bool := n % 2 == 0 && modeAfter q n && modeAfter q (n + 1)

/-- Engine work queued behind the word (R323). -/
def queueWork (s : State) (z : SeqIss) (o : EngineOp) : State :=
  updSeq s z.m.uid fun q => { q with work := q.work ++ [o], queued := q.queued + 1 }

/-- MZERO (R337). -/
def execMzero (w : FmtA) (s : State) : Host.Outcome State Fault Refusal :=
  runSeq (.mzero w) (fun z s => do
    let d ← tileField z.m w.d
    if w.fn = 1 ∧ (d % 2 ≠ 0 ∨ !z.m.header.acctiles.getLsbD (d + 1)) then .error (.fault 2 w.d.toNat [])
    else .ok (queueWork s z (.mzero d (w.fn == 1)))) s

/-! ## Descriptors and entries -/

/-- The first coordinate along dimension 0 of a descriptor (R333). -/
def descK (d : Dword) : Nat := bitsAt d.toNat 36 24

/-- The second coordinate of a descriptor (R333). -/
def descO (d : Dword) : Nat := bitsAt d.toNat 12 24

/-- The handle of a descriptor (R333). -/
def descH (d : Dword) : Nat := d.toNat % 4096

/-- A descriptor in a k register: a reserved bit is fault 14 (R333). -/
def descOf (z : SeqIss) (k : Nat) : Except SeqStop Dword :=
  let d := z.q.kreg k
  if bitsAt d.toNat 60 4 ≠ 0 then .error (.fault 14 k []) else .ok d

/-- An entry that the sequencer reads at issue (R294, R323). -/
def seqEntry (s : State) (z : SeqIss) (h : Nat) : Except SeqStop (State × List Byte) :=
  match useEntry s z.m (seqAsker z.m z.off) (motifView z.m) h with
  | .found s1 b => .ok (s1, b)
  | .bad => .error (.fault 4 h [])
  | .busy => .error (.wait s)
  | .away s1 => .error (.wait s1)
  | .poisoned va => .error (.faultIn 7 va (discoverAll s z.m.cid [(va, agentTarget s z.m va 64 .read)]))
  | .blocked va t =>
    match hardOf [(va, t)] with
    | some (_, f) => .error (.faultIn 6 f.kind (noticeFault s (motifView z.m) f))
    | none =>
      let r := pageWaits s (motifView z.m) .read false true [t]
      .error (.pages r.2 r.1)

/-- The elements of K in a K-step of an A and a B format; none for a pairing that no class has (R318). -/
def classK (a b : Nat) : Option Nat :=
  let eight := fun (f : Nat) => f == 4 || f == 5 || f == 16 || f == 17
  let four := fun (f : Nat) => decide (12 ≤ f ∧ f ≤ 15)
  if (a = 2 ∨ a = 3) ∧ a = b then some 16
  else if eight a && eight b then some 32
  else if four a && four b then some 64
  else if a = 1 ∧ b = 1 then some 2
  else none

/-- The elements of K of a pairing whose class the device has accepted (R318, R422). -/
def classOn (s : State) (vd a b : Nat) : Option Nat :=
  match classK a b with
  | some k => if (k = 2 ∧ !featureOn s vd 2) ∨ (k = 64 ∧ !featureOn s vd 3) then none else some k
  | none => none

/-- Whether an origin suits an operand: a packed one on a block border along dimension 0, an unpacked K origin on a
K-step's border (R333). -/
def originOk (h : Handle) (inner korg k : Nat) : Bool :=
  if 12 ≤ h.fmt then inner % 32 == 0 else korg % k == 0

/-- The count register of MMA, MMAS and MFETCH (R338). -/
def countOf (z : SeqIss) (k : Nat) : Except SeqStop Nat :=
  let v := (z.q.kreg k).toNat
  if 65536 ≤ v then .error (.fault 14 k []) else .ok v

/-- MMA (R338). -/
def execMma (w : FmtA) (s : State) : Host.Outcome State Fault Refusal :=
  runSeq (.mma w) (fun z s => do
    let d ← tileField z.m w.d
    let ka ← kPair w.a
    let kn ← kField w.b
    let n ← countOf z kn
    let da ← descOf z ka
    let db ← descOf z (ka + 1)
    let ra ← seqEntry s z (descH da)
    let rb ← seqEntry ra.1 z (descH db)
    let a := parseHandle ra.2
    let b := parseHandle rb.2
    if a.rank ≠ 2 then .error (.fault 5 (descH da) [])
    else
      match classOn s (cidVd z.m.cid) a.fmt b.fmt with
      | none => .error (.fault 5 (descH db) [])
      | some k =>
        if b.rank ≠ 2 then .error (.fault 5 (descH db) [])
        else if !originOk a (descK da) (descK da) k then .error (.fault 5 (descH da) [])
        else if !originOk b (if b.major then descO db else descK db) (descK db) k then .error (.fault 5 (descH db) [])
        else if (if a.fmt = 1 then !pairMode z.q d else modeAfter z.q d) then .error (.fault 12 d [])
        else if a.fmt = 1 ∧ !z.m.header.acctiles.getLsbD (d + 1) then .error (.fault 2 w.d.toNat [])
        else .ok (if n = 0 then rb.1 else queueWork rb.1 z (.mma d da db n 0 ra.2 rb.2 false z.off))) s

/-- MMAS: a seeded B (R352). -/
def execMmas (w : FmtA) (s : State) : Host.Outcome State Fault Refusal :=
  runSeq (.mmas w) (fun z s => do
    let d ← tileField z.m w.d
    let ka ← kPair w.a
    let kn ← kField w.b
    let n ← countOf z kn
    let da ← descOf z ka
    let db ← descOf z (ka + 1)
    let ra ← seqEntry s z (descH da)
    let rb ← seqEntry ra.1 z (descH db)
    let a := parseHandle ra.2
    let b := parseHandle rb.2
    let k := if a.fmt = 3 then 16 else 32
    if a.rank ≠ 2 ∨ !(a.fmt == 3 || a.fmt == 4 || a.fmt == 5) then .error (.fault 5 (descH da) [])
    else if b.fmt ≠ 18 ∨ b.rank ≠ 2 ∨ !b.sealed ∨ b.major then .error (.fault 5 (descH db) [])
    else if !originOk a (descK da) (descK da) k then .error (.fault 5 (descH da) [])
    else if descK db % 32 ≠ 0 then .error (.fault 5 (descH db) [])
    else if modeAfter z.q d then .error (.fault 12 d [])
    else .ok (if n = 0 then rb.1 else queueWork rb.1 z (.mma d da db n 0 ra.2 rb.2 true z.off))) s

/-- MFETCH: a hint that faults only on registers and handles (R336). -/
def execMfetch (w : FmtA) (s : State) : Host.Outcome State Fault Refusal :=
  runSeq (.mfetch w) (fun z s => do
    let ka ← kPair w.a
    let _ ← kField w.b
    let check := fun (h : Nat) => match useEntry s z.m (seqAsker z.m z.off) (motifView z.m) h with
      | .bad => (.error (.fault 4 h []) : Except SeqStop Unit)
      | _ => .ok ()
    check (descH (z.q.kreg ka))
    check (descH (z.q.kreg (ka + 1)))
    .ok s) s

/-- MLDACC (R339). -/
def execMldacc (w : FmtA) (s : State) : Host.Outcome State Fault Refusal :=
  runSeq (.mldacc w) (fun z s => do
    let d ← tileField z.m w.d
    let ka ← kField w.a
    let da ← descOf z ka
    let r ← seqEntry s z (descH da)
    let h := parseHandle r.2
    if h.rank ≠ 2 ∨ 2 ≤ h.fmt then .error (.fault 5 (descH da) [])
    else if h.fmt = 1 ∧ d % 2 ≠ 0 then .error (.fault 12 d [])
    else if h.fmt = 1 ∧ !z.m.header.acctiles.getLsbD (d + 1) then .error (.fault 2 w.d.toNat [])
    else .ok (queueWork r.1 z (.mldacc d da r.2 z.off))) s

/-! ## Row operations at issue -/

/-- The control register of a row operation: its reserved bits (R340). -/
def controlOf (z : SeqIss) (k : Nat) (upper : Bool) : Except SeqStop Nat :=
  let v := (z.q.kreg k).toNat
  if bitsAt v 10 22 ≠ 0 ∨ (!upper && bitsAt v 32 32 != 0) then .error (.fault 14 k []) else .ok v

/-- Tiles that a row operation names are to be in .f32 mode (R340). -/
def plainTiles (z : SeqIss) : List Nat → Except SeqStop Unit
  | [] => .ok ()
  | t :: ts => if modeAfter z.q t then .error (.fault 12 t []) else plainTiles z ts

/-- MROWMAX (R340). -/
def execMrowmax (w : FmtA) (s : State) : Host.Outcome State Fault Refusal :=
  runSeq (.mrowmax w) (fun z s => do
    let d ← tileField z.m w.d
    let a ← tileField z.m w.a
    let k ← kField w.b
    let v ← controlOf z k false
    plainTiles z [d, a]
    .ok (queueWork s z (.rowmax d a (v % 256)))) s

/-- MROWSUM (R340). -/
def execMrowsum (w : FmtA) (s : State) : Host.Outcome State Fault Refusal :=
  runSeq (.mrowsum w) (fun z s => do
    let d ← tileField z.m w.d
    let a ← tileField z.m w.a
    let k ← kField w.b
    let v ← controlOf z k false
    plainTiles z [d, a]
    .ok (queueWork s z (.rowsum d a (v % 256)))) s

/-- MSCALE (R340). -/
def execMscale (w : FmtA) (s : State) : Host.Outcome State Fault Refusal :=
  runSeq (.mscale w) (fun z s => do
    let d ← tileField z.m w.d
    let a ← tileField z.m w.a
    let k ← kField w.b
    let v ← controlOf z k (w.fn == 1)
    let t := bitsAt v 8 2
    if w.fn = 1 then do
      plainTiles z [d, a]
      .ok (queueWork s z (.scale d a 0 0 (some (BitVec.ofNat 32 (bitsAt v 32 32)))))
    else if !z.m.header.acctiles.getLsbD t then .error (.fault 2 (32 + t) [])
    else do
      plainTiles z [d, a, t]
      .ok (queueWork s z (.scale d a t (v % 256) none))) s

/-- MCOPY (R340). -/
def execMcopy (w : FmtA) (s : State) : Host.Outcome State Fault Refusal :=
  runSeq (.mcopy w) (fun z s => do
    let d ← tileField z.m w.d
    let a ← tileField z.m w.a
    plainTiles z [d, a]
    .ok (queueWork s z (.copy d a))) s

/-! ## Fetching operands -/

/-- The units that hold elements i0 to i0 + ni - 1 along dimension 0 of a row, within the dims (R292, R334). -/
def spanStarts (h : Handle) (i0 ni : Nat) : List Nat :=
  if ni = 0 then []
  else
    let step := packStep h.fmt
    ((List.range ((i0 + ni - 1) / step - i0 / step + 1)).map fun k => (i0 / step + k) * step).filter fun i =>
      decide (i < h.dim 0)

/-- The pieces of a block of rows of an operand: rows o0 on, elements i0 on of each (R334). -/
def matPieces (h : Handle) (i0 ni o0 no : Nat) : List (Nat × Nat) :=
  (List.range no).flatMap fun o =>
    if o0 + o < h.dim 1 then (spanStarts h i0 ni).flatMap fun i => h.unit [i, o0 + o, 0, 0, 0] else []

/-- The positive zero that elements outside the dims read as (R334). -/
def FV.zero : FV := .fin false 0 0

/-- The units of one row decoded in order: their first elements with their values, the flags, the data left. -/
def decodeSpan (h : Handle) : List Nat → List (List Byte) → List (Nat × List FV) × Flags × List (List Byte)
  | [], data => ([], 0, data)
  | i :: is, data =>
    let n := if isBlock h.fmt then 2 else 1
    let v := unitValues h (data.take n)
    let rest := decodeSpan h is (data.drop n)
    ((i, v.1) :: rest.1, v.2 ||| rest.2.1, rest.2.2)

/-- An element among decoded units; outside them it is +0 (R334). -/
def spanGet (step : Nat) (us : List (Nat × List FV)) (i : Nat) : FV :=
  match us.find? fun u => decide (u.1 ≤ i ∧ i < u.1 + step) with
  | some u => u.2.getD (i - u.1) FV.zero
  | none => FV.zero

/-- A block of rows decoded (R334, R338). -/
def decodeRows (h : Handle) (i0 ni : Nat) : List Nat → List (List Byte) → List (List FV) × Flags
  | [], _ => ([], 0)
  | o :: os, data =>
    if o < h.dim 1 then
      let r := decodeSpan h (spanStarts h i0 ni) data
      let more := decodeRows h i0 ni os r.2.2
      (((List.range ni).map fun i => spanGet (packStep h.fmt) r.1 (i0 + i)) :: more.1, r.2.1 ||| more.2)
    else
      let more := decodeRows h i0 ni os data
      (List.replicate ni FV.zero :: more.1, more.2)

/-- Rows of a matrix as columns. -/
def transposed (rows : List (List FV)) (n : Nat) : List (List FV) :=
  (List.range n).map fun c => rows.map fun r => r.getD c FV.zero

/-! ## K-steps -/

/-- One cell of a K-step: the exact sum of the products and the incoming value, rounded once (R59). -/
def kCell (f : FFmt) (acc : Nat) (a b : List FV) : Nat × Flags :=
  let ps := List.zipWith mulXV a b
  let v := f.unpack acc
  let fl := ps.foldl (fun x p => x ||| p.2) (if v.snan then fNV else 0)
  let r := sumXV .rn (v.toXV :: ps.map (·.1))
  let o := f.round .rn false 0 (fl ||| r.2) r.1
  (o.bits, o.flags)

/-- A K-step over the whole tile (R59, R338): A's rows, B's columns. -/
def kStepTile (q : Sequencer) (d : Nat) (wide : Bool) (rows cols : List (List FV)) (fl : Flags) : Sequencer :=
  let lo := q.tile d
  let hi := q.tile (d + 1)
  let f := if wide then f64 else f32
  let out := rows.zipIdx.map fun r =>
    let l := lo.row r.2
    let h := hi.row r.2
    cols.zipIdx.map fun c =>
      let acc := (l.getD c.2 0).toNat + (if wide then (h.getD c.2 0).toNat * 2 ^ 32 else 0)
      kCell f acc r.1 c.1
  let flags := tileFlags (out.foldl (fun x row => row.foldl (fun x c => x ||| c.2) x) fl)
  let part := fun (n : Nat) => tileRows (out.map fun row => row.map fun c => BitVec.ofNat 32 (c.1 / 2 ^ (32 * n)))
  let q1 := q.setTile d { lo with rows := part 0, flags := lo.flags ||| flags }
  if wide then q1.setTile (d + 1) { hi with rows := part 1, flags := hi.flags ||| flags } else q1

/-- The rest of the queue after its head, or with a new head. -/
def popWork (q : Sequencer) (again : Option EngineOp) : Sequencer :=
  { q with work := (match again with
      | some o => [o]
      | none => []) ++ q.work.drop 1 }

/-- How an engine fetch that does not deliver takes effect on the work (R324, R334). -/
def fetchStop (m : Motif) (off : Nat) : Got → State
  | .hard _ kind s1 => seqFaultAt s1 m off 6 kind [] []
  | .pages ws s1 => updSeq s1 m.uid fun q => { q with opWaits := ws }
  | .poison _ s1 va => seqFaultAt s1 m off 7 va [] []
  | .away s1 => s1
  | .ok s1 _ => s1

/-- A misaligned element address among pieces of an operand (R334). -/
def skewedPiece (h : Handle) (ps : List (Nat × Nat)) : Option Nat :=
  (ps.find? fun p => p.2 ≠ 1 && p.1 % baseAlign h.fmt ≠ 0).map (·.1)

/-- The energy event of a K-step's MACs (R395). -/
def macIndex (fmt : Nat) (seeded : Bool) : Nat :=
  if seeded then 7
  else if fmt = 1 then 8
  else if fmt = 2 ∨ fmt = 3 then 5
  else if 12 ≤ fmt ∧ fmt ≤ 15 then 7 else 6

/-- One K-step of an MMA or MMAS at the head of the queue (R338, R352). -/
def stepMma (s : State) (m : Motif) (q : Sequencer) (d : Nat) (da db : Dword) (n step : Nat) (ea eb : List Byte)
    (seeded : Bool) (off : Nat) : State :=
  let a := parseHandle ea
  let b := parseHandle eb
  let k := if seeded then (if a.fmt = 3 then 16 else 32) else (classK a.fmt b.fmt).getD 1
  let k0 := descK da + step * k
  let kb := descK db + step * k
  let pa := matPieces a k0 k (descO da) 128
  let pb := if b.major then matPieces b (descO db) 256 kb k else matPieces b kb k (descO db) 256
  match (match skewedPiece a pa with
    | some x => some x
    | none => skewedPiece b pb) with
  | some x => seqFaultAt s m off 10 x [] []
  | none =>
    match gather s m (seqAsker m off) true (pa ++ pb) with
    | .ok s1 data =>
      let ra := decodeRows a k0 k ((List.range 128).map (descO da + ·)) (data.take pa.length)
      let rb := if b.major then decodeRows b (descO db) 256 ((List.range k).map (kb + ·)) (data.drop pa.length)
        else decodeRows b kb k ((List.range 256).map (descO db + ·)) (data.drop pa.length)
      let cols := if b.major then transposed rb.1 256 else rb.1
      let q1 := kStepTile q d (a.fmt == 1) ra.1 cols (ra.2 ||| rb.2)
      let next := if step + 1 < n then some (EngineOp.mma d da db n (step + 1) ea eb seeded off) else none
      charge (formRecord (updSeq s1 m.uid fun _ => popWork q1 next) m.uid) (cidVd m.cid) (macIndex a.fmt seeded) (128 * 256 * k)
    | g => fetchStop m off g

/-- The cells of MLDACC: elements of the tensor, +0 outside it (R339). -/
def stepMldacc (s : State) (m : Motif) (q : Sequencer) (d : Nat) (da : Dword) (e : List Byte) (off : Nat) : State :=
  let h := parseHandle e
  let ps := matPieces h (descK da) 256 (descO da) 128
  match skewedPiece h ps with
  | some x => seqFaultAt s m off 10 x [] []
  | none =>
    match gather s m (seqAsker m off) true ps with
    | .ok s1 data =>
      let starts := (spanStarts h (descK da) 256).length
      let rows := (List.range 128).map fun r =>
        if descO da + r < h.dim 1 then (data.drop (r * starts)).take starts else []
      let part := fun (n : Nat) => tileRows (rows.map fun row => row.map fun b => BitVec.ofNat 32 (leNat b / 2 ^ (32 * n)))
      let wide := h.fmt == 1
      let q1 := q.setTile d { rows := part 0, f64 := wide, flags := 0 }
      let q2 := if wide then q1.setTile (d + 1) { rows := part 1, f64 := true, flags := 0 } else q1
      formRecord (updSeq s1 m.uid fun _ => popWork q2 none) m.uid
    | g => fetchStop m off g

/-! ## Row operations -/

/-- The largest of a row as FMAX combines (R156, R340). -/
def rowMaxOf (row : List Word) : Nat × Flags :=
  match row with
  | [] => (0, 0)
  | x :: xs => xs.foldl (fun a y =>
      let r := f32.minmax true a.1 y.toNat
      (r.1, a.2 ||| r.2)) (x.toNat, 0)

/-- One level of the sum tree of MROWSUM (R340). -/
def sumPairs : List Nat → List Nat × Flags
  | x :: y :: rest =>
    let r := f32.add .rn false 0 (f32.unpack x) (f32.unpack y)
    let more := sumPairs rest
    (r.bits :: more.1, r.flags ||| more.2)
  | xs => (xs, 0)

/-- The sum tree of MROWSUM: eight levels over 256 cells (R340). -/
def sumTree : Nat → List Nat → Flags → Nat × Flags
  | 0, xs, fl => (xs.headD 0, fl)
  | n + 1, xs, fl =>
    let r := sumPairs xs
    sumTree n r.1 (fl ||| r.2)

/-- A tile with one column of every row replaced. -/
def putColumn (t : Tile) (col : Nat) (vals : List (Nat × Flags)) (fl : Flags) : Tile :=
  { t with
    rows := tileRows (vals.zipIdx.map fun v => (t.row v.2).set col (BitVec.ofNat 32 v.1.1))
    flags := t.flags ||| tileFlags (vals.foldl (fun x v => x ||| v.2) fl) }

/-- The row operation at the head of the queue (R340). -/
def stepRows (q : Sequencer) (o : EngineOp) : Sequencer :=
  match o with
  | .mzero d pair =>
    let zero : Tile := { rows := [], f64 := pair, flags := 0 }
    if pair then (q.setTile d zero).setTile (d + 1) zero else q.setTile d zero
  | .rowmax d a col =>
    q.setTile d (putColumn (q.tile d) col ((List.range 128).map fun r => rowMaxOf ((q.tile a).row r)) 0)
  | .rowsum d a col =>
    q.setTile d (putColumn (q.tile d) col
      ((List.range 128).map fun r => sumTree 8 (((q.tile a).row r).map (·.toNat)) 0) 0)
  | .scale d a t col f =>
    let out := (List.range 128).map fun r =>
      let k := f32.unpack (match f with
        | some v => v.toNat
        | none => ((q.tile t).cell r col).toNat)
      ((q.tile a).row r).map fun x => f32.mul .rn false 0 (f32.unpack x.toNat) k
    let fl := tileFlags (out.foldl (fun x row => row.foldl (fun x c => x ||| c.flags) x) 0)
    q.setTile d { (q.tile d) with
      rows := tileRows (out.map fun row => row.map fun c => BitVec.ofNat 32 c.bits), flags := (q.tile d).flags ||| fl }
  | .copy d a =>
    q.setTile d { (q.tile d) with rows := (q.tile a).rows, flags := (q.tile d).flags ||| (q.tile a).flags }
  | _ => q

/-- K_STEP: the head of a sequencer's queued engine work advances (R323, R337 to R340, R352). -/
def execKStep (uid : Nat) (s : State) : Host.Outcome State Fault Refusal :=
  match motifOf s uid, seqOf s uid with
  | some m, some q =>
    if !q.opWaits.isEmpty || (ctxOf s m.cid).stopped then .next s
    else
      match q.work with
      | [] => .next s
      | .mma d da db n step ea eb seeded off :: _ => .next (stepMma s m q d da db n step ea eb seeded off)
      | .mldacc d da e off :: _ => .next (stepMldacc s m q d da e off)
      | o :: _ => .next (formRecord (updSeq s uid fun q => popWork (stepRows q o) none) uid)
  | _, _ => .next s

/-! ## The epilogue and MSTORE -/

/-- MEPI (R341). -/
def execMepi (w : FmtA) (s : State) : Host.Outcome State Fault Refusal :=
  runSeq (.mepi w) (fun z s => do
    let ks ← kField w.a
    let kb ← kField w.b
    let sv := (z.q.kreg ks).toNat
    let bv := (z.q.kreg kb).toNat
    if 2 ^ 32 ≤ sv ∨ (f32.unpack sv).special then .error (.fault 14 ks [])
    else if bitsAt bv 36 27 ≠ 0 then .error (.fault 14 kb [])
    else
      .ok (updSeq s z.m.uid fun q =>
        { q with
          scale := BitVec.ofNat 32 sv, act := w.fn.toNat, biasOn := bitAt bv 63, biasHandle := bv % 4096
          borg := bitsAt bv 12 24 })) s

/-- The epilogue of one accumulator value (R342). -/
def epilogue (q : Sequencer) (f : FFmt) (bias : FV) (x : Nat) : Nat × Flags :=
  let r := f.fma .rn false 0 (f.unpack x) (f32.unpack q.scale.toNat) bias
  match q.act with
  | 1 => match f.unpack r.bits with
    | .fin n m _ => (if n && m != 0 then 0 else r.bits, r.flags)
    | .inf n => (if n then 0 else r.bits, r.flags)
    | .nan _ => (r.bits, r.flags)
  | 2 => let t := f.tanh .rn false 0 r.bits
         (t.bits, r.flags ||| t.flags)
  | 3 => let t := f.sigmoid 0 r.bits
         (t.bits, r.flags ||| t.flags)
  | _ => (r.bits, r.flags)

/-- The value of a cell of a tile or pair. -/
def accCell (q : Sequencer) (d : Nat) (wide : Bool) (r c : Nat) : Nat :=
  ((q.tile d).cell r c).toNat + (if wide then ((q.tile (d + 1)).cell r c).toNat * 2 ^ 32 else 0)

/-- One row of MSTORE converted and checked: what it writes and where, its sticky bits, whether the trap action fails
it (R342, R343). -/
def storeRow (q : Sequencer) (h : Handle) (d : Nat) (wide epi : Bool) (bias : Nat → FV) (da : Dword) (r : Nat) :
    List ((Nat × Nat) × List Byte) × UnitOut :=
  let f := if wide then f64 else f32
  let col := descK da
  let cell := fun (c : Nat) =>
    let x := accCell q d wide r c
    if epi then epilogue q f (bias c) x else (x, 0)
  let n := min 256 (h.dim 0 - col)
  let step := packStep h.fmt
  let units := (List.range (n / step)).map fun i =>
    let xs := (List.range step).map fun j => cell (i * step + j)
    let fl := xs.foldl (fun a x => a ||| x.2) 0
    let out := if h.fmt ≤ 11 then
        plainUnits h (xs.map fun x =>
          let y := convElem (if wide then 1 else 0) h.fmt x.1
          (y.1, y.2))
      else quantUnit h (xs.map fun x => f.unpack x.1)
    (h.unit [col + i * step, descO da + r, 0, 0, 0], { out with sticky := out.sticky ||| stickyOf fl })
  (units.flatMap fun u => u.1.zip u.2.bytes,
   { bytes := [], sticky := units.foldl (fun b u => b ||| u.2.sticky) 0, fail := units.any fun u => u.2.fail })

/-- The event that a row's own addresses give: a misaligned element, or a fault that is not replayable (R334, R343). -/
def rowEvent (s : State) (m : Motif) (h : Handle) (hn : Nat) (ps : List ((Nat × Nat) × List Byte)) : Option (Nat × Nat) :=
  match skewedPiece h (ps.map (·.1)) with
  | some a => some (10, a)
  | none =>
    match hardOf (ps.map fun p => (p.1.1, agentTarget s m p.1.1 p.1.2 .write)) with
    | some (_, f) => some (if f.kind = 12 then (8, hn) else (6, f.kind))
    | none => none

/-- The bytes of a piece of a row, each with its address. -/
def pieceBytes (p : (Nat × Nat) × List Byte) : List (Dword × Byte) :=
  p.2.zipIdx.map fun b => (BitVec.ofNat 64 (p.1.1 + b.2), b.1)

/-- The event of a row that the sequencer meets before its next word: with the trap action every event, otherwise a
misaligned element (R334, R343). -/
def rowStop (s : State) (m : Motif) (h : Handle) (hn : Nat) (ps : List ((Nat × Nat) × List Byte)) (out : UnitOut) :
    Option (Nat × Nat) :=
  if h.bound = 3 then
    match rowEvent s m h hn ps with
    | some e => some e
    | none => if out.fail then some (9, hn) else none
  else (skewedPiece h (ps.map (·.1))).map fun a => (10, a)

/-- The rows to write, in order, up to the first event; the event's code, detail and row (R343). -/
def rowsUntil (s : State) (m : Motif) (h : Handle) (hn : Nat) :
    List (Nat × List ((Nat × Nat) × List Byte) × UnitOut) → List StoreRow × Byte × Option (Nat × Nat)
  | [] => ([], 0, none)
  | (r, ps, out) :: rest =>
    match rowStop s m h hn ps out with
    | some e => ([], if e.1 = 9 then out.sticky else 0, some e)
    | none =>
      let more := rowsUntil s m h hn rest
      ({ row := r, bytes := ps.flatMap pieceBytes } :: more.1, out.sticky ||| more.2.1, more.2.2)

/-- The bias values of MSTORE .epi for the n columns that it stores: elements of the bias tensor, +0 outside it (R341,
R342). -/
def biasValues (s : State) (z : SeqIss) (n : Nat) : Except SeqStop (State × (List FV)) :=
  if !z.q.biasOn then .ok (s, [])
  else do
    let r ← seqEntry s z z.q.biasHandle
    let h := parseHandle r.2
    if h.rank ≠ 1 ∨ !(h.fmt == 0 || h.fmt == 3) then .error (.fault 5 z.q.biasHandle [])
    else
      let ps := matPieces h z.q.borg n 0 1
      match skewedPiece h ps with
      | some a => .error (.fault 10 a [])
      | none =>
        match gather r.1 z.m (seqAsker z.m z.off) true ps with
        | .hard _ kind s1 => .error (.faultIn 6 kind s1)
        | .pages ws s1 => .error (.pages ws s1)
        | .away s1 => .error (.wait s1)
        | .poison _ s1 va => .error (.faultIn 7 va s1)
        | .ok s1 data => .ok (s1, (decodeRows h z.q.borg n [0] data).1.headD [])

/-- MSTORE (R342, R343): rows are converted and checked at issue; CHUNK_PERFORMED writes them in order. -/
def execMstore (w : FmtA) (s : State) : Host.Outcome State Fault Refusal :=
  runSeq (.mstore w) (fun z s => do
    let d ← tileField z.m w.d
    let ka ← kField w.a
    let da ← descOf z ka
    let wide := modeAfter z.q d
    let r ← seqEntry s z (descH da)
    let h := parseHandle r.2
    if h.rank ≠ 2 ∨ 18 ≤ h.fmt ∨ (isBlock h.fmt && descK da % 32 != 0) then .error (.fault 5 (descH da) [])
    else if wide ∧ !pairMode z.q d then .error (.fault 12 d [])
    else if h.sealed then .error (.fault 8 (descH da) [])
    else if tileBusy z.q d || tileBusy z.q (d + 1) || decide (32 ≤ inFlight z.m 3) || !nothingFaults z then
      .error (.wait r.1)
    else do
      let cells := if descO da < h.dim 1 then min 256 (h.dim 0 - descK da) else 0
      let b ← if w.fn = 1 then biasValues r.1 z cells else .ok (r.1, [])
      let s1 := b.1
      let rows := ((List.range 128).filter fun r => decide (descO da + r < h.dim 1)).map fun r =>
        (r, storeRow z.q h d wide (w.fn == 1) (fun c => b.2.getD c FV.zero) da r)
      let u := rowsUntil s1 z.m h (descH da) rows
      let own := (z.q.tile d).flags ||| (if wide then (z.q.tile (d + 1)).flags else 0)
      let blank := blankCommand 3 ((timelineOf z.m 3).issued + 1) .mstore 0xFF
      let c : Command :=
        { blank with
          quad := [BitVec.ofNat 32 z.off], handles := [(descH da, r.2)], rows := u.1, behind := z.q.queued
          chunks := u.1.length, limit := u.1.length, sticky := u.2.1 ||| stickyOf own }
      let clear := fun (q : Sequencer) (n : Nat) => q.setTile n { (q.tile n) with flags := 0 }
      let s2 := updSeq (placeCommand s1 z.m.uid c []) z.m.uid fun q => if wide then clear (clear q d) (d + 1) else clear q d
      match u.2.2 with
      | none => .ok s2
      | some e =>
        -- the sequencer stops here; the rows below the event are written by the command (R324, R343)
        .ok (match motifOf s2 z.m.uid with
          | some m2 => updSeq (seqFaultAt s2 m2 z.off e.1 e.2 (u.1.map (·.row)) z.q.work) z.m.uid fun q => { q with pc := z.off }
          | none => s2)) s

end Sys2Proof.Machine
end

