-- ==== Sys2Proof/Machine/Restore.lean ====
section
/-! DEFINITION. Restoration of a recorded job: the command and its checks, the confirmations of the other chips, and the
steps by which the die controllers put the chip back (R459, R460, R463, R464). -/

namespace Sys2Proof.Machine

/-- A byte of an image's region; of a poisoned line it is free (log entry 8). -/
def regionByte (s : State) (kind a : Nat) : Byte :=
  let p : PAddr := { space := if kind = 1 then .host else .tier2, addr := a }
  if kind ≠ 1 ∧ isPoisoned s p then freeByte s.free a else tget 0 (spaceMem s p.space) a

/-- Bytes of an image's region. -/
def regionRead (s : State) (kind addr n : Nat) : List Byte := (List.range n).map fun i => regionByte s kind (addr + i)

/-- A section as it stands in a region: the eight bytes of its kind, its body's address and length (R439). -/
structure Placed where
  kind : Nat
  addr : Nat
  length : Nat
  deriving DecidableEq, Repr

/-- The sections that stand in a region, from an address on (R439). -/
def readSections (s : State) (kind : Nat) : Nat → Nat → List Placed
  | 0, _ => []
  | n + 1, a =>
    let h := regionRead s kind a 16
    { kind := fieldAt h 0 8, addr := a + 16, length := fieldAt h 8 8 } :: readSections s kind n (a + 16 + fieldAt h 8 8)

/-- The sections of the image in a region, by the count in its header. -/
def sectionsAt (s : State) (kind addr : Nat) : List Placed :=
  readSections s kind (fieldAt (regionRead s kind (addr + 12) 4) 0 4) (addr + 256)

/-- A granule from the body of its section; a line that does not have its check value is poisoned (R439, R444). -/
def parseGranule (b : List Byte) : Granule :=
  let line := fun (i : Nat) => (b.drop (592 + 128 * i)).take 128
  let tag := fun (i : Nat) =>
    let t := fieldAt b (16 + i / 2) 1 / 16 ^ (i % 2) % 16
    if t ≠ 15 ∧ (crc32c (line i)).toNat ≠ fieldAt b (80 + 4 * i) 4 then 15 else t
  { unit := { space := .tier2, addr := 0 }, va := fieldAt b 0 8, sure := true
    cells := (b.drop 592).zipIdx.filterMap fun e => if e.1 = 0 then none else some (e.2, e.1)
    tags := (List.range 128).filterMap fun i => if tag i = 1 then none else some (i, BitVec.ofNat 4 (tag i))
    mode := fieldAt b 8 1 }

/-- Whether a section holds a reserved value: its kind, the zeros of a granule's body, a slot or a save-path tag of a strand
image (R7, R380, R439, R459). -/
def Placed.reserved (s : State) (kind : Nat) (x : Placed) : Bool :=
  let head := regionRead s kind x.addr 0xC00
  decide (x.kind = 0 ∨ 7 < x.kind) || (x.kind == 1 && fieldAt head 9 7 != 0) || (x.kind == 3 && (imageFault head 512 64).isSome)

/-- The recorded motifs with what the sections of their records and of their strands' images hold (R378, R379, R439). -/
def loadMotifs (s : State) (kind : Nat) (xs : List Placed) (ms : List Motif) : List Motif :=
  let own := xs.filter fun x => x.kind == 2
  let strands := xs.filter fun x => x.kind == 3
  let strand := fun (m : Motif) (e : Strand × Placed) =>
    let head := regionRead s kind e.2.addr 0xC00
    let tags := imageTags head m.header.allot
    e.1.load e.1 tags head (regionRead s kind (e.2.addr + 0xC00) (tags.map tagSize).sum)
  (ms.foldl (fun (a : List Motif × List Placed × List Placed) m =>
    let m1 := match a.2.1.head? with
      | some x => m.loadUnits m fun off n => regionRead s kind (x.addr + off) n
      | none => m
    (a.1 ++ [{ m1 with strands := (m.strands.zip a.2.2).map (strand m) }], a.2.1.drop 1, a.2.2.drop m.strands.length))
    ([], own, strands)).1

/-- The image that a header names, with what the sections of its region hold; the parts that the spec lays no bytes out for are
the chip's own record of it (R439; log entry 9). -/
def imageAt (s : State) (kind addr : Nat) : Option Image :=
  let h := regionRead s kind addr 256
  (s.images.find? fun i => i.cid.toNat == fieldAt h 8 2 && i.vchip == fieldAt h 10 2 && i.cutid == fieldAt h 4 4).map fun i =>
    let xs := sectionsAt s kind addr
    let granules := (xs.filter fun x => x.kind == 1).map fun x => parseGranule (regionRead s kind x.addr 16976)
    { i with kind := kind, addr := addr
             cut := { i.cut with streamed := granules, motifs := loadMotifs s kind xs i.cut.motifs } }

/-- A restore command refused (R423, R459). -/
def refuseRestore (s : State) (vd cause : Nat) : State :=
  updVdev { s with restores := s.restores.filter fun r => r.vd != vd } vd fun v => { v with rststate := 4, rstcause := cause }

/-- Why a command is refused by its own image (R459). -/
def restoreFault (s : State) (vd : Nat) (c : RestoreCmd) : Except Nat Image :=
  let kind := c.imgkind.toNat
  let addr := c.img.toNat
  let h := regionRead s kind addr 256
  if fieldAt h 0 4 ≠ imageMagic then .error 1
  else if fieldAt h 8 2 ≠ (cidOf vd c.ctx.toNat).toNat then .error 2
  else if c.rsv ∨ 1 < kind ∨ c.cutid = 0 ∨ 0xFFFF0000 < c.cutid.toNat ∨ fieldAt h 0x1C 0xE4 ≠ 0 ∨
      (sectionsAt s kind addr).any (·.reserved s kind) then .error 3
  else if fieldAt h 4 4 ≠ c.cutid.toNat then .error 4
  else
    match imageAt s kind addr with
    | none => .error 4
    | some i => if i.cut.rings.any fun e => (ringOf s e.1).owner != some vd then .error 5 else .ok i

/-- The chips that hold the restored job: those of the new cut block (R431, R459). -/
def jobChips (s : State) (r : Restore) : Nat :=
  match cutBlockOf s (cidOf r.vd r.ctx) with
  | some b => b.nchips
  | none => r.image.cut.nchips

/-- RESTORE: a command that passes waits for the others; a job of one chip waits for none (R459). One written while
another of the device waits or runs is ignored (log entry 34). -/
def execRestore (vd : Nat) (c : RestoreCmd) (s : State) : Host.Outcome State Fault Refusal :=
  let v := vdevOf s vd
  if v.rststate = 1 ∨ v.rststate = 2 then .next s
  else
    match restoreFault s vd c with
    | .error cause => .next (refuseRestore s vd cause)
    | .ok i =>
      let r : Restore := { vd := vd, ctx := c.ctx.toNat, cutid := i.cutid, image := i }
      .next (updVdev { s with restores := s.restores ++ [r] } vd fun v =>
        { v with rststate := if jobChips s r ≤ 1 then 2 else 1, rstcause := 0 })

/-- Whether confirmations name chips that complete the set: distinct, other than this one, of one cut, present (R459). -/
def confirmsSet (r : Restore) (chips : List ConfirmOne) : Bool :=
  let names := r.image.vchip :: chips.map (·.vchip)
  decide (names.eraseDups.length = names.length) && chips.all fun x => x.present && x.cutid == r.cutid

/-- RESTORE_CONFIRMATION: what the other chips confirm ends the wait, or shows that the set cannot be completed (R459). -/
def execRestoreConfirmation (vd : Nat) (c : Confirm) (s : State) : Host.Outcome State Fault Refusal :=
  match s.restores.find? fun r => r.vd == vd with
  | none => .next s
  | some r =>
    if (vdevOf s vd).rststate ≠ 1 then .next s
    else if !confirmsSet r c.chips then .next (refuseRestore s vd 4)
    else if c.chips.length + 1 < jobChips s r then .next s
    else .next (updVdev s vd fun v => { v with rststate := 2 })

/-! ## The steps of R460 -/

/-- The store that a virtual address of a job reaches under its new tables, before any frame is formatted (R208, R460). -/
def rawHome (s : State) (cid : Cid) (d : Desc) (va : Nat) : Option PAddr :=
  let vd := cidVd cid
  let pod := decide (va / 2 ^ 56 = 255)
  let a := if pod then va % 2 ^ 44 else va
  match (walkRoot d pod a).bind fun r => (walk1 s none cid pod a r.1 r.2).toOption with
  | none => none
  | some l =>
    if bitAt l.e 10 then none
    else
      match stage2Leaf s none vd (l.at a) with
      | .error _ => none
      | .ok l2 =>
        if (vdevOf s vd).s2on then some (leafSpace (bitAt l2.e 11) (l2.at (l.at a)))
        else some (leafSpace (bitAt l.e 11) (l.at a))

/-- The frame of a restored line in the granule's ECC mode (R219, R460). -/
def frameInMode (s : State) (p : PAddr) (mode : Nat) : State :=
  if p.space = .device ∧ (frameOf s p.addr).mode ≠ mode then formatFrame s (p.addr / 2 ^ 21) mode else s

/-- One recorded line written back under its recorded tag, poison included, over any error that stood there; the granule's
tag becomes the cut's epoch (R286, R444, R460). -/
def restoreLine (s : State) (p : PAddr) (tag : BitVec 4) (bytes : List Byte) (epoch : Nat) : State :=
  let s1 := setSpaceMem { s with latent := s.latent.filter fun e => !(e.1 == p.line) } p.space (writeBytes (spaceMem s p.space) p.addr bytes)
  setGranuleTag (setLineTag s1 p tag) p (BitVec.ofNat 16 epoch)

/-- A recorded granule written back: the frames in its mode first, then its lines (R460). -/
def restoreGranule (cid : Cid) (d : Desc) (epoch : Nat) (s : State) (g : Granule) : State :=
  (List.range 128).foldl (fun s i =>
    match rawHome s cid d (g.va + 128 * i) with
    | none => s
    | some p =>
      let tag := tget 1 g.tags i
      let bytes := if tag = 15 then List.replicate 128 0 else readBytes g.cells (128 * i) 128
      restoreLine (frameInMode s p.line g.mode) p.line tag bytes epoch) s

/-- Identities of the restored motifs: new ones, in the image's order. -/
def renumber (base : Nat) (olds : List Nat) (uid : Nat) : Nat := base + (olds.idxOf uid)

/-- The recorded motifs placed as at launch; one that fits no cluster now waits as a saved one (R381, R460). -/
def placeMotifs (cid : Cid) (s : State) (ms : List Motif) : State :=
  ms.foldl (fun s m =>
    let v : Saved := { slot := 0, motif := m, tags := saveTags m, haltOnRestore := [], recorded := true }
    match chooseRestored s m with
    | some c => updVdev (placeSaved s v c) (cidVd cid) fun x => { x with lastDie := some c.1 }
    | none =>
      let used := (ctxOf s cid).saved.map (·.slot)
      let slot := ((List.range (used.length + 1)).find? fun i => !used.contains i).getD 0
      updCtx s cid fun x => { x with saved := x.saved ++ [{ v with slot := slot }] }) s

/-- The recorded rings, queues and requests put back (R437, R459, R460, R464). -/
def restoreRings (s : State) (c : Cut) : State :=
  c.rings.foldl (fun s e =>
    updRing s e.1 fun r =>
      { r with
        tail := e.2.tail, fetched := e.2.fetched, begun := e.2.begun, completed := e.2.completed, doneList := e.2.doneList
        stopped := false, code := 0, failed := [], enable := true }) s

/-- A packet applied or routed afresh (R450, R460). -/
def applyPacket (s : State) (p : Packet) : State :=
  if !packetLocal s p then forward s p
  else
    match p.op.toNat with
    | 1 => applyRdreq p s
    | 2 => applyRdrsp p s
    | 3 => applyPut p s
    | 4 => applyPutack p s
    | 5 => applyAtom p 6 s
    | 6 => applyAtomrsp p s
    | 7 => applyAtom p 4 s
    | _ => s

/-- A packet that leaves the receive buffer where it waited (R413, R448, R449). -/
def admitPacket (s : State) (link : Nat) (p : Packet) : State :=
  if p.op = 8 then takeMarker s link p
  else if p.op = 9 then takeCtrl s p
  else leaveBuffer s link p fun s => applyPacket s p

/-- Whether a packet that waits can be taken, by the packets that came before it and by what it needs itself. -/
def canAdmit (s : State) (before : List (Nat × Packet)) (e : Nat × Packet) : Bool :=
  !mustWait { s with rxHeld := before } e.1 e.2 &&
  (if e.2.op = 8 then !markerWaits s e.1 e.2
   else if e.2.op = 9 then packetLocal s e.2 || hasRoom s e.2
   else packetReady s e.2)

/-- The first packet in the receive buffers that can be taken is taken (R413). -/
def admitFirst (s : State) : State :=
  match s.rxHeld.zipIdx.find? fun x => canAdmit s (s.rxHeld.take x.2) x.1 with
  | none => s
  | some (e, i) => admitPacket { s with rxHeld := s.rxHeld.eraseIdx i } e.1 e.2

/-- Packets that wait in the receive buffers are taken, as long as one can be. -/
def admitAll : Nat → State → State
  | 0, s => s
  | n + 1, s => admitAll n (admitFirst s)

/-- Every packet that waits and can be taken is taken. -/
def admitHeld (s : State) : State := admitAll s.rxHeld.length s

/-- FRAME_FORMAT_COMPLETE: the frame is rewritten and its mode recorded; it waits while a cut is live. What waited for the
frame goes on: sticky writes, and packets in the order in which they came (R219, R444). -/
def execFrameFormatComplete (vd : Nat) (s : State) : Host.Outcome State Fault Refusal :=
  match (vdevOf s vd).fmtBusy with
  | none => .next s
  | some (frame, mode) =>
    if cutLive s vd then .next s
    else
      .next (admitHeld (changeWaits (updVdev (formatFrame s frame mode) vd fun v => { v with fmtBusy := none }) some))

/-- A chip put back from its image: memory, motifs and strands, queues, requests and rings, the channel logs; then the
packets that waited are let in. The cut state changes, which sets CUT in the restored strands (R120, R458 to R460, R463,
R464). -/
def restoreChip (s : State) (r : Restore) : State :=
  let cid := cidOf r.vd r.ctx
  match descOfCtx s cid with
  | none => s
  | some d =>
    let c := r.image.cut
    let epoch := epochOf r.cutid
    let s1 := c.streamed.foldl (restoreGranule cid d epoch) s
    let s2 := c.sticky.foldl (fun s h => writeSticky s (ghostMotif cid d (portDie s r.vd) frontCluster) h.1 h.2) s1
    let olds := (c.motifs ++ c.saved.map (·.motif)).map (·.uid)
    let fresh := fun (m : Motif) => { m with uid := renumber s.nextUid olds m.uid, desc := d }
    -- the identities of motifs that had retired all become the one after those of the motifs
    let s3 := updCtx { s2 with nextUid := s.nextUid + olds.length + 1 } cid fun x =>
      { x with saved := c.saved.map fun v => { v.mapMotif fresh with recorded := true } }
    let done : Cut :=
      { c with state := 4, live := false, freed := true, preserved := [], streamed := [], motifs := [], saved := [], logs := [] }
    let s4 := updJob s3 cid fun j =>
      { j with epoch := epoch, latest := r.cutid, colours := ([none, none] : List (Option Cut)).set (r.cutid % 2) (some done) }
    let s5 := placeMotifs cid s4 (c.motifs.map fresh)
    let top := c.requests.foldl (fun n q => max n (q.rtag + 1)) s5.nextRtag
    let s6 := { s5 with
      records := s5.records ++ c.records.map fun r => { r with writers := r.writers.map (renumber s.nextUid olds) }
      requests := s5.requests ++ c.requests.map fun q => { q with uid := renumber s.nextUid olds q.uid, sent := s.clock }
      nextRtag := top % 2 ^ 32 }
    let s7 := restoreRings s6 c
    let s8 := c.logs.foldl (fun s e => applyPacket s e.2) s7
    admitHeld (setEvent { s8 with restores := s8.restores.filter fun x => x.vd != r.vd } cid 2)

/-- RESTORE_CHIP (R460, R463). -/
def execRestoreChip (vd : Nat) (s : State) : Host.Outcome State Fault Refusal :=
  match s.restores.find? fun r => r.vd == vd with
  | none => .next s
  | some r =>
    if (vdevOf s vd).rststate ≠ 2 then .next s
    else .next (updVdev (restoreChip s r) vd fun v => { v with rststate := 3 })

end Sys2Proof.Machine
end

