-- ==== Sys2Proof/Machine/Registers.lean ====
section
/-! DEFINITION. Resets, firmware, attestation, heat, the feature record and the registers of BAR0 (R191, R225, R421 to
R430). -/

namespace Sys2Proof.Machine

/-! ## Firmware -/

/-- Whether all four dies find what an external algorithm tells them (R427). -/
def allDies (bs : List Bool) : Bool := bs.length == 4 && bs.all id

/-- Whether an image is accepted: every die accepts it (R427). -/
def imageAccepted (s : State) (v : FwVerdict) : Bool :=
  v.magic == 0x4D57464B && v.rsvZero && decide (v.slot.toNat < 4) && !s.revoked.getLsbD v.slot.toNat &&
  v.keyDigest == s.digests.getD v.slot.toNat 0 && decide (s.svnFloor ≤ v.svn.toNat) &&
  decide (v.length.toNat % 4 = 0 ∧ v.length.toNat ≤ 2 ^ 24) && allDies v.ecdsaOk && allDies v.lmsOk && allDies v.bodyOk

/-! ## Resets -/

/-- The links after a reset: trained anew, or with their training kept and their queues empty (R426). -/
def linksAfter (s : State) (keep : Bool) : Table Link :=
  if keep then
    s.links.map fun e => (e.1, { e.2 with out := [], replay := [], moved := [] })
  else []

/-- The package after a reset: every register and memory of its own as at reset; fuses, the LMS index, retired
clusters, and what lies outside it stay (R392, R426 to R428; log entry 35). -/
def packageReset (s : State) (keepTraining : Bool) : State :=
  let gone := (s.clusters.filter fun e => e.2.absent).map fun e => (e.1, { Cluster.reset with absent := true })
  { State.reset with
    wallBase := wallNow s
    hostMem := s.hostMem, hostBus := s.hostBus, tier2 := s.tier2, tier2Tags := s.tier2Tags
    tier2Granules := s.tier2Granules, images := s.images, clusters := gone
    links := (linksAfter s keepTraining).filter fun e => e.2 != Link.reset
    revoked := s.revoked, digests := s.digests, svnFloor := s.svnFloor, svn := s.svn, lmsIndex := s.lmsIndex
    dies := s.dies.map fun u => { u with testing := none }
    unitLanes := s.unitLanes, out := s.out, agenda := s.agenda, weak := s.weak, free := s.free
    heldDies := s.heldDies, hotDies := s.hotDies }

/-- POWER_ON_RESET: power-on or PERST# of port 0; firmware is verified again, and an image that any die rejects leaves
the package in recovery mode (R426, R427). -/
def execPowerOnReset (v : FwVerdict) (s : State) : Host.Outcome State Fault Refusal :=
  let s1 := packageReset s false
  .next (if imageAccepted s v then { s1 with svn := v.svn.toNat, recovery := false } else { s1 with recovery := true })

/-- The contexts of a device that hold anything. -/
def contextsOf (s : State) (vd : Nat) : List Cid :=
  ((s.motifs.map (·.cid)) ++ (s.contexts.map (·.cid)) ++ (s.records.map (·.cid)) ++ (s.jobs.map (·.cid)) ++
    ((s.rings.filter fun e => e.2.owner == some vd && e.2.enable).map fun e => cidOf vd e.2.ctx)).eraseDups.filter
    fun c => cidVd c == vd

/-- A function-level reset of a virtual device: its contexts take a context error; rings, queues and share block are
cleared (R365, R426). -/
def resetDevice (s : State) (vd : Nat) : State :=
  let s1 := (contextsOf s vd).foldl (fun s c => if (ctxOf s c).stopped then s else stopContext s c) s
  let mine := (s1.rings.filter fun e => e.2.owner == some vd).map (·.1)
  let s2 := { s1 with
    rings := (s1.rings.map fun e => (e.1, if e.2.owner = some vd then { Ring.reset with owner := some vd } else e.2))
    hoop := s1.hoop.filter fun r => !mine.contains r
    records := s1.records.filter fun r => cidVd r.cid != vd
    faults := s1.faults.filter fun f => cidVd f.cid != vd || f.stage2 }
  -- a slot that frees has the hoop evaluated at once (R186)
  updVdev (if s1.hoop.any mine.contains then evaluateHoop s2 else s2) vd fun v =>
    { v with
      errq := QBlock.reset, faultq := QBlock.reset, share := Share.reset, newShare := none, staging := [], bucket := 0
      charge := 0, hold := false, degraded := false, empty := 0, lent := 0, emptyNow := 0, lentNow := 0, lastDie := none
      migrating := 0 }

/-- VF_FLR: the device's slice of the coherent window is zeroed as well (R426). -/
def execVfFlr (vd : Nat) (s : State) : Host.Outcome State Fault Refusal :=
  let s1 := resetDevice s vd
  .next (match (vdevOf s vd).winslice with
    | some i => { s1 with window := tclear (i * 8192) 8192 s1.window }
    | none => s1)

/-- PERST_PORT1: the functions enabled under port 1 are reset; the coherent window is kept (R426; log entry 36). -/
def execPerstPort1 (s : State) : Host.Outcome State Fault Refusal :=
  .next (((s.vdevs.filter fun e => e.2.port == 1 && e.2.enabled).map (·.1)).foldl resetDevice s)

/-- PF_FLR: the package but for link training and the firmware that runs (R426). -/
def execPfFlr (s : State) : Host.Outcome State Fault Refusal := .next { packageReset s true with recovery := s.recovery }

/-- The header of the image that the recovery registers name, in the physical function's DMA space; what the external
algorithms say of it is the event's (R424, R427). -/
def recoveryImage (s : State) (v : FwVerdict) : FwVerdict :=
  let bytes := fun (off n : Nat) => readBytes s.hostBus (busKey 32 (s.recoveryAddr.toNat + off)) n
  let zero := fun (e : Nat × Nat) => (bytes e.1 (e.2 - e.1)).all (· == 0)
  { v with
    magic := BitVec.ofNat 32 (leNat (bytes 0 4)), svn := BitVec.ofNat 32 (leNat (bytes 4 4))
    length := BitVec.ofNat 32 (leNat (bytes 8 4)), slot := BitVec.ofNat 8 (leNat (bytes 0xC 1))
    rsvZero := [(0xD, 0x10), (0xA1, 0xC0), (0xF8, 0x100), (0x84C, 0x1000)].all zero }

/-- RECOVERY_LOAD: in recovery mode the image that the registers name is verified; an accepted one runs (R424, R427). -/
def execRecoveryLoad (v : FwVerdict) (s : State) : Host.Outcome State Fault Refusal :=
  let image := recoveryImage s v
  .next (if !s.recovery then s
    else if imageAccepted s image && decide (0x1000 + image.length.toNat ≤ s.recoveryLen.toNat) then
      { s with recovery := false, recoveryStatus := 2, svn := image.svn.toNat }
    else { s with recoveryStatus := 4 })

/-- FLOOR_ADVANCE: the value 1 after an accepted boot; the fused floor never falls (R424, R427). -/
def execFloorAdvance (v : BitVec 32) (s : State) : Host.Outcome State Fault Refusal :=
  .next (if v = 1 ∧ !s.recovery then { s with svnFloor := max s.svnFloor s.svn } else s)

/-! ## Attestation -/

/-- SR-IOV as the hypervisor enables it in the two ports' configuration spaces: virtual function n of port 0 is device n − 1,
of port 1 device 32 − n (R383, R418; log entry 65: no instruction writes it). -/
def enableFunctions (numVfs0 numVfs1 : Nat) (s : State) : State :=
  (List.range 32).foldl (fun s vd => updVdev s vd fun v =>
    { v with enabled := decide (vd < numVfs0 ∨ 32 ≤ vd + numVfs1), port := if vd < numVfs0 then 0 else 1 }) s

/-- GET_MEASUREMENTS: signed with ECDSA P-384, algorithm 0 of the free signatures (R428; log entry 8). -/
def execGetMeasurements (nonce : Nat) (s : State) : Host.Outcome State Fault Refusal :=
  .next (send s (.measurement (Config.signature 0 0 nonce)))

/-- LMS_SIGNATURE_REQUEST: the index advances before the signature is released; after 2^20 the key is exhausted (R428). -/
def execLmsSignatureRequest (nonce : Nat) (s : State) : Host.Outcome State Fault Refusal :=
  .next (if 2 ^ 20 ≤ s.lmsIndex then send s (.lms none)
    else send { s with lmsIndex := s.lmsIndex + 1 } (.lms (some (Config.signature 1 s.lmsIndex nonce))))

/-! ## Heat -/

/-- THERMAL_EVENT: at 95 degrees a die is throttled, at 105 the package is held in reset until the die has cooled below
95 (R430). -/
def execThermalEvent (die : Nat) (celsius : Int) (s : State) : Host.Outcome State Fault Refusal :=
  let without := fun (l : List Nat) => l.filter fun d => d != die
  if celsius < 95 then .next { s with heldDies := without s.heldDies, hotDies := without s.hotDies }
  else
    let s1 := { s with hotDies := without s.hotDies ++ [die] }
    if celsius < 105 then .next s1
    else .next (send { packageReset s1 false with heldDies := without s.heldDies ++ [die] } (.held die))

/-! ## The feature record -/

/-- Whether a device has a resident motif or a begun record (R421). -/
def deviceBusy (s : State) (vd : Nat) : Bool :=
  (s.motifs.any fun m => cidVd m.cid == vd) || s.records.any fun r => cidVd r.cid == vd && r.begun && !r.done

/-- FEATURE_ACCEPT: written ∧ published ∧ allowed (R421). -/
def execFeatureAccept (func : Func) (written : BitVec 256) (s : State) : Host.Outcome State Fault Refusal :=
  .next (if s.recovery then s
    else
      match func with
      | .pf => { s with pfAccepted := written &&& s.published &&& s.pfAllowed }
      | .vf vd =>
        if deviceBusy s vd then s
        else updVdev s vd fun v => { v with accepted := written &&& s.published &&& v.allowed })

/-! ## Queue blocks -/

/-- A queue block of the register maps. -/
def blockOf (s : State) : QueueRef → QBlock
  | .errq vd => (vdevOf s vd).errq
  | .faultq vd => (vdevOf s vd).faultq
  | .s2faultq => s.s2faultq
  | .syslog => s.syslog

/-- The state with a queue block changed. -/
def setBlock (s : State) (q : QueueRef) (b : QBlock) : State :=
  match q with
  | .errq vd => updVdev s vd fun v => { v with errq := b }
  | .faultq vd => updVdev s vd fun v => { v with faultq := b }
  | .s2faultq => { s with s2faultq := b }
  | .syslog => { s with syslog := b }

/-- QUEUE_ENABLE: a write of ctl; enabling zeroes head, tail and lost; n outside 4 to 16 is not taken (R7, R423; log
entry 37). -/
def execQueueEnable (q : QueueRef) (ctl : BitVec 32) (s : State) : Host.Outcome State Fault Refusal :=
  let b := blockOf s q
  let n := ctl.toNat % 32
  let clean := ctl &&& 0x31F
  if s.recovery ∨ n < 4 ∨ 16 < n then .next s
  else
    let b1 := if ctl.getLsbD 8 && !b.enabled then { b with ctl := clean, head := 0, tail := 0, lost := 0, lostSince := 0 }
              else { b with ctl := clean }
    .next (reportWaiting (setBlock s q b1))

/-- QUEUE_HEAD_WRITE: a head beyond the tail is ignored; faults that waited for space are reported (R369, R423). -/
def execQueueHeadWrite (q : QueueRef) (head : BitVec 32) (s : State) : Host.Outcome State Fault Refusal :=
  let b := blockOf s q
  if s.recovery ∨ (b.tail - b.head).toNat < (head - b.head).toNat then .next s
  else .next (reportWaiting (setBlock s q { b with head := head }))

/-! ## Registers of the physical function -/

/-- WINSLICE_WRITE: a slice that another device holds is not assigned (R225, R424). -/
def execWinsliceWrite (vd : Nat) (v : BitVec 32) (s : State) : Host.Outcome State Fault Refusal :=
  let i := v.toNat % 32
  let held := s.vdevs.any fun e => e.1 != vd && e.2.winslice == some i
  if s.recovery ∨ (v.getLsbD 31 ∧ held) then .next s
  else .next (updVdev s vd fun d => { d with winslice := if v.getLsbD 31 then some i else none })

/-- QUADCAP_WRITE: a value below 8 is ignored (R191, R424). -/
def execQuadcapWrite (q : QuadRef) (v : BitVec 8) (s : State) : Host.Outcome State Fault Refusal :=
  if s.recovery ∨ v.toNat < 8 ∨ 4 ≤ q.die ∨ 60 ≤ q.cluster ∨ 4 ≤ q.quad then .next s
  else .next { s with quadcap := tset 32 s.quadcap (clusterKey q.die q.cluster * 4 + q.quad) v }

/-- RINGOWN_WRITE: only while the ring's enable is 0 (R181, R424). -/
def execRingownWrite (ring : Nat) (v : BitVec 8) (s : State) : Host.Outcome State Fault Refusal :=
  if s.recovery ∨ 1024 ≤ ring ∨ (ringOf s ring).enable then .next s
  else .next (updRing s ring fun r => { r with owner := if v.getLsbD 7 then some (v.toNat % 32) else none })

/-- INVCOUNT_READ: the read gives the register and clears its bit 31 (R423, R424). -/
def execInvcountRead (func : Func) (vd : Nat) (s : State) : Host.Outcome State Fault Refusal :=
  if s.recovery then .next (send s (.registerRead func vd 0))
  else
    match func with
    | .pf =>
      .next (updVdev (send s (.registerRead func vd (vdevOf s vd).s2invcount)) vd fun v =>
        { v with s2invcount := v.s2invcount &&& 0x7FFFFFFF })
    | .vf _ =>
      .next (updVdev (send s (.registerRead func vd (vdevOf s vd).invcount)) vd fun v =>
        { v with invcount := v.invcount &&& 0x7FFFFFFF })

/-- CTXSTAT_READ: the read gives busy and error and clears the error (R423, R425). -/
def execCtxstatRead (vd : Nat) (s : State) : Host.Outcome State Fault Refusal :=
  let v := (ctxBusy s vd).toNat + 2 * (vdevOf s vd).ctxError.toNat
  .next (updVdev (send s (.registerRead (.vf vd) vd (BitVec.ofNat 32 v))) vd fun v => { v with ctxError := false })

/-! ## Registers without a behaviour of their own -/

/-- A register of some bytes with an aligned write put into it (R423). -/
def mergeReg (old width at' : Nat) (size v : Nat) : Nat := leNat (putBytes (leBytes width old) at' (leBytes size v))

/-- The bytes of a list with a write put into it. -/
def mergeBytes (old : List Byte) (n at' size v : Nat) : List Byte :=
  putBytes (old.take n ++ List.replicate (n - old.length) 0) at' (leBytes size v)

/-- The two-byte entries that a write of some bytes carries; reserved bits read 0 (R7, R414). -/
def routeEntries (first size v : Nat) : List (Nat × BitVec 16) :=
  (List.range (size / 2)).map fun i => (first + i, BitVec.ofNat 16 (v / 2 ^ (16 * i)) &&& 0x9FFF)

/-- Whether a route entry says "this chip" (R414). -/
def saysOwn (e : BitVec 16) : Bool := e.getLsbD 15 && e.extractLsb' 0 6 == 63

/-- Route entries written two bytes at a time; a valid entry that says "this chip" also gives the package its number in
the device's job (R414, R417, R423, log entry 15). -/
def writeRoute (s : State) (vd first size v : Nat) : State :=
  updVdev s vd fun d =>
    (routeEntries first size v).foldl (fun d e =>
      { d with route := tset 0 d.route e.1 e.2, chip := if saysOwn e.2 then e.1 else d.chip }) d

/-- The base of a queue block, written while the block is disabled: a multiple of 4096 (R423). -/
def writeQueueBase (s : State) (q : QueueRef) (at' size v : Nat) : State :=
  let b := blockOf s q
  if b.enabled then s
  else setBlock s q { b with base := BitVec.ofNat 64 (mergeReg b.base.toNat 8 at' size v / 4096 * 4096) }

/-- A write to a ring's descriptor while the ring is the device's and not enabled; setting the enable bit is a step of
its own (R181, R423). -/
def writeRing (s : State) (vd ring at' size v : Nat) : State :=
  let r := ringOf s ring
  if r.owner ≠ some vd ∨ r.enable then s
  else
    let b := putBytes (leBytes 8 r.base.toNat ++ leBytes 1 r.logsize ++ leBytes 1 r.prio ++ leBytes 2 r.ctx ++ leBytes 20 0)
      at' (leBytes size v)
    updRing s ring fun r =>
      { r with base := BitVec.ofNat 64 (fieldAt b 0 8), logsize := fieldAt b 8 1, prio := fieldAt b 9 1, ctx := fieldAt b 10 2 }

/-- A write to a register of a virtual function (R423). -/
def writeVf (s : State) (vd off size v : Nat) : State :=
  if 0x10 ≤ off ∧ off < 0x18 then
    updVdev s vd fun d => { d with cutbase := mergeReg d.cutbase 8 (off - 0x10) size v / 64 * 64 }
  else if 0x100 ≤ off ∧ off < 0x108 then writeQueueBase s (.errq vd) (off - 0x100) size v
  else if 0x120 ≤ off ∧ off < 0x128 then writeQueueBase s (.faultq vd) (off - 0x120) size v
  else if 0x310 ≤ off ∧ off < 0x318 then
    updVdev s vd fun d => { d with ctxStage := mergeReg d.ctxStage 8 (off - 0x310) size v }
  else if off = 0x318 then
    -- a command that R425 knows is a step of its own; a reserved op only sets ctxstat[1]
    let op := bitsAt (vdevOf s vd).ctxStage 16 8
    if 1 ≤ op ∧ op ≤ 4 then s else updVdev s vd fun d => { d with ctxError := true }
  else if 0xF0000 ≤ off ∧ off < 0xF8000 then
    updVdev s vd fun d =>
      let at4 := (off - 0xF0000) / 4
      let d1 := { d with msix := tset 0 d.msix at4 (BitVec.ofNat 32 v) }
      if size = 8 then { d1 with msix := tset 0 d1.msix (at4 + 1) (BitVec.ofNat 32 (v / 2 ^ 32)) } else d1
  else if 0x330 ≤ off ∧ off < 0x338 then
    updVdev s vd fun d => { d with fmtaddr := mergeReg d.fmtaddr 8 (off - 0x330) size v }
  else if 0x10000 ≤ off ∧ off < 0x18000 then writeRing s vd ((off - 0x10000) / 32) ((off - 0x10000) % 32) size v
  else if 0x20000 ≤ off ∧ off < 0x22000 then writeRoute s vd ((off - 0x20000) / 2) size v
  else s

/-- A write to the block of hypervisor registers of a device (R424). -/
def writeDevice (s : State) (vd off size v : Nat) : State :=
  if off < 0x40 then updVdev s vd fun d => { d with staging := mergeBytes d.staging 64 off size v }
  else if 0x40 ≤ off ∧ off < 0x48 then
    updVdev s vd fun d => { d with vroot := mergeReg d.vroot 8 (off - 0x40) size v / 4096 * 4096 }
  else if off = 0x48 then
    let s1 := updVdev s vd fun d => { d with s2on := bitAt v 0 }
    if size = 8 then updVdev s1 vd fun d => { d with waymask := BitVec.ofNat 16 (v / 2 ^ 32) } else s1
  else if 0x50 ≤ off ∧ off < 0x58 then
    updVdev s vd fun d => { d with ctxbase := mergeReg d.ctxbase 8 (off - 0x50) size v / 4096 * 4096 }
  else if off = 0x58 then
    let n := v % 2 ^ 32
    if 1 ≤ n ∧ n ≤ 2048 then updVdev s vd fun d => { d with ctxcount := n } else s
  else if 0x68 ≤ off ∧ off < 0x70 then
    updVdev s vd fun d => { d with wcoff := BitVec.ofNat 64 (mergeReg d.wcoff.toNat 8 (off - 0x68) size v) }
  else if 0x80 ≤ off ∧ off < 0xA0 then
    updVdev s vd fun d => { d with allowed := BitVec.ofNat 256 (mergeReg d.allowed.toNat 32 (off - 0x80) size v) }
  else s

/-- A write to a package register; in recovery mode only the recovery registers take one (R424). -/
def writePf (s : State) (off size v : Nat) : State :=
  if s.recovery then
    if 0x200000 ≤ off ∧ off < 0x200008 then
      { s with recoveryAddr := BitVec.ofNat 64 (mergeReg s.recoveryAddr.toNat 8 (off - 0x200000) size v) }
    else if 0x200008 ≤ off ∧ off < 0x200010 then
      { s with recoveryLen := BitVec.ofNat 64 (mergeReg s.recoveryLen.toNat 8 (off - 0x200008) size v) }
    else s
  else if off = 0x8 then { s with ifst := BitVec.ofNat 32 (v % 65536) }
  else if 0x100 ≤ off ∧ off < 0x108 then writeQueueBase s .s2faultq (off - 0x100) size v
  else if 0x120 ≤ off ∧ off < 0x128 then writeQueueBase s .syslog (off - 0x120) size v
  else if 0x1020 ≤ off ∧ off < 0x1040 then
    { s with pfAllowed := BitVec.ofNat 256 (mergeReg s.pfAllowed.toNat 32 (off - 0x1020) size v) }
  else if 0x20000 ≤ off ∧ off < 0x40000 then writeDevice s ((off - 0x20000) / 4096) ((off - 0x20000) % 4096) size v
  else if 0x100000 ≤ off ∧ off < 0x140000 then
    writeRoute s ((off - 0x100000) / 8192) ((off - 0x100000) % 8192 / 2) size v
  else s

/-- REGISTER_WRITE: aligned quantities of 4 or 8 bytes; a reserved offset, and a register whose write is a step of its
own, are not changed by this one (R7, R423, R424; log entry 38). -/
def execRegisterWrite (func : Func) (offset : Nat) (size : Nat) (v : BitVec 64) (s : State) :
    Host.Outcome State Fault Refusal :=
  if !(size = 4 ∨ size = 8) ∨ offset % size ≠ 0 then .next s
  else
    let n := v.toNat % 2 ^ (8 * size)
    match func with
    | .pf => .next (writePf s offset size n)
    | .vf vd => .next (if s.recovery then s else writeVf s vd offset size n)

end Sys2Proof.Machine
end

