-- ==== Sys2Proof/Machine/ReadBack.lean ====
section
/-! DEFINITION. What the host reads back: the notify pages, the feature records, and the register maps of a virtual function
and of the physical one, in the 4-byte quantities of which every register is made (R182, R419, R421, R423, R424). The two
reads that change a register are steps of their own (INVCOUNT_READ, CTXSTAT_READ). -/

namespace Sys2Proof.Machine

/-- The 4 bytes of a value that begin at a byte of it. -/
def wordAt (v i : Nat) : Nat := v / 2 ^ (8 * i) % 2 ^ 32

/-- The word of a queue block at an offset of it (R423). -/
def queueWord (b : QBlock) (off : Nat) : Nat :=
  if off < 8 then wordAt b.base.toNat off
  else if off = 0x08 then b.ctl.toNat
  else if off = 0x0C then b.head.toNat
  else if off = 0x10 then b.tail.toNat
  else if off = 0x14 then b.lost.toNat
  else 0

/-- The word of a feature record at an offset of it, from the allowed and the accepted vector (R395, R421). -/
def featureWord (s : State) (allowed accepted : BitVec 256) (off : Nat) : Nat :=
  if off < 0x20 then wordAt s.published.toNat off
  else if off < 0x40 then wordAt allowed.toNat (off - 0x20)
  else if off < 0x60 then wordAt accepted.toNat (off - 0x40)
  else if off = 0x60 then Config.part.toNat
  else if off = 0x64 then Config.stepping.toNat
  else if off = 0x68 then 1400000
  else if 0x70 ≤ off ∧ off < 0xAC then s.weights.getD ((off - 0x70) / 4) 0
  else 0

/-- The word of a ring's descriptor at an offset of it; the ring of another device reads 0 (R181, R423). -/
def ringWord (s : State) (vd ring off : Nat) : Nat :=
  let r := ringOf s ring
  if r.owner ≠ some vd then 0
  else if off < 8 then wordAt r.base.toNat off
  else if off = 8 then r.logsize + r.prio * 2 ^ 8 + r.ctx * 2 ^ 16
  else if off = 0xC then r.enable.toNat
  else 0

/-- Two entries of a device's route table (R414). -/
def routeWord (s : State) (vd first : Nat) : Nat :=
  (tget 0 (vdevOf s vd).route first).toNat + (tget 0 (vdevOf s vd).route (first + 1)).toNat * 2 ^ 16

/-- The word at an aligned offset of a virtual function's BAR0; a reserved offset reads 0, and in recovery mode every offset
does (R423, R424). -/
def vfWord (s : State) (vd off : Nat) : Nat :=
  let v := vdevOf s vd
  if s.recovery then 0
  else if off = 0 then vd + v.port * 2 ^ 5
  else if 0x08 ≤ off ∧ off < 0x10 then wordAt v.ctxbase (off - 0x08)
  else if 0x10 ≤ off ∧ off < 0x18 then wordAt v.cutbase (off - 0x10)
  else if off = 0x18 then v.ctxcount
  else if 0x100 ≤ off ∧ off < 0x120 then queueWord v.errq (off - 0x100)
  else if 0x120 ≤ off ∧ off < 0x140 then queueWord v.faultq (off - 0x120)
  else if off = 0x210 then v.invcount.toNat
  else if off = 0x320 then (ctxBusy s vd).toNat + 2 * v.ctxError.toNat
  else if 0x330 ≤ off ∧ off < 0x338 then wordAt v.fmtaddr (off - 0x330)
  else if off = 0x340 then v.fmtBusy.isSome.toNat + 2 * v.fmtError.toNat
  else if off = 0x440 then v.rststate + v.rstcause * 2 ^ 8
  else if 0x1000 ≤ off ∧ off < 0x1100 then featureWord s v.allowed v.accepted (off - 0x1000)
  else if 0x10000 ≤ off ∧ off < 0x18000 then ringWord s vd ((off - 0x10000) / 32) ((off - 0x10000) % 32)
  else if 0x20000 ≤ off ∧ off < 0x22000 then routeWord s vd ((off - 0x20000) / 2)
  else if 0xF0000 ≤ off ∧ off < 0xF8000 then (tget 0 v.msix ((off - 0xF0000) / 4)).toNat
  else 0

/-- The word at an aligned offset of the hypervisor's block of a device (R424). -/
def deviceWord (s : State) (vd off : Nat) : Nat :=
  let v := vdevOf s vd
  if off < 0x40 then fieldAt (v.staging ++ List.replicate (64 - v.staging.length) 0) off 4
  else if 0x40 ≤ off ∧ off < 0x48 then wordAt v.vroot (off - 0x40)
  else if off = 0x48 then v.s2on.toNat
  else if off = 0x4C then v.waymask.toNat
  else if 0x50 ≤ off ∧ off < 0x58 then wordAt v.ctxbase (off - 0x50)
  else if off = 0x58 then v.ctxcount
  else if off = 0x60 then (match v.winslice with
    | some i => i + 2 ^ 31
    | none => 0)
  else if 0x68 ≤ off ∧ off < 0x70 then wordAt v.wcoff.toNat (off - 0x68)
  else if 0x80 ≤ off ∧ off < 0xA0 then wordAt v.allowed.toNat (off - 0x80)
  else if off = 0xD0 then v.s2invcount.toNat
  else if off = 0x100 then (quiescent s vd).toNat
  else 0

/-- The 4 cap bytes of a cluster's quadrants (R191, R424). -/
def quadcapWord (s : State) (die k : Nat) : Nat :=
  leNat ((List.range 4).map fun q => tget 32 s.quadcap (clusterKey die k * 4 + q))

/-- The 4 owner bytes of rings from one on (R181, R424). -/
def ringownWord (s : State) (first : Nat) : Nat :=
  leNat ((List.range 4).map fun i => match (ringOf s (first + i)).owner with
    | some vd => BitVec.ofNat 8 (vd + 0x80)
    | none => 0)

/-- The word at an aligned offset of the physical function's BAR0; in recovery mode only the recovery registers read
(R424). A load and verify is one step, so that its busy bit is never seen set (R427). -/
def pfWord (s : State) (off : Nat) : Nat :=
  if 0x200000 ≤ off ∧ off < 0x200020 then
    if !s.recovery then 0
    else if off < 0x200008 then wordAt s.recoveryAddr.toNat (off - 0x200000)
    else if off < 0x200010 then wordAt s.recoveryLen.toNat (off - 0x200008)
    else if off = 0x200018 then s.recoveryStatus.toNat
    else 0
  else if s.recovery then 0
  else if off = 0 then s.commit.toNat
  else if off = 8 then s.ifst.toNat
  else if 0x100 ≤ off ∧ off < 0x120 then queueWord s.s2faultq (off - 0x100)
  else if 0x120 ≤ off ∧ off < 0x140 then queueWord s.syslog (off - 0x120)
  else if 0x1000 ≤ off ∧ off < 0x1100 then featureWord s s.pfAllowed s.pfAccepted (off - 0x1000)
  else if 0x4000 ≤ off ∧ off < 0x43C0 then quadcapWord s ((off - 0x4000) / 240) ((off - 0x4000) / 4 % 60)
  else if 0x10000 ≤ off ∧ off < 0x10400 then ringownWord s (off - 0x10000)
  else if 0x20000 ≤ off ∧ off < 0x40000 then deviceWord s ((off - 0x20000) / 4096) (off % 4096)
  else if 0x100000 ≤ off ∧ off < 0x140000 then routeWord s ((off - 0x100000) / 8192) ((off - 0x100000) % 8192 / 2)
  else 0

/-- A read of an aligned register of 4 or 8 bytes of a function's BAR0; a disabled function's reads nothing (R383, R423,
R424). -/
def registerRead (s : State) (func : Func) (off size : Nat) : Nat :=
  let one := match func with
    | .pf => pfWord s
    | .vf vd => if (vdevOf s vd).enabled then vfWord s vd else fun _ => 0
  if size = 8 then one off + one (off + 4) * 2 ^ 32 else one off

/-- The 8 bytes at an offset of a ring's notify page (R182): a virtual function sees the pages of its own rings, and the others
read 0 (R419). -/
def notifyRead (s : State) (func : Func) (ring off : Nat) : Nat :=
  let r := ringOf s ring
  let seen := match func with
    | .pf => true
    | .vf vd => r.owner == some vd && (vdevOf s vd).enabled
  if !seen || s.recovery then 0
  else if off = 0x000 then r.tail
  else if off = 0x008 then r.fetched
  else if off = 0x010 then r.completed
  else if off = 0x018 then r.stopped.toNat + 2 * (s.hoop.contains ring).toNat + r.code * 2 ^ 8
  else 0

end Sys2Proof.Machine
end

