-- ==== Sys2Proof/Machine/Sync.lean ====
section
/-! DEFINITION. Numbered barriers, barrier objects, timeline waits and the pattern-queue instructions (R172 to R180,
R315). -/

namespace Sys2Proof.Machine

/-- A strand's arrival counted on a barrier in its current phase (R173). -/
def Barrier.arrive (b : Barrier) (j cnt : Nat) : Barrier :=
  { b with arrivals := b.arrivals + 1, expected := some cnt, marked := b.marked ++ [j] }

/-- BAR: one arrival per strand and phase; the sync form waits for the phase to change, and a slot that the end of its
phase has released goes on (R173, R174). A barrier that the header does not mark has trapped before (`producerStop`). -/
def execBar (p : Option Pfx) (w : FmtB) (s : State) : Host.Outcome State Fault Refusal :=
  let i := Instr.bar p w
  runStrand i (fun q s =>
    let n := (w.imm.extractLsb' 0 4).toNat
    let sync := !w.imm.getLsbD 4
    let m := q.m
    if q.x.released = some n then
      .ok (l1Acquire (updStrand s m.uid q.t.index fun t => updSlot t q.slot fun x => { x with released := none }) m
        q.t.index false)
    else
      let every := w.a == 96
      let v := q.read w.a 1 0
      if !every && (decide (v < 1) || decide (33 < v)) then .error (opTrap w.a 1)
      else
        let cnt := if every then 0 else v
        let b := tget Barrier.reset m.barriers n
        if b.marked.contains q.t.index then
          if sync then .error (.block (.barrier n) s) else .ok s
        else if b.expected.isSome && b.expected != some cnt then .error (opTrap w.a 1)
        else
          let s0 := releaseStrand s m.uid q.t.index
          let s1 := updMotif s0 m.uid fun m =>
            checkBarrier { m with barriers := tset Barrier.reset m.barriers n (b.arrive q.t.index cnt) } n
          let done := barrierComplete m (b.arrive q.t.index cnt)
          if sync && !done then .error (.block (.barrier n) s1)
          else .ok (if sync then l1Acquire s1 m q.t.index false else s1)) s

/-- The checks of a barrier object's offset: the alignment trap, then the window fault (R175, R196). -/
def objectStop (q : Iss) (off : Nat) : Option Stop :=
  if off % 16 ≠ 0 then some (alignTrap off)
  else if q.m.header.scratch * 1024 < off + 16 then some (.ctx 19 9 (0x00FFFFFF00000000 + off))
  else none

/-- BOINIT: the object is written and the strands it recorded are woken (R176, R466). -/
def execBoinit (p : Option Pfx) (w : FmtA) (s : State) : Host.Outcome State Fault Refusal :=
  runStrand (.boinit p w) (fun q s =>
    let off := q.read w.a 1 0
    let b := q.read w.b 1 0
    if b = 0 ∨ 2 ^ 31 < b then .error (opTrap w.b 2)
    else
      match objectStop q off with
      | some e => .error e
      | none =>
        let waiters := fieldAt (readBytes q.m.scratch off 16) 12 4
        .ok (updMotif s q.m.uid fun m => { m with
          scratch := writeBytes m.scratch off (leBytes 4 0 ++ leBytes 4 b ++ leBytes 8 0)
          strands := m.strands.map fun t =>
            if bitAt waiters t.index then wakeSlots (fun x => x == .object off) t else t })) s

/-- BOARR: an arrival on the object; d receives the phase before it (R176, R177, R466). -/
def execBoarr (p : Option Pfx) (w : FmtA) (s : State) : Host.Outcome State Fault Refusal :=
  runStrand (.boarr p w) (fun q s =>
    let off := q.read w.a 1 0
    let n := if w.b = 96 then 1 else q.read w.b 1 0
    if n = 0 then .error (opTrap w.b 2)
    else
      match objectStop q off with
      | some e => .error e
      | none =>
        let s0 := releaseStrand s q.m.uid q.t.index
        match motifOf s0 q.m.uid with
        | none => .ok s0
        | some m =>
          match objectArrive m off n with
          | (_, none) => .error (opTrap w.a 1)
          | (m', some phase) =>
            match q.t.setScalars q.x.members (scalarNo w.d) [phase] with
            | none => .error (opTrap w.d 0)
            | some t =>
              let set := fun (x : Strand) => { x with sregs := t.sregs, mask := t.mask }
              .ok (updStrand (updMotif s0 q.m.uid fun _ => m') q.m.uid q.t.index set)) s

/-- BOWAIT: the test and the recording are one step (R176, R177). -/
def execBowait (p : Option Pfx) (w : FmtA) (s : State) : Host.Outcome State Fault Refusal :=
  runStrand (.bowait p w) (fun q s =>
    let off := q.read w.a 1 0
    match objectStop q off with
    | some e => .error e
    | none =>
      let o := readBytes q.m.scratch off 16
      if fieldAt o 8 4 ≠ q.read w.b 1 0 then .ok (l1Acquire s q.m q.t.index false)
      else
        let waiters := fieldAt o 12 4 ||| 2 ^ q.t.index
        .error (.block (.object off)
          (updMotif s q.m.uid fun m => { m with scratch := writeBytes m.scratch (off + 12) (leBytes 4 waiters) }))) s

/-- TLWAIT: a blocking wait until the counter's done reaches the value, then an acquire (R245, R315). -/
def execTlwait (p : Option Pfx) (w : FmtA) (s : State) : Host.Outcome State Fault Refusal :=
  runStrand (.tlwait p w) (fun q s =>
    let tl := q.m.timelines.getD w.fn.toNat { issued := 0, done := 0 }
    if q.read w.a 2 0 ≤ tl.done then .ok (l1Acquire s q.m q.t.index false)
    else .error (.block (.timeline w.fn.toNat) s)) s

/-- QCLOSE: the queue of an output register closes, after the strand's earlier writes; waiters look again (R144, R178). -/
def execQclose (p : Option Pfx) (w : FmtA) (s : State) : Host.Outcome State Fault Refusal :=
  runStrand (.qclose p w) (fun q s =>
    if (w.a == 93 || w.a == 95) && qBound q.m.header w.a && (queueOf s q.m w.a).isSome then
      let s1 := updQueue (releaseStrand s q.m.uid q.t.index) q.m w.a fun p => { p with closed := true }
      .ok (wakeQueues (closeQueues s1 q.m.ring q.m.record) q.m)
    else .error (opTrap w.a 1)) s

/-- A queue's state word (R179). -/
def PQueue.stateWord (p : PQueue) : Nat :=
  p.closed.toNat + 2 * p.items.isEmpty.toNat + 4 * (decide (p.capacity ≤ p.items.length)).toNat +
  8 * (decide (p.low < p.items.length)).toNat + 16 * (decide (p.high < p.items.length)).toNat

/-- QSTAT (R179). -/
def execQstat (p : Option Pfx) (w : FmtA) (s : State) : Host.Outcome State Fault Refusal :=
  runStrand (.qstat p w) (fun q s =>
    if w.fn = 0 then withScalars q s w.d 0 1 q.t.lastPop.toNat
    else if w.a.isQueue && qBound q.m.header w.a then
      match queueOf s q.m w.a with
      | some p => withScalars q s w.d 0 1 (if w.fn = 1 then p.items.length else p.stateWord)
      | none => .error (opTrap w.a 1)
    else .error (opTrap w.a 1)) s

/-- QTRY: a pop that never waits (R180). -/
def execQtry (p : Option Pfx) (w : FmtA) (s : State) : Host.Outcome State Fault Refusal :=
  runStrand (.qtry p w) (fun q s =>
    if (w.a == 92 || w.a == 94) && qBound q.m.header w.a && (queueOf s q.m w.a).isSome then
      let r := popQueue s q w.a
      let t := q.t.writeVec q.act q.z (q.t.wb + w.d.toNat) 1
        ((lanesOf q.act).map fun l => (l, (tget 0 r.2.1 l).toNat))
      .ok (wakeQueues (putStrand r.1 q { t with lastPop := BitVec.ofNat 32 r.2.2 }) q.m)
    else .error (opTrap w.a 1)) s

end Sys2Proof.Machine
end

