-- ==== Sys2Proof/Machine/Dispatch.lean ====
section
/-! DEFINITION. The meaning of every instruction: one arm per constructor, each a direct call. -/

namespace Sys2Proof.Machine

/-- One instruction or device step executed. -/
def exec (i : Instr) (s : State) : Host.Outcome State Fault Refusal :=
  match i with
  | .add x0 x1 => Sys2Proof.Machine.execAdd x0 x1 s
  | .sub x0 x1 => Sys2Proof.Machine.execSub x0 x1 s
  | .mul x0 x1 => Sys2Proof.Machine.execMul x0 x1 s
  | .mulh x0 x1 => Sys2Proof.Machine.execMulh x0 x1 s
  | .mad x0 x1 => Sys2Proof.Machine.execMad x0 x1 s
  | .div x0 x1 => Sys2Proof.Machine.execDiv x0 x1 s
  | .rem x0 x1 => Sys2Proof.Machine.execRem x0 x1 s
  | .min x0 x1 => Sys2Proof.Machine.execMin x0 x1 s
  | .max x0 x1 => Sys2Proof.Machine.execMax x0 x1 s
  | .absd x0 x1 => Sys2Proof.Machine.execAbsd x0 x1 s
  | .and x0 x1 => Sys2Proof.Machine.execAnd x0 x1 s
  | .or x0 x1 => Sys2Proof.Machine.execOr x0 x1 s
  | .xor x0 x1 => Sys2Proof.Machine.execXor x0 x1 s
  | .andn x0 x1 => Sys2Proof.Machine.execAndn x0 x1 s
  | .shl x0 x1 => Sys2Proof.Machine.execShl x0 x1 s
  | .shr x0 x1 => Sys2Proof.Machine.execShr x0 x1 s
  | .sra x0 x1 => Sys2Proof.Machine.execSra x0 x1 s
  | .rotl x0 x1 => Sys2Proof.Machine.execRotl x0 x1 s
  | .clz x0 x1 => Sys2Proof.Machine.execClz x0 x1 s
  | .popc x0 x1 => Sys2Proof.Machine.execPopc x0 x1 s
  | .brev x0 x1 => Sys2Proof.Machine.execBrev x0 x1 s
  | .bfe x0 x1 => Sys2Proof.Machine.execBfe x0 x1 s
  | .bfi x0 x1 => Sys2Proof.Machine.execBfi x0 x1 s
  | .sel x0 x1 => Sys2Proof.Machine.execSel x0 x1 s
  | .cmp x0 x1 => Sys2Proof.Machine.execCmp x0 x1 s
  | .setcc x0 x1 => Sys2Proof.Machine.execSetcc x0 x1 s
  | .lea x0 x1 => Sys2Proof.Machine.execLea x0 x1 s
  | .mov x0 x1 => Sys2Proof.Machine.execMov x0 x1 s
  | .readlane x0 x1 => Sys2Proof.Machine.execReadlane x0 x1 s
  | .writelane x0 x1 => Sys2Proof.Machine.execWritelane x0 x1 s
  | .prmt x0 x1 => Sys2Proof.Machine.execPrmt x0 x1 s
  | .dot4 x0 x1 => Sys2Proof.Machine.execDot4 x0 x1 s
  | .addi x0 x1 => Sys2Proof.Machine.execAddi x0 x1 s
  | .muli x0 x1 => Sys2Proof.Machine.execMuli x0 x1 s
  | .andi x0 x1 => Sys2Proof.Machine.execAndi x0 x1 s
  | .ori x0 x1 => Sys2Proof.Machine.execOri x0 x1 s
  | .xori x0 x1 => Sys2Proof.Machine.execXori x0 x1 s
  | .shli x0 x1 => Sys2Proof.Machine.execShli x0 x1 s
  | .shri x0 x1 => Sys2Proof.Machine.execShri x0 x1 s
  | .srai x0 x1 => Sys2Proof.Machine.execSrai x0 x1 s
  | .cmpi x0 x1 => Sys2Proof.Machine.execCmpi x0 x1 s
  | .mini x0 x1 => Sys2Proof.Machine.execMini x0 x1 s
  | .maxi x0 x1 => Sys2Proof.Machine.execMaxi x0 x1 s
  | .lui x0 x1 => Sys2Proof.Machine.execLui x0 x1 s
  | .llo x0 x1 => Sys2Proof.Machine.execLlo x0 x1 s
  | .luih x0 x1 => Sys2Proof.Machine.execLuih x0 x1 s
  | .movs x0 x1 => Sys2Proof.Machine.execMovs x0 x1 s
  | .movsw x0 x1 => Sys2Proof.Machine.execMovsw x0 x1 s
  | .window x0 x1 => Sys2Proof.Machine.execWindow x0 x1 s
  | .fli x0 x1 => Sys2Proof.Machine.execFli x0 x1 s
  | .movi x0 x1 => Sys2Proof.Machine.execMovi x0 x1 s
  | .bfei x0 x1 => Sys2Proof.Machine.execBfei x0 x1 s
  | .bfii x0 x1 => Sys2Proof.Machine.execBfii x0 x1 s
  | .rotli x0 x1 => Sys2Proof.Machine.execRotli x0 x1 s
  | .addip x0 x1 => Sys2Proof.Machine.execAddip x0 x1 s
  | .setcci x0 x1 => Sys2Proof.Machine.execSetcci x0 x1 s
  | .mulw x0 x1 => Sys2Proof.Machine.execMulw x0 x1 s
  | .madw x0 x1 => Sys2Proof.Machine.execMadw x0 x1 s
  | .addp x0 x1 => Sys2Proof.Machine.execAddp x0 x1 s
  | .shlp x0 x1 => Sys2Proof.Machine.execShlp x0 x1 s
  | .shrp x0 x1 => Sys2Proof.Machine.execShrp x0 x1 s
  | .bra x0 x1 => Sys2Proof.Machine.execBra x0 x1 s
  | .bdiv x0 x1 => Sys2Proof.Machine.execBdiv x0 x1 s
  | .join x0 x1 => Sys2Proof.Machine.execJoin x0 x1 s
  | .call x0 x1 => Sys2Proof.Machine.execCall x0 x1 s
  | .calli x0 x1 => Sys2Proof.Machine.execCalli x0 x1 s
  | .ret x0 x1 => Sys2Proof.Machine.execRet x0 x1 s
  | .jmpi x0 x1 => Sys2Proof.Machine.execJmpi x0 x1 s
  | .exit x0 x1 => Sys2Proof.Machine.execExit x0 x1 s
  | .yield x0 x1 => Sys2Proof.Machine.execYield x0 x1 s
  | .nop x0 x1 => Sys2Proof.Machine.execNop x0 x1 s
  | .bar x0 x1 => Sys2Proof.Machine.execBar x0 x1 s
  | .boarr x0 x1 => Sys2Proof.Machine.execBoarr x0 x1 s
  | .bowait x0 x1 => Sys2Proof.Machine.execBowait x0 x1 s
  | .tlwait x0 x1 => Sys2Proof.Machine.execTlwait x0 x1 s
  | .trap x0 x1 => Sys2Proof.Machine.execTrap x0 x1 s
  | .brk x0 x1 => Sys2Proof.Machine.execBrk x0 x1 s
  | .rft x0 x1 => Sys2Proof.Machine.execRft x0 x1 s
  | .qclose x0 x1 => Sys2Proof.Machine.execQclose x0 x1 s
  | .qstat x0 x1 => Sys2Proof.Machine.execQstat x0 x1 s
  | .getpc x0 x1 => Sys2Proof.Machine.execGetpc x0 x1 s
  | .loop x0 x1 => Sys2Proof.Machine.execLoop x0 x1 s
  | .svc x0 x1 => Sys2Proof.Machine.execSvc x0 x1 s
  | .evwait x0 x1 => Sys2Proof.Machine.execEvwait x0 x1 s
  | .qtry x0 x1 => Sys2Proof.Machine.execQtry x0 x1 s
  | .boinit x0 x1 => Sys2Proof.Machine.execBoinit x0 x1 s
  | .fadd x0 x1 => Sys2Proof.Machine.execFadd x0 x1 s
  | .fsub x0 x1 => Sys2Proof.Machine.execFsub x0 x1 s
  | .fmul x0 x1 => Sys2Proof.Machine.execFmul x0 x1 s
  | .ffma x0 x1 => Sys2Proof.Machine.execFfma x0 x1 s
  | .fmin x0 x1 => Sys2Proof.Machine.execFmin x0 x1 s
  | .fmax x0 x1 => Sys2Proof.Machine.execFmax x0 x1 s
  | .fcmp x0 x1 => Sys2Proof.Machine.execFcmp x0 x1 s
  | .fsetcc x0 x1 => Sys2Proof.Machine.execFsetcc x0 x1 s
  | .fdiv x0 x1 => Sys2Proof.Machine.execFdiv x0 x1 s
  | .fsqrt x0 x1 => Sys2Proof.Machine.execFsqrt x0 x1 s
  | .frcp x0 x1 => Sys2Proof.Machine.execFrcp x0 x1 s
  | .frsq x0 x1 => Sys2Proof.Machine.execFrsq x0 x1 s
  | .fexp2 x0 x1 => Sys2Proof.Machine.execFexp2 x0 x1 s
  | .flog2 x0 x1 => Sys2Proof.Machine.execFlog2 x0 x1 s
  | .fsin x0 x1 => Sys2Proof.Machine.execFsin x0 x1 s
  | .fcos x0 x1 => Sys2Proof.Machine.execFcos x0 x1 s
  | .ftanh x0 x1 => Sys2Proof.Machine.execFtanh x0 x1 s
  | .fclass x0 x1 => Sys2Proof.Machine.execFclass x0 x1 s
  | .fcvt x0 x1 => Sys2Proof.Machine.execFcvt x0 x1 s
  | .icvt x0 x1 => Sys2Proof.Machine.execIcvt x0 x1 s
  | .fpack x0 x1 => Sys2Proof.Machine.execFpack x0 x1 s
  | .funpk x0 x1 => Sys2Proof.Machine.execFunpk x0 x1 s
  | .qnt x0 x1 => Sys2Proof.Machine.execQnt x0 x1 s
  | .qntc x0 x1 => Sys2Proof.Machine.execQntc x0 x1 s
  | .dqnt x0 x1 => Sys2Proof.Machine.execDqnt x0 x1 s
  | .fdot2 x0 x1 => Sys2Proof.Machine.execFdot2 x0 x1 s
  | .frnd x0 x1 => Sys2Proof.Machine.execFrnd x0 x1 s
  | .fscale x0 x1 => Sys2Proof.Machine.execFscale x0 x1 s
  | .fsgn x0 x1 => Sys2Proof.Machine.execFsgn x0 x1 s
  | .ffrc x0 x1 => Sys2Proof.Machine.execFfrc x0 x1 s
  | .fdiva x0 x1 => Sys2Proof.Machine.execFdiva x0 x1 s
  | .shfl x0 x1 => Sys2Proof.Machine.execShfl x0 x1 s
  | .vote x0 x1 => Sys2Proof.Machine.execVote x0 x1 s
  | .ballot x0 x1 => Sys2Proof.Machine.execBallot x0 x1 s
  | .redux x0 x1 => Sys2Proof.Machine.execRedux x0 x1 s
  | .scan x0 x1 => Sys2Proof.Machine.execScan x0 x1 s
  | .match x0 x1 => Sys2Proof.Machine.execMatch x0 x1 s
  | .ld x0 x1 => Sys2Proof.Machine.execLd x0 x1 s
  | .st x0 x1 => Sys2Proof.Machine.execSt x0 x1 s
  | .lds x0 x1 => Sys2Proof.Machine.execLds x0 x1 s
  | .sts x0 x1 => Sys2Proof.Machine.execSts x0 x1 s
  | .ldp x0 x1 => Sys2Proof.Machine.execLdp x0 x1 s
  | .stp x0 x1 => Sys2Proof.Machine.execStp x0 x1 s
  | .atom x0 x1 => Sys2Proof.Machine.execAtom x0 x1 s
  | .atom64 x0 x1 => Sys2Proof.Machine.execAtom64 x0 x1 s
  | .red x0 x1 => Sys2Proof.Machine.execRed x0 x1 s
  | .atoms x0 x1 => Sys2Proof.Machine.execAtoms x0 x1 s
  | .fence x0 x1 => Sys2Proof.Machine.execFence x0 x1 s
  | .hflush x0 x1 => Sys2Proof.Machine.execHflush x0 x1 s
  | .cinv x0 x1 => Sys2Proof.Machine.execCinv x0 x1 s
  | .pref x0 x1 => Sys2Proof.Machine.execPref x0 x1 s
  | .privaddr x0 x1 => Sys2Proof.Machine.execPrivaddr x0 x1 s
  | .cconv x0 x1 => Sys2Proof.Machine.execCconv x0 x1 s
  | .ldt x0 x1 => Sys2Proof.Machine.execLdt x0 x1 s
  | .stt x0 x1 => Sys2Proof.Machine.execStt x0 x1 s
  | .atoms64 x0 x1 => Sys2Proof.Machine.execAtoms64 x0 x1 s
  | .ldk x0 x1 => Sys2Proof.Machine.execLdk x0 x1 s
  | .xcopy x0 x1 => Sys2Proof.Machine.execXcopy x0 x1 s
  | .xtile x0 x1 => Sys2Proof.Machine.execXtile x0 x1 s
  | .xform x0 x1 => Sys2Proof.Machine.execXform x0 x1 s
  | .xyield x0 x1 => Sys2Proof.Machine.execXyield x0 x1 s
  | .tlread x0 x1 => Sys2Proof.Machine.execTlread x0 x1 s
  | .tlinc x0 x1 => Sys2Proof.Machine.execTlinc x0 x1 s
  | .tdef x0 x1 => Sys2Proof.Machine.execTdef x0 x1 s
  | .tinv x0 x1 => Sys2Proof.Machine.execTinv x0 x1 s
  | .tinvAll x0 x1 => Sys2Proof.Machine.execTinvAll x0 x1 s
  | .tbnd x0 x1 => Sys2Proof.Machine.execTbnd x0 x1 s
  | .tseal x0 x1 => Sys2Proof.Machine.execTseal x0 x1 s
  | .tstat x0 x1 => Sys2Proof.Machine.execTstat x0 x1 s
  | .seedscan x0 x1 => Sys2Proof.Machine.execSeedscan x0 x1 s
  | .seedexp x0 x1 => Sys2Proof.Machine.execSeedexp x0 x1 s
  | .snap x0 x1 => Sys2Proof.Machine.execSnap x0 x1 s
  | .snapwait x0 x1 => Sys2Proof.Machine.execSnapwait x0 x1 s
  | .snapstat x0 x1 => Sys2Proof.Machine.execSnapstat x0 x1 s
  | .xgath x0 x1 => Sys2Proof.Machine.execXgath x0 x1 s
  | .xscat x0 x1 => Sys2Proof.Machine.execXscat x0 x1 s
  | .xfill x0 x1 => Sys2Proof.Machine.execXfill x0 x1 s
  | .xcancel x0 x1 => Sys2Proof.Machine.execXcancel x0 x1 s
  | .xstat x0 x1 => Sys2Proof.Machine.execXstat x0 x1 s
  | .mzero x0 => Sys2Proof.Machine.execMzero x0 s
  | .mma x0 => Sys2Proof.Machine.execMma x0 s
  | .mmas x0 => Sys2Proof.Machine.execMmas x0 s
  | .mstore x0 => Sys2Proof.Machine.execMstore x0 s
  | .mepi x0 => Sys2Proof.Machine.execMepi x0 s
  | .mldacc x0 => Sys2Proof.Machine.execMldacc x0 s
  | .msig x0 => Sys2Proof.Machine.execMsig x0 s
  | .mwait x0 => Sys2Proof.Machine.execMwait x0 s
  | .kadd x0 => Sys2Proof.Machine.execKadd x0 s
  | .kaddi x0 => Sys2Proof.Machine.execKaddi x0 s
  | .kli x0 => Sys2Proof.Machine.execKli x0 s
  | .kld x0 => Sys2Proof.Machine.execKld x0 s
  | .kst x0 => Sys2Proof.Machine.execKst x0 s
  | .kbra x0 => Sys2Proof.Machine.execKbra x0 s
  | .kend x0 => Sys2Proof.Machine.execKend x0 s
  | .mfetch x0 => Sys2Proof.Machine.execMfetch x0 s
  | .mrowmax x0 => Sys2Proof.Machine.execMrowmax x0 s
  | .mrowsum x0 => Sys2Proof.Machine.execMrowsum x0 s
  | .mscale x0 => Sys2Proof.Machine.execMscale x0 s
  | .mcopy x0 => Sys2Proof.Machine.execMcopy x0 s
  | .ksub x0 => Sys2Proof.Machine.execKsub x0 s
  | .kshl x0 => Sys2Proof.Machine.execKshl x0 s
  | .kand x0 => Sys2Proof.Machine.execKand x0 s
  | .kmul x0 => Sys2Proof.Machine.execKmul x0 s
  | .mwaitt x0 => Sys2Proof.Machine.execMwaitt x0 s
  | .kor x0 => Sys2Proof.Machine.execKor x0 s
  | .myield x0 => Sys2Proof.Machine.execMyield x0 s
  | .unassignedOpcode x0 => Sys2Proof.Machine.execUnassignedOpcode x0 s
  | .kStep x0 => Sys2Proof.Machine.execKStep x0 s
  | .accessPerformed x0 => Sys2Proof.Machine.execAccessPerformed x0 s
  | .translationWalk x0 => Sys2Proof.Machine.execTranslationWalk x0 s
  | .l1Refill x0 x1 => Sys2Proof.Machine.execL1Refill x0 x1 s
  | .tailWrite x0 x1 => Sys2Proof.Machine.execTailWrite x0 x1 s
  | .ringEnable x0 x1 x2 => Sys2Proof.Machine.execRingEnable x0 x1 x2 s
  | .ringResume x0 x1 => Sys2Proof.Machine.execRingResume x0 x1 s
  | .recordCheck x0 => Sys2Proof.Machine.execRecordCheck x0 s
  | .recordBegin x0 => Sys2Proof.Machine.execRecordBegin x0 s
  | .recordComplete x0 x1 => Sys2Proof.Machine.execRecordComplete x0 x1 s
  | .hoopEvaluation => Sys2Proof.Machine.execHoopEvaluation s
  | .motifPlacement x0 x1 x2 => Sys2Proof.Machine.execMotifPlacement x0 x1 x2 s
  | .motifRetire x0 => Sys2Proof.Machine.execMotifRetire x0 s
  | .clusterSwitch x0 x1 => Sys2Proof.Machine.execClusterSwitch x0 x1 s
  | .chunkPerformed x0 x1 x2 x3 => Sys2Proof.Machine.execChunkPerformed x0 x1 x2 x3 s
  | .commandComplete x0 x1 x2 => Sys2Proof.Machine.execCommandComplete x0 x1 x2 s
  | .atsResponse x0 => Sys2Proof.Machine.execAtsResponse x0 s
  | .priResponse x0 => Sys2Proof.Machine.execPriResponse x0 s
  | .atsInvalidation x0 x1 x2 x3 => Sys2Proof.Machine.execAtsInvalidation x0 x1 x2 x3 s
  | .invalidate x0 x1 => Sys2Proof.Machine.execInvalidate x0 x1 s
  | .s2Invalidate x0 x1 => Sys2Proof.Machine.execS2Invalidate x0 x1 s
  | .invalidationComplete x0 x1 => Sys2Proof.Machine.execInvalidationComplete x0 x1 s
  | .resolveRetry x0 x1 => Sys2Proof.Machine.execResolveRetry x0 x1 s
  | .resolveFail x0 x1 => Sys2Proof.Machine.execResolveFail x0 x1 s
  | .s2ResolveRetry x0 => Sys2Proof.Machine.execS2ResolveRetry x0 s
  | .s2ResolveFail x0 => Sys2Proof.Machine.execS2ResolveFail x0 s
  | .frameFormat x0 x1 => Sys2Proof.Machine.execFrameFormat x0 x1 s
  | .frameFormatComplete x0 => Sys2Proof.Machine.execFrameFormatComplete x0 s
  | .hostWindowAccess x0 => Sys2Proof.Machine.execHostWindowAccess x0 s
  | .ingressData x0 => Sys2Proof.Machine.execIngressData x0 s
  | .evtimerExpiry x0 x1 => Sys2Proof.Machine.execEvtimerExpiry x0 x1 s
  | .signal x0 x1 => Sys2Proof.Machine.execSignal x0 x1 s
  | .ctxHalt x0 x1 => Sys2Proof.Machine.execCtxHalt x0 x1 s
  | .ctxResume x0 x1 => Sys2Proof.Machine.execCtxResume x0 x1 s
  | .ctxPreempt x0 x1 => Sys2Proof.Machine.execCtxPreempt x0 x1 s
  | .ctxTeardown x0 x1 => Sys2Proof.Machine.execCtxTeardown x0 x1 s
  | .stopDeadlineExpiry x0 x1 => Sys2Proof.Machine.execStopDeadlineExpiry x0 x1 s
  | .drainLimitExpiry x0 => Sys2Proof.Machine.execDrainLimitExpiry x0 s
  | .motifSave x0 => Sys2Proof.Machine.execMotifSave x0 s
  | .motifRestore x0 x1 x2 => Sys2Proof.Machine.execMotifRestore x0 x1 x2 s
  | .sliceExpiry x0 => Sys2Proof.Machine.execSliceExpiry x0 s
  | .energyTick => Sys2Proof.Machine.execEnergyTick s
  | .shareCommit x0 => Sys2Proof.Machine.execShareCommit x0 s
  | .thermalEvent x0 x1 => Sys2Proof.Machine.execThermalEvent x0 x1 s
  | .unitRetire x0 => Sys2Proof.Machine.execUnitRetire x0 s
  | .linkDegrade x0 x1 x2 => Sys2Proof.Machine.execLinkDegrade x0 x1 x2 s
  | .infieldTest x0 => Sys2Proof.Machine.execInfieldTest x0 s
  | .scanTestComplete x0 x1 => Sys2Proof.Machine.execScanTestComplete x0 x1 s
  | .migrateOut x0 => Sys2Proof.Machine.execMigrateOut x0 s
  | .migrateIn x0 => Sys2Proof.Machine.execMigrateIn x0 s
  | .rdreq x0 x1 => Sys2Proof.Machine.execRdreq x0 x1 s
  | .rdrsp x0 x1 => Sys2Proof.Machine.execRdrsp x0 x1 s
  | .putPacket x0 x1 => Sys2Proof.Machine.execPutPacket x0 x1 s
  | .putack x0 x1 => Sys2Proof.Machine.execPutack x0 x1 s
  | .atomPacket x0 x1 => Sys2Proof.Machine.execAtomPacket x0 x1 s
  | .atomrsp x0 x1 => Sys2Proof.Machine.execAtomrsp x0 x1 s
  | .redPacket x0 x1 => Sys2Proof.Machine.execRedPacket x0 x1 s
  | .marker x0 x1 => Sys2Proof.Machine.execMarker x0 x1 s
  | .doneCtrl x0 x1 => Sys2Proof.Machine.execDoneCtrl x0 x1 s
  | .completeCtrl x0 x1 => Sys2Proof.Machine.execCompleteCtrl x0 x1 s
  | .failCtrl x0 x1 => Sys2Proof.Machine.execFailCtrl x0 x1 s
  | .snapreq x0 x1 => Sys2Proof.Machine.execSnapreq x0 x1 s
  | .snapans x0 x1 => Sys2Proof.Machine.execSnapans x0 x1 s
  | .packetForward x0 x1 => Sys2Proof.Machine.execPacketForward x0 x1 s
  | .requestTimeout x0 => Sys2Proof.Machine.execRequestTimeout x0 s
  | .queueStallReport x0 x1 x2 => Sys2Proof.Machine.execQueueStallReport x0 x1 x2 s
  | .linkFail x0 => Sys2Proof.Machine.execLinkFail x0 s
  | .linkTraining x0 x1 x2 x3 => Sys2Proof.Machine.execLinkTraining x0 x1 x2 x3 s
  | .fumaroleStream x0 x1 => Sys2Proof.Machine.execFumaroleStream x0 x1 s
  | .chipDone x0 x1 => Sys2Proof.Machine.execChipDone x0 x1 s
  | .colourFree x0 x1 => Sys2Proof.Machine.execColourFree x0 x1 s
  | .cutAbort x0 x1 => Sys2Proof.Machine.execCutAbort x0 x1 s
  | .restore x0 x1 => Sys2Proof.Machine.execRestore x0 x1 s
  | .restoreChip x0 => Sys2Proof.Machine.execRestoreChip x0 s
  | .powerOnReset x0 => Sys2Proof.Machine.execPowerOnReset x0 s
  | .perstPort1 => Sys2Proof.Machine.execPerstPort1 s
  | .pfFlr => Sys2Proof.Machine.execPfFlr s
  | .vfFlr x0 => Sys2Proof.Machine.execVfFlr x0 s
  | .recoveryLoad x0 => Sys2Proof.Machine.execRecoveryLoad x0 s
  | .floorAdvance x0 => Sys2Proof.Machine.execFloorAdvance x0 s
  | .getMeasurements x0 => Sys2Proof.Machine.execGetMeasurements x0 s
  | .lmsSignatureRequest x0 => Sys2Proof.Machine.execLmsSignatureRequest x0 s
  | .featureAccept x0 x1 => Sys2Proof.Machine.execFeatureAccept x0 x1 s
  | .queueEnable x0 x1 => Sys2Proof.Machine.execQueueEnable x0 x1 s
  | .winsliceWrite x0 x1 => Sys2Proof.Machine.execWinsliceWrite x0 x1 s
  | .quadcapWrite x0 x1 => Sys2Proof.Machine.execQuadcapWrite x0 x1 s
  | .ringownWrite x0 x1 => Sys2Proof.Machine.execRingownWrite x0 x1 s
  | .waymaskWrite x0 x1 => Sys2Proof.Machine.execWaymaskWrite x0 x1 s
  | .invcountRead x0 x1 => Sys2Proof.Machine.execInvcountRead x0 x1 s
  | .ctxstatRead x0 => Sys2Proof.Machine.execCtxstatRead x0 s
  | .registerWrite x0 x1 x2 x3 => Sys2Proof.Machine.execRegisterWrite x0 x1 x2 x3 s
  | .arbiterSlot x0 x1 x2 => Sys2Proof.Machine.execArbiterSlot x0 x1 x2 s
  | .queueHeadWrite x0 x1 => Sys2Proof.Machine.execQueueHeadWrite x0 x1 s
  | .packetDropped x0 x1 => Sys2Proof.Machine.execPacketDropped x0 x1 s
  | .flitReplay x0 => Sys2Proof.Machine.execFlitReplay x0 s
  | .restoreConfirmation x0 x1 => Sys2Proof.Machine.execRestoreConfirmation x0 x1 s

end Sys2Proof.Machine
end

