-- ==== Sys2Proof/Machine/Turn.lean ====
section
/-! DEFINITION. The strand scheduler of a quadrant and its share bucket (R191, R192, R387 to R389), and what moves next:
the head of the agenda, or a turn of the default schedule, in which the strands, the sequencers, the engines and the
device's own steps take turns (log entry 4). -/

namespace Sys2Proof.Machine

/-! ## The strand scheduler -/

/-- The cycles for which an instruction holds the quadrant (R127). -/
def issueCost (s : State) (q0 : Iss) (i : Instr) : Nat :=
  let q := q0.enter i
  if (tripleStop s q.t q.p).isSome ∨ q.act = 0 ∨ (featureStop s (cidVd q.m.cid) i).isSome then 1
  else
    match i.shape with
    | some (p, sh) => cyclesOf q.act sh (shapeUses p sh)
    | none => 1

/-- The next grant of a strand as it would be made: the state, the issue and its instruction; none where the fetch stops. -/
def nextIssue (s : State) (uid j : Nat) (t : Strand) (k : Nat) : Option (State × Iss × Instr) :=
  let turn := { updStrand s uid j (fun _ => t) with cur := some (.slot uid j k) }
  (issuerOf turn).bind fun q => match fetchWords turn q with
    | .error _ => none
    | .ok (s1, ws) => some (s1, q, instrAt ws)

/-- Whether anything stands in the package that a short stall waits for: requests of the strand's own, the commands of its
motif, a full cache of handles, a format in progress (R137, R219, R252, R294, R299). -/
def mayStall (s : State) (m : Motif) : Bool :=
  (s.requests.any fun r => r.uid == m.uid) || decide (32 ≤ m.commands.length) ||
  decide (64 ≤ (clusterOf s m.die m.cluster).handles.length) || s.vdevs.any fun e => e.2.fmtBusy.isSome

/-- Whether an instruction would be in a short stall: it leaves no slot as the issuer, since none has issued (R137, R138). -/
def stalls (s : State) (i : Instr) : Bool :=
  match exec i s with
  | .next t => t.cur.isNone
  | _ => false

/-- The cycles that the next grant of a strand costs, none while its slot is in a short stall: a fetch that stops, and words
of no instruction, take one (R127, R138, R191). -/
def grantCost (s : State) (m : Motif) (j : Nat) (t : Strand) (k : Nat) : Option Nat :=
  match nextIssue s m.uid j t k with
  | none => some 1
  | some (s1, q, i) => if mayStall s m && stalls s1 i then none else some (issueCost s1 q i)

/-- A strand that contends for a grant of its quadrant: its place in the order list, and the request. -/
structure Contender where
  uid : Nat
  strand : Nat
  req : ArbReq
  deriving DecidableEq, Repr

/-- The strands of a quadrant whose turn's slot can issue now, in the quadrant's order list (R138, R191). -/
def contenders (s : State) (e : Nat × Cluster) (quad : Nat) : List Contender :=
  (e.2.order.filter fun p => p.2 % 4 == quad).filterMap fun p =>
    match motifOf s p.1 with
    | none => none
    | some m =>
      match strandGrant s m p.2 with
      | none => none
      | some (t, k) => (grantCost s m p.2 t k).map fun n => { uid := p.1, strand := p.2, req := { vd := cidVd m.cid, units := n } }

/-- Whether a contender's device pays for its request, from its own tokens or from the pool (R388). -/
def Contender.funded (s : State) (a : Arbiter) (c : Contender) : Bool := ownerFunded a c.req || poolFunded s 0 a c.req

/-- The strands that request a grant: contenders whose device has tokens for it (R191, R388). -/
def requesters (s : State) (e : Nat × Cluster) (quad : Nat) : List Contender :=
  (contenders s e quad).filter (Contender.funded s (filledQuad s e.1 quad))

/-- The funding class that a grant is made in: the owner-funded requests, or else those that the pool pays for (R389). -/
def fundedClass (a : Arbiter) (rs : List Contender) : List Contender :=
  match rs.filter fun c => ownerFunded a c.req with
  | [] => rs
  | own => own

/-- The grants that a strand has waited through. -/
def waitedOf (c : Cluster) (x : Contender) : Nat :=
  ((c.waited.find? fun w => w.1 == x.uid && w.2.1 == x.strand).map fun w => w.2.2).getD 0

/-- The strand granted among those that request: one that has waited through the cap, the longest first, else the
earliest in the order list (R191, R389). -/
def grantOf (s : State) (e : Nat × Cluster) (quad : Nat) : Option Contender :=
  let rs := fundedClass (filledQuad s e.1 quad) (requesters s e quad)
  let cap := (tget 32 s.quadcap (e.1 * 4 + quad)).toNat
  let capped := rs.filter fun p => decide (cap ≤ waitedOf e.2 p)
  match capped with
  | [] => rs.head?
  | p :: ps => some (ps.foldl (fun b x => if waitedOf e.2 b < waitedOf e.2 x then x else b) p)

/-- The counts after a grant: the granted strand's is dropped, the others that requested have waited through one more
(R191). -/
def countGrant (s : State) (e : Nat × Cluster) (quad : Nat) (p : Contender) : State :=
  let rs := requesters s e quad
  let others := rs.filter fun x => x != p
  let keep := e.2.waited.filter fun w => !(rs.any fun x => x.uid == w.1 && x.strand == w.2.1)
  let c := { e.2 with waited := keep ++ others.map fun x => (x.uid, x.strand, waitedOf e.2 x + 1) }
  { s with clusters := tset Cluster.reset s.clusters e.1 c }

/-- A grant paid for by its device's tokens or by the pool, which shows in bucketstat (R388, R391). -/
def payQuad (s : State) (key quad : Nat) (p : Contender) : State :=
  let a := filledQuad s key quad
  let lent := !ownerFunded a p.req
  let s1 := { s with arbiters := tset Arbiter.reset s.arbiters (quadArbiter key quad) (payGrant a (some (p.req, lent))) }
  if lent then updVdev s1 p.req.vd fun v => { v with lentNow := v.lentNow ||| 1 } else s1

/-- A strand issues by the grant of its quadrant: the waiting counts, the tokens, the instruction (R191, R389). -/
def issueGranted (s : State) (e : Nat × Cluster) (quad : Nat) (p : Contender) : State × Option Instr :=
  planIssue (payQuad (countGrant s e quad p) e.1 quad p) p.uid p.strand

/-- The cluster entry and the quadrant that a strand runs on (R140). -/
def quadOf (s : State) (uid j : Nat) : Option ((Nat × Cluster) × Nat) :=
  (motifOf s uid).map fun m => ((clusterKey m.die m.cluster, clusterOf s m.die m.cluster), j % 4)

/-- Whether the quadrant of a strand grants that strand now (R191). -/
def grantedTo (s : State) (uid j : Nat) : Option ((Nat × Cluster) × Nat × Contender) :=
  (quadOf s uid j).bind fun e => (grantOf s e.1 e.2).bind fun p =>
    if p.uid = uid ∧ p.strand = j then some (e.1, e.2, p) else none

/-- The quadrants with a strand to grant: cluster entry, quadrant, strand. -/
def grants (s : State) : List ((Nat × Cluster) × Nat × Contender) :=
  s.clusters.flatMap fun e => (List.range 4).filterMap fun q => (grantOf s e q).map fun p => (e, q, p)

/-- The devices with a strand that could issue and has no tokens: bucketstat shows it (R391). -/
def noteUnfunded (s : State) : State :=
  let poor := s.clusters.flatMap fun e => (List.range 4).flatMap fun q =>
    ((contenders s e q).filter fun c => !c.funded s (filledQuad s e.1 q)).map (·.req.vd)
  poor.eraseDups.foldl (fun s vd => updVdev s vd fun v => { v with emptyNow := v.emptyNow ||| 1 }) s

/-! ## The steps of the device -/

/-- Launch steps that are due: records to check, begin and complete, motifs to place and to retire (R142, R182 to R189). -/
def launchSteps (s : State) : List Instr :=
  ((s.rings.map (·.1)).filter fun r => s.hoop.contains r && decide ((ringOf s r).fetched < (ringOf s r).tail)
      && ringFetches s (ringOf s r) && unfetchedReady s r).map Instr.recordCheck ++
  ((s.rings.map (·.1)).filter fun r => match recordOf s r ((ringOf s r).begun + 1) with
    | some rec => !rec.begun && canBegin s rec
    | none => false).map Instr.recordBegin ++
  (s.records.filter (recordCompletes s)).map (fun r => Instr.recordComplete r.ring r.number) ++
  s.records.flatMap (fun r => if r.begun then
      (r.stages.zipIdx.filter fun e => (dispatchClass r e.1).isSome).map fun e => Instr.motifPlacement r.ring r.number e.2
    else []) ++
  (s.motifs.filter fun m => motifOver m && motifRuns s m && !unitsHeld s m).map (fun m => Instr.motifRetire m.uid)

/-- Steps of pre-emption and of time slices that are due (R374 to R381, R399). -/
def timeSteps (s : State) : List Instr :=
  (s.motifs.filter (preempting s)).flatMap (fun m => match m.preempt with
    | none => []
    | some since =>
      (if since + m.desc.deadline ≤ s.clock then
        (m.strands.filter fun t => !t.atRest && !t.halted && !t.stopped).map fun t => Instr.stopDeadlineExpiry m.uid t.index
       else []) ++
      (if since + m.desc.drainlim ≤ s.clock ∧ !m.drained then [Instr.drainLimitExpiry m.uid] else []) ++
      (if unitsStopped m && !unitsHeld s m then [Instr.motifSave m.uid] else [])) ++
  s.contexts.flatMap (fun x => (x.saved.filter fun v => !x.stopped && (chooseRestored s v.motif).isSome).map
    fun v => Instr.motifRestore (cidVd x.cid) (cidCtx x.cid) v.slot) ++
  (s.clusters.filter fun e => !e.2.frozen && (match e.2.ctx with
    | some c => decide ((vdevOf s (cidVd c)).share.vslice ≤ e.2.slice ∧ 0 < (vdevOf s (cidVd c)).share.vslice) ||
        emptied s (e.1 / 64) (e.1 % 64) && !motifWaitsFor s (e.1 / 64) (e.1 % 64) c
    | none => false)).map (fun e => Instr.sliceExpiry { die := e.1 / 64, cluster := e.1 % 64 })

/-- Steps of the memory system that are due: invalidations and formats (R215, R219). -/
def memorySteps (s : State) : List Instr :=
  (if s.pendStores.isEmpty then s.invs.map fun i => Instr.invalidationComplete i.vd i.stage else []) ++
  (s.vdevs.filter fun e => e.2.fmtBusy.isSome && !cutLive s e.1).map fun e => Instr.frameFormatComplete e.1

/-- The steps that the device takes by itself now. -/
def deviceSteps (s : State) : List Instr := memorySteps s ++ dueSteps s ++ timeSteps s ++ launchSteps s

/-- A turn of the default schedule: the quadrants, the sequencers and the device's steps in rotation by the count of turns; with
nothing to move, time passes (log entry 4). -/
def planDefault (s : State) : State × Option Instr :=
  let gs := grants s
  let ts := turners s
  let ds := deviceSteps s
  let n := gs.length + ts.length + ds.length
  if n = 0 then ({ s with clock := s.clock + 1 }, none)
  else
    let i := s.turnNo % n
    let s1 := { s with turnNo := s.turnNo + 1 }
    match gs[i]? with
    | some g => issueGranted s1 g.1 g.2.1 g.2.2
    | none =>
      match ts[i - gs.length]? with
      | some uid => planSequence s1 uid
      | none => ({ s1 with cur := none, clock := s.clock + 1 }, ds[i - gs.length - ts.length]?)

/-- The events that reach a package that is held in reset (R430). -/
def endsHold : Instr → Bool
  | .thermalEvent _ _ => true
  | _ => false

/-- The events that are accesses to registers which a package in recovery mode does not show: it shows no virtual function,
and of the physical function's registers those of recovery alone (R424, R427). -/
def hiddenRegister : Instr → Bool
  | .tailWrite .. | .ringEnable .. | .ringResume .. | .invalidate .. | .s2Invalidate .. | .resolveRetry .. | .resolveFail ..
  | .s2ResolveRetry .. | .s2ResolveFail .. | .frameFormat .. | .signal .. | .ctxHalt .. | .ctxResume .. | .ctxPreempt ..
  | .ctxTeardown .. | .shareCommit .. | .migrateOut .. | .migrateIn .. | .waymaskWrite .. | .ctxstatRead .. | .cutAbort ..
  | .restore .. | .vfFlr .. => true
  | _ => false

/-- The virtual device whose function an access of the host goes to (R383, R419, R423). -/
def functionOf : Instr → Option Nat
  | .ringEnable vd _ _ | .ringResume vd _ | .invalidate vd _ | .resolveRetry vd _ | .resolveFail vd _ | .frameFormat vd _
  | .signal vd _ | .ctxHalt vd _ | .ctxResume vd _ | .ctxPreempt vd _ | .ctxTeardown vd _ | .ctxstatRead vd
  | .cutAbort vd _ | .restore vd _ | .vfFlr vd | .tailWrite ⟨.vf vd, _⟩ _ | .featureAccept (.vf vd) _
  | .invcountRead (.vf vd) _ | .registerWrite (.vf vd) _ _ _
  | .queueEnable (.errq vd) _ | .queueEnable (.faultq vd) _ | .queueHeadWrite (.errq vd) _ | .queueHeadWrite (.faultq vd) _ =>
    some vd
  | _ => none

/-- Whether an event reaches the package: not while it is held in reset, but for its heat (R430), nor as an access to a
register that recovery mode does not show (R424), nor to a virtual function that is not enabled (R383, R418). -/
def reachesPackage (s : State) (i : Instr) : Bool :=
  (s.heldDies.isEmpty || endsHold i) && !(s.recovery && hiddenRegister i) &&
  (match functionOf i with
    | some vd => decide (vd < 32) && (vdevOf s vd).enabled
    | none => true)

/-- Whether a pending store has reached the bound of its performance. It is performed a little before 65,536 cycles have
passed, by more than one step takes (R243; log entry 3). -/
def PendStore.due (s : State) (d : PendStore) : Bool := decide (d.issued + 65472 ≤ s.clock)

/-- The stores that have waited as long as they may are performed (R243). -/
def performDue (s : State) : State := if s.pendStores.any (PendStore.due s) then performWhere s (PendStore.due s) else s

/-- The reads of HOST pages under way come back, and their slots look again (R137, R256). -/
def answerHosts (s : State) : State :=
  (s.requests.filter fun r => r.op == hostOp && r.answer.isNone).foldl (fun s r => answerRequest s r 0 []) s

/-- What comes about by itself before a step: timers ring (R120), old stores are performed (R243), the hoop is evaluated
(R186), strands at rest are stopped for pre-emption (R374), host memory answers (R256), a packet that found no room goes on (R415),
requests without tokens are noted (R391). -/
def timePassed (s : State) : State :=
  noteUnfunded (stopRested (tickHoop (admitHeld (answerHosts (performDue (ringTimers s))))))

/-- What the next step does: what time brings about, then the head of the agenda, or a turn of the default schedule. A
strand that the agenda names issues if its quadrant grants it (R191). -/
def planNext (s0 : State) : State × Option Instr :=
  let s := timePassed s0
  match s0.agenda with
  | [] => planDefault s
  | .event i :: rest =>
    ({ s with agenda := rest, cur := none, clock := s.clock + 1 }, if reachesPackage s i then some i else none)
  | .issue uid j :: rest =>
    match grantedTo s uid j with
    | some g => issueGranted { s with agenda := rest } g.1 g.2.1 g.2.2
    | none => planDefault { s with agenda := rest }
  | .sequence uid :: rest => planSequence { s with agenda := rest } uid

end Sys2Proof.Machine
end

