-- ==== Sys2Proof/Machine/Step.lean ====
section
/-! DEFINITION. One step of the machine, and the state whose next step runs a given instruction. -/

namespace Sys2Proof.Machine

/-- One step: what the agenda or the default schedule moves next (log entry 4). -/
def step (s : State) : Host.Outcome State Fault Refusal :=
  match planNext s with
  | (s', some i) => exec i s'
  | (s', none) => .next s'

/-- The state with an instruction loaded as the program that runs next: a motif, its code page, its bytes, and the turn
(log entry 5). -/
def State.withFetchWord (s : State) (nbits w : Nat) : State := loadWord s nbits w

end Sys2Proof.Machine
end

