-- ==== Sys2Proof/Safety.lean ====
section
/-! DEFINITION. What a safe state is, and the terms the statements use: when a slot issues an instruction that nothing
stops, and what a register instruction leaves. -/

namespace Sys2Proof.Machine

/-- Every store of the package keeps the canonical form: keys rising, nothing listed that an unlisted key reads as. -/
def State.storesWf (s : State) : Bool :=
  Memory.wf s.mem && Memory.wf s.tier2 && Memory.wf s.window && Memory.wf s.hostMem && Memory.wf s.hostBus

/-- The machine can take a step: it neither faults nor is refused. -/
def State.Runs (s : State) : Prop := ∃ t, step s = .next t

/-- A strand of a motif, as a state holds it. -/
def strandAt (s : State) (uid j : Nat) : Option Strand := (motifOf s uid).bind fun m => strandOf m j

/-- A byte of one of the package's stores. -/
def byteAt (s : State) (p : PAddr) : Byte := tget 0 (spaceMem s p.space) p.addr

/-- A live slot issues a well-formed instruction for at least one active lane, and no check that R77 makes before the effect stops
it: the features (R422), the producer strand (R141), the operands (R11 to R16, R23), the status registers (R301). `q` is
the issue: the motif, the strand and the slot as they stand, the active lanes, the prefix, the address of the next word. -/
structure Issues (s : State) (i : Instr) (q : Iss) : Prop where
  wf : i.wf = true
  slot : (issuerOf s).map (fun q0 => q0.enter i) = some q
  lanes : q.act ≠ 0
  features : featureStop s (cidVd q.m.cid) i = none
  place : ∀ e ∈ i.shape, producerStop q.m q.t i e.2 = none
  operands : ∀ e ∈ i.shape, operandStop q.m q.t e.2.op (shapeUses e.1 e.2) = none
  status : ∀ e ∈ i.shape, statusStop s q.t e.1 e.2 (shapeUses e.1 e.2) = none

/-- Whether a queue register stands among an instruction's sources (R145). -/
def popsQueue (i : Instr) : Bool := !(queueSources (instrUses i)).isEmpty

/-- The state and the issue once the queue sources have been popped, in operand order (R145); with none, as they were. -/
def sourced (s : State) (q : Iss) (i : Instr) : State × Iss :=
  ((popSources (instrUses i) s q).1, (popSources (instrUses i) s q).2.1)

/-- What the last-pop count becomes: the last pop's (R145, R179; log entry 67). -/
def poppedCount (s : State) (q : Iss) (i : Instr) : Word :=
  ((popSources (instrUses i) s q).2.2.map (BitVec.ofNat 32)).getD q.t.lastPop

/-- The issue ends: the slot at the next word, the turn, the cycles, the energy (R21, R127, R138, R395). -/
def retire (q : Iss) (i : Instr) (s : State) : State :=
  match i.shape with
  | some (p, sh) => afterIssue q sh (shapeUses p sh) (advance q s)
  | none => s

/-- The issuing strand replaced; those who wait for a popped queue woken; a queue destination's items pushed (R145). -/
def delivered (q : Iss) (i : Instr) (d : Reg) (u : Strand) (items : List Word) (s : State) : State :=
  let s0 := putStrand s q u
  let s1 := if popsQueue i then wakeQueues s0 q.m else s0
  if d.isQueue then pushQueue s1 q d items else s1

/-- A destination written: `u` is the strand of the issue `q` after `w` registers at `d` received `val`, lane by lane
(R10, R12, R13, R14, R69, R89). Nothing else of the register file changes. -/
structure Wrote (q : Iss) (u : Strand) (d : Reg) (w : Nat) (val : Nat → Nat) : Prop where
  vector : d.isVector → ∀ l < 96, q.act.getLsbD l → u.vectors (q.t.wb + d.toNat) w l = val l % 2 ^ (32 * w)
  zeroed : d.isVector → q.z → ∀ l < 96, q.act.getLsbD l = false → u.vectors (q.t.wb + d.toNat) w l = 0
  otherVectors : ∀ r l, l < 96 →
    ¬(d.isVector ∧ q.t.wb + d.toNat ≤ r ∧ r < q.t.wb + d.toNat + w ∧ (q.act.getLsbD l ∨ q.z)) → u.vreg r l = q.t.vreg r l
  scalar : d.isScalar → (d = 96 → w ≠ 2) → ∀ k < w, 1 ≤ scalarNo d + k → scalarNo d + k ≤ 28 →
    u.sreg (scalarNo d + k) = BitVec.ofNat 32 (val 0 / 2 ^ (32 * k))
  zero : d = 96 → w ≤ 2 → u.sregs = q.t.sregs
  otherScalars : ∀ n < 32, ¬(d.isScalar ∧ scalarNo d ≤ n ∧ n < scalarNo d + w) → u.sreg n = q.t.sreg n
  masks : ∀ l < 96, u.mask.getLsbD l =
    if d.isScalar ∧ q.x.members.getLsbD l ∧ scalarNo d ≤ 29 + l / 32 ∧ 29 + l / 32 < scalarNo d + w
    then (val 0 / 2 ^ (32 * (29 + l / 32 - scalarNo d))).testBit (l % 32) else q.t.mask.getLsbD l
  otherwise : u = { q.t with
    sregs := u.sregs, vregs := u.vregs, mask := u.mask, fflags := u.fflags, gens := u.gens, lastPop := u.lastPop }

/-- An issue of a register instruction completes: the flags it raises take no arithmetic trap (R49) and a write of the
activity mask leaves the slot a lane (R14), so it answers a next state in which `w` registers at `d` hold `val`, the flags
are raised, the generators drawn from have advanced, and nothing else has changed. -/
def Yields (i : Instr) (d : Reg) (w : Nat) (s : State) (q : Iss) (val : Nat → Nat) (flags : Flags)
    (gens : List (Nat × BitVec 24)) : Prop :=
  q.t.arithTraps flags = false →
  (d.isScalar → (q.t.setScalars q.x.members (scalarNo d) (wordsOf w (val 0))).isSome) →
  ∃ u, exec i s =
      .next (retire q i (delivered q i d u ((lanesOf q.act).map fun l => BitVec.ofNat 32 (val l)) (sourced s q i).1)) ∧
    Wrote q u d w val ∧ u.fflags = q.t.fflags ||| flags.setWidth 32 ∧
    u.gens = (q.t.setGens gens).gens ∧ u.lastPop = poppedCount s q i

/-- A register instruction completes with these values whenever it issues and its queues let it, the sources read once
its queue source has been popped (R145). -/
def Computes (i : Instr) (d : Reg) (w : Nat) (val : Iss → Nat → Nat) (flags : Iss → Flags := fun _ => 0)
    (gens : Iss → List (Nat × BitVec 24) := fun _ => []) : Prop :=
  ∀ s q, Issues s i q → queueStops s q.m (laneCount q.act) (instrUses i) = none →
    let r := (sourced s q i).2
    Yields i d w s q (val r) (flags r) (gens r)

/-- A float instruction completes: each lane's result comes from its generator's state, or from the lowest active lane's
in a uniform form (R46); the flags of all the lanes are raised together (R48, R152). -/
def ComputesFloat (i : Instr) (d : Reg) (w : Nat) (f : Iss → Nat → BitVec 24 → FRes) : Prop :=
  let res := fun (q : Iss) l => f q l (q.t.gen (drawLane q i l))
  Computes i d w (fun q l => (res q l).bits) (fun q => (q.lanes i).foldl (fun a l => a ||| (res q l).flags) 0)
    (fun q => ((q.lanes i).filter fun l => (res q l).g != q.t.gen (drawLane q i l)).map fun l => (drawLane q i l, (res q l).g))

/-- An instruction completes with an effect: it answers the state the effect leaves, its slot at the next word. -/
def Effects (i : Instr) (when' : Iss → State → Prop) (effect : Iss → State → State) : Prop :=
  ∀ s q, Issues s i q → when' q s → exec i s = .next (retire q i (effect q s))

/-- The issue ends with the slot where the effect put it (R127, R138, R395). -/
def ended (q : Iss) (i : Instr) (s : State) : State :=
  match i.shape with
  | some (p, sh) => afterIssue q sh (shapeUses p sh) s
  | none => s

/-- An instruction that itself moves its slot completes with an effect. -/
def Moves (i : Instr) (when' : Iss → State → Prop) (effect : Iss → State → State) : Prop :=
  ∀ s q, Issues s i q → when' q s → exec i s = .next (ended q i (effect q s))

/-- The issuing slot waits, its address unchanged (R137). -/
def waiting (q : Iss) (w : Wait) (s : State) : State :=
  updStrand s q.m.uid q.t.index fun t => updSlot t q.slot fun x => { x with wait := w }

/-- An instruction that waits leaves its slot at its own word, having done what it does before the wait. -/
def Waits (i : Instr) (when' : Iss → State → Prop) (w : Wait) (effect : Iss → State → State := fun _ s => s) : Prop :=
  ∀ s q, Issues s i q → when' q s → exec i s = .next (ended q i (waiting q w (effect q s)))

/-- The strand has entered its handler (R30, R364): the trap registers hold the return address, the cause and the value,
the slot stands at the handler's address, every other slot is held. -/
def entered (q : Iss) (cause : Nat) (value : Word) (ret : Dword) (s : State) : State :=
  updStrand s q.m.uid q.t.index fun t => { t with
    handler := true, trappc := ret, trapcause := BitVec.ofNat 32 cause, trapval := value
    live := t.live.zipIdx.map fun e =>
      if e.2 = q.slot then { e.1 with pc := q.m.image + BitVec.ofNat 64 q.m.header.trap, wait := .ready }
      else { e.1 with held := true }
    stack := t.stack.map fun x => { x with held := true } }

/-- The strand can take a trap: it is in user mode and its kernel names a handler (R30, R32). -/
def Iss.canTrap (q : Iss) : Prop := q.t.handler = false ∧ q.m.header.trap ≠ 0

/-- An instruction takes a trap that leaves its own address in trappc (R30). -/
def Traps (i : Instr) (when' : Iss → State → Prop) (cause : Nat) (value : Iss → Word) : Prop :=
  ∀ s q, Issues s i q → when' q s → q.canTrap → exec i s = .next (ended q i (entered q cause (value q) q.pc s))

/-- A write of scalar registers that leaves the slot an active lane (R14). -/
def keepsLanes (q : Iss) (d : Reg) (ws : List Word) : Prop := (q.t.setScalars q.x.members (scalarNo d) ws).isSome

/-- The issuing strand with scalar registers written (R13, R128). -/
def withWords (q : Iss) (d : Reg) (ws : List Word) : Strand :=
  (q.t.setScalars q.x.members (scalarNo d) ws).getD q.t

/-! ## Memory accesses -/

/-- The accesses of a memory instruction: each active lane's, or the one of a uniform form (R226). -/
def accesses (q : Iss) (perLane : Bool) (loc : Iss → Nat → Loc) : List LaneAcc :=
  (q.accLanes perLane).map fun l => { lane := l, loc := loc q l }

/-- A target that an access completes at: of the scratchpad, or of a store of the package on a line that holds no error and in
no frame being formatted (R219, R257). -/
def Target.plain (s : State) : Target → Bool
  | .scratch _ => true
  | .phys p e => !formatting s (.phys p e) && (p.space == .host || p.space == .window || !isPoisoned s p)
  | _ => false

/-- Whether a strongly ordered access finds a device's copy of its host line, which it writes back first (R228, R232; log
entry 71). -/
def findsCopy (s : State) (q : Iss) : Target → Bool
  | .phys a e => a.space == .host && e.ord == 1 && hostHeld s a.line.addr (vdevOf s (cidVd q.m.cid)).port
  | _ => false

/-- Accesses that complete on this package, each at its target: aligned, translated and granted, at plain targets (R26, R216,
R255); what a load waits for from a HOST page has come (R137, R256). One that writes a copy of a host line back is the only one,
since what else the copy overwrites is a free value (R249; log entry 8). -/
def LocalAt (s : State) (q : Iss) (target : LaneAcc → Target) (as : List LaneAcc) (n : Nat) (acc : Access) : Prop :=
  ∀ a ∈ as, a.loc.num % n = 0 ∧ (target a).plain s = true ∧ (findsCopy s q (target a) → as = [a]) ∧
    (acc = .read → (target a).isHost = true → hostArrived s q.asker = true)

/-- The same of accesses whose targets are those of one instruction (R211, R216). -/
def Local (s : State) (q : Iss) (as : List LaneAcc) (n : Nat) (acc : Access) : Prop :=
  LocalAt s q (laneTarget s q as n acc) as n acc

/-- A release through pod or system scope, or a write of a strongly ordered page, finds the strand's aperture stores
acknowledged (R241, R252). -/
def AcksIn (s : State) (q : Iss) (ts : List Target) : Prop :=
  (q.order.rel = true ∧ 5 ≤ q.order.scope) ∨ (∃ t ∈ ts, t.so = true) → putsOpen s q.m.uid q.t.index = false

/-- Accesses are in program order: no store waits for its point of performance, and the weaker mode is off (log
entry 3). -/
def State.inOrder (s : State) : Prop := s.weak = false ∧ s.pendStores = []

/-- The n bytes at a target: of the scratchpad, of the device's copy of a host line, of host memory once a copy has been
written back to it for a strongly ordered page, or of a store (R196, R204, R228; log entry 71). -/
def bytesAt (s : State) (q : Iss) (n : Nat) : Target → List Byte
  | .scratch off => readBytes q.m.scratch off n
  | .phys p e =>
    let line := if p.space = .host ∧ e.ord ≠ 1 then pointLine s (vdevOf s (cidVd q.m.cid)).port p
      else readLine (hostDirect s (cidVd q.m.cid) p) p
    (line.drop (p.addr % 128)).take n
  | _ => []

/-- Whether a byte of a store of the package lies in the n bytes at a target. -/
def hits (p : PAddr) (n : Nat) : Target → Prop
  | .phys a _ => a.space = p.space ∧ a.addr ≤ p.addr ∧ p.addr < a.addr + n
  | _ => False

/-- Whether a device's copy of a host line covers an address of host memory. -/
def HostLine.reaches (h : HostLine) (a : Nat) : Prop := ∃ i, (i ∈ h.changed ∨ i < h.bytes.length) ∧ a = h.line + i

/-- Whether a strongly ordered access writes a device's copy that covers the byte back before it (R228, R232; log entry
71). -/
def movesBack (s : State) (q : Iss) (p : PAddr) : Target → Prop
  | .phys a e => a.space = .host ∧ p.space = .host ∧ e.ord = 1 ∧
      ∃ h ∈ s.hostLines, h.line = a.line.addr ∧ h.port = (vdevOf s (cidVd q.m.cid)).port ∧ h.reaches p.addr
  | _ => False

/-- Whether the package's stores hold what they held, outside the bytes that the accesses store to and the host lines that
they write back. -/
def keepsOthers (s t : State) (q : Iss) (as : List LaneAcc) (n : Nat) : Prop :=
  let target := laneTarget s q as n .write
  ∀ p, (∀ a ∈ as, ¬hits p n (target a) ∧ ¬movesBack s q p (target a)) → byteAt t p = byteAt s p

/-- Whether the stores of the package and the motif's scratchpad hold what they held, but for the host lines that strongly
ordered loads write back. -/
def keepsAll (s t : State) (q : Iss) (as : List LaneAcc) (n : Nat) : Prop :=
  (∀ p, (∀ a ∈ as, ¬movesBack s q p (laneTarget s q as n .read a)) → byteAt t p = byteAt s p) ∧
    ∀ uid, scratchOf t uid = scratchOf s uid

/-- Nothing of the package's stores and of the motif's scratchpad has changed. -/
def sameMemory (s t : State) : Prop :=
  t.mem = s.mem ∧ t.tier2 = s.tier2 ∧ t.window = s.window ∧ t.hostMem = s.hostMem ∧
  ∀ uid, scratchOf t uid = scratchOf s uid

/-! ## Tensor handles -/

/-- A cached handle used: its copy becomes the most recently used (R294). -/
def touched (s : State) (q : Iss) (n : Nat) (c : CachedHandle) : State :=
  updCluster s q.m.die q.m.cluster fun cl =>
    { cl with handles := cl.handles.filter (fun e => !(e.cid == q.m.cid && e.handle == n)) ++ [c] }

/-- The entry of a handle that the issuing cluster holds (R294). -/
def heldEntry (s : State) (q : Iss) (n : Nat) (c : CachedHandle) : Prop := n < 4096 ∧ cachedEntry s q.m n = some c

/-- Bytes of an entry that a plain store of no lane reaches on this package (R197, R296, R297); on a strongly ordered page, whose
store releases, the strand's aperture stores are acknowledged (R241, R252). -/
def entryHere (s : State) (q : Iss) (va n : Nat) : Prop :=
  ∃ p e, resolve s q.view none va n .write = .phys p e ∧ p.space ≠ .host ∧ formatting s (.phys p e) = false ∧
    (p.space ≠ .window → isPoisoned s p = false) ∧ (e.ord = 1 → putsOpen s q.m.uid q.t.index = false)

/-- The bytes of an entry in memory, as they are read where such a store would reach (R296). -/
def entryBytes (s t : State) (q : Iss) (va n : Nat) : List Byte :=
  match resolve s q.view none va n .write with
  | .phys p _ => readBytes (spaceMem t p.space) p.addr n
  | _ => []

/-! ## The matrix sequencer -/

/-- A running sequencer issues an instruction whose feature, if it needs one, its device has accepted (R323, R422). -/
structure SeqIssues (s : State) (i : Instr) (z : SeqIss) : Prop where
  wf : i.wf = true
  issuer : seqIssuerOf s = some z
  running : z.q.ended = false
  features : seqRefused s (cidVd z.m.cid) i = false

/-- The state after a sequencer word that leaves its sequencer as `q`: at the next word, waiting for nothing, one cycle
later (R323). -/
def seqLeft (z : SeqIss) (q : Sequencer) (s : State) : State :=
  elapse (updSeq s z.m.uid fun _ => { q with pc := z.off + 4, wait := false, waits := [] }) 1

/-- A sequencer instruction completes, its sequencer as given. -/
def SeqDoes (i : Instr) (when' : SeqIss → State → Prop) (effect : SeqIss → Sequencer) : Prop :=
  ∀ s z, SeqIssues s i z → when' z s → exec i s = .next (seqLeft z (effect z) s)

/-- A sequencer instruction leaves a value in k register d, nothing where d is k0, and changes no other register
(R322, R326). -/
def SeqComputes (i : Instr) (regs : List Reg) (d : Reg) (v : SeqIss → Dword) : Prop :=
  ∀ s z, SeqIssues s i z → (∀ r ∈ regs, r.toNat < 32) →
    ∃ q, exec i s = .next (seqLeft z q s) ∧ q = { z.q with k := q.k } ∧
      ∀ n, q.kreg n = if n = d.toNat ∧ n ≠ 0 then v z else z.q.kreg n

/-- A sequencer instruction that waits stays at its word (R323). -/
def SeqWaits (i : Instr) (when' : SeqIss → State → Prop) : Prop :=
  ∀ s z, SeqIssues s i z → when' z s →
    exec i s = .next (elapse (updSeq s z.m.uid fun _ => { z.q with wait := true }) 1)

/-- A sequencer instruction that faults stops its sequencer with the code and the detail (R324). -/
def SeqFaults (i : Instr) (when' : SeqIss → State → Prop) (code : Nat) (detail : SeqIss → Nat) : Prop :=
  ∀ s z, SeqIssues s i z → when' z s →
    exec i s = .next (elapse (seqFaultAt s z.m z.off code (detail z) [] z.q.work) 1)

/-- The tile that a field names, one that the header lists (R322). -/
def namesTile (z : SeqIss) (r : Reg) (d : Nat) : Prop := r.toNat = 32 + d ∧ d < 4 ∧ z.m.header.acctiles.getLsbD d = true

/-- The entry of a handle that the motif's cluster holds (R294). -/
def seqHeld (s : State) (z : SeqIss) (h : Nat) (e : List Byte) : Prop :=
  ∃ c, cachedEntry s z.m h = some c ∧ e = c.image

/-! ## Packets -/

/-- A packet of a job with no cut block that this chip takes in and that is for it: nothing holds it in the receive buffer of
its link, and no error stands where the cut block would be (R412, R414, R448, R449, R460). -/
def taken (s : State) (link : Nat) (p : Packet) (op : Nat) : Prop :=
  p.op.toNat = op ∧ packetValid s p = true ∧ mustWait s link p = false ∧ packetReady s p = true ∧
    cutBlockOf s p.cid = none ∧ noticeBlock s p.cid = s ∧ packetLocal s p = true

/-- An answer to a packet's sender queued on the link of its route entry (R412, R414). -/
def answered (s t : State) (p : Packet) (op : Nat) (f : Packet → Prop) : Prop :=
  let e := tget 0 (vdevOf s (cidVd p.cid)).route p.src.toNat
  ∃ a, (linkOf t (routeLink s e)).out = (linkOf s (routeLink s e)).out ++ [(1, a.cls.toNat, a)] ∧ a.vc = 1 ∧
    a.op.toNat = op ∧ a.cid = p.cid ∧ a.dest = p.src ∧ a.rtag = p.rtag ∧ a.status = 0 ∧ f a

/-- Whether the table of a packet's device has an entry for a chip other than this one (R414). -/
def routedTo (s : State) (p : Packet) (chip : Nat) : Prop := routed s (cidVd p.cid) chip = true

/-- A CTRL packet of a job with a cut block that is for this chip and that nothing holds in the receive buffer of its link (R448,
R451). -/
def ctrlTaken (s : State) (link : Nat) (p : Packet) (kind : Nat) : Prop :=
  p.op = 9 ∧ packetValid s p = true ∧ mustWait s link p = false ∧ packetLocal s p = true ∧
    fieldAt p.payload 0 1 = kind ∧ (cutBlockOf s p.cid).isSome

/-! ## Integer values -/

/-- Element k of a register value (R34). -/
def elem (n k v : Nat) : BitVec n := BitVec.ofNat n (v / 2 ^ (n * k))

/-- Elements put together, element 0 lowest (R34). -/
def packed (n count : Nat) (f : Nat → BitVec n) : Nat := joinElems n ((List.range count).map fun k => (f k).toNat)

/-- Two sources combined element by element. -/
def zipElems (ty : IntTy) (f : BitVec ty.n → BitVec ty.n → BitVec ty.n) (a b : Nat) : Nat :=
  packed ty.n ty.count fun k => f (elem ty.n k a) (elem ty.n k b)

/-- One source taken element by element. -/
def mapElems (ty : IntTy) (f : BitVec ty.n → BitVec ty.n) (a : Nat) : Nat := packed ty.n ty.count fun k => f (elem ty.n k a)

/-- The integer that an element stands for in its type (R34). -/
def IntTy.int (ty : IntTy) (x : BitVec ty.n) : Int := if ty.sgn then x.toInt else x.toNat

/-- An exact integer clamped to the range of a type (R35). -/
def IntTy.clamp (ty : IntTy) (z : Int) : BitVec ty.n := BitVec.ofInt ty.n (max ty.lo (min ty.hi z))

/-- A condition of R67 on two words. -/
def Holds (c : BitVec 3) (x y : Word) : Bool :=
  match c.toNat with
  | 0 => x == y
  | 1 => x != y
  | 2 => x.slt y
  | 3 => x.sle y
  | 4 => y.slt x
  | 5 => y.sle x
  | 6 => x.ult y
  | _ => y.ule x

/-- A word given bit by bit. -/
def wordOfBits (f : Nat → Bool) : Nat := (BitVec.ofFnLE (n := 32) fun j => f j.val).toNat

/-- An integer as 32 bits, clamped to .i32 under sat (R35). -/
def fit32 (sat : Bool) (z : Int) : Nat :=
  (if sat then i32.clamp z else BitVec.ofInt 32 z : BitVec 32).toNat

end Sys2Proof.Machine
end

