-- ==== Sys2Proof/Certificates/Slice0/Obligations.lean ====
section
/-! DEFINITION. The statements for the provers. -/

open Sys2Proof Sys2Proof.Machine

/-! ## Integer instructions -/

/-- R93, R35: the element results of ADD, SUB, MUL and MAD, clamped under sat and wrapped without it; the high half of the
exact product, the quotient and the remainder with their fixed results for a zero divisor and for overflow, the smaller, the
larger, and the absolute difference. -/
def Obligations.IntegerArithmetic : Prop :=
  (∀ (p : Option Pfx) (w : FmtA),
    let ty := intTy w.fn
    let n := intW w.fn
    let out := fun (q : Iss) (exact : Int) (wrapped : BitVec ty.n) => if q.sat then ty.clamp exact else wrapped
    Computes (.add p w) w.d n (fun q l =>
      zipElems ty (fun x y => out q (ty.int x + ty.int y) (x + y)) (q.srcA w.a n l) (q.read w.b n l)) ∧
    Computes (.sub p w) w.d n (fun q l =>
      zipElems ty (fun x y => out q (ty.int x - ty.int y) (x - y)) (q.srcA w.a n l) (q.read w.b n l)) ∧
    Computes (.mul p w) w.d n (fun q l =>
      zipElems ty (fun x y => out q (ty.int x * ty.int y) (x * y)) (q.srcA w.a n l) (q.read w.b n l)) ∧
    Computes (.mad p w) w.d n (fun q l => packed ty.n ty.count fun k =>
      let x := elem ty.n k (q.srcA w.a n l)
      let y := elem ty.n k (q.read w.b n l)
      let z := elem ty.n k (q.read (fourth p w.d) n l)
      out q (ty.int x * ty.int y + ty.int z) (x * y + z))) ∧
  (∀ (p : Option Pfx) (w : FmtA),
    let ty := intTy w.fn
    let n := intW w.fn
    Computes (.mulh p w) w.d n (fun q l => zipElems ty (fun x y =>
      if ty.sgn then (x.signExtend (2 * ty.n) * y.signExtend (2 * ty.n)).extractLsb' ty.n ty.n
      else (x.setWidth (2 * ty.n) * y.setWidth (2 * ty.n)).extractLsb' ty.n ty.n) (q.srcA w.a n l) (q.read w.b n l)) ∧
    Computes (.div p w) w.d n (fun q l => zipElems ty (fun x y =>
      if y = 0 then BitVec.allOnes ty.n else if ty.sgn then x.sdiv y else x / y) (q.srcA w.a n l) (q.read w.b n l)) ∧
    Computes (.rem p w) w.d n (fun q l => zipElems ty (fun x y =>
      if y = 0 then x else if ty.sgn then x.srem y else x % y) (q.srcA w.a n l) (q.read w.b n l)) ∧
    Computes (.min p w) w.d n (fun q l => zipElems ty (fun x y =>
      if ty.int x ≤ ty.int y then x else y) (q.srcA w.a n l) (q.read w.b n l)) ∧
    Computes (.max p w) w.d n (fun q l => zipElems ty (fun x y =>
      if ty.int x ≤ ty.int y then y else x) (q.srcA w.a n l) (q.read w.b n l)) ∧
    Computes (.absd p w) w.d n (fun q l => zipElems ty (fun x y =>
      BitVec.ofInt ty.n |ty.int x - ty.int y|) (q.srcA w.a n l) (q.read w.b n l)))

/-- R93 to R96, R35: the bitwise operations, the shifts, whose count is the whole unsigned value of b, leading zeros, one
bits, the bits in reverse order, and the bit fields taken out and put in. -/
def Obligations.IntegerLogicAndBitFields : Prop :=
  (∀ (p : Option Pfx) (w : FmtA),
    let ty := intTy w.fn
    let n := intW w.fn
    let by' := fun (q : Iss) (l k : Nat) => if ty.count = 1 then q.read w.b 1 l else (elem ty.n k (q.read w.b 1 l)).toNat
    Computes (.and p w) w.d n (fun q l => zipElems ty (fun x y => x &&& y) (q.srcA w.a n l) (q.read w.b n l)) ∧
    Computes (.or p w) w.d n (fun q l => zipElems ty (fun x y => x ||| y) (q.srcA w.a n l) (q.read w.b n l)) ∧
    Computes (.xor p w) w.d n (fun q l => zipElems ty (fun x y => x ^^^ y) (q.srcA w.a n l) (q.read w.b n l)) ∧
    Computes (.andn p w) w.d n (fun q l => zipElems ty (fun x y => x &&& ~~~y) (q.srcA w.a n l) (q.read w.b n l)) ∧
    Computes (.shl p w) w.d n (fun q l => packed ty.n ty.count fun k => elem ty.n k (q.srcA w.a n l) <<< by' q l k) ∧
    Computes (.shr p w) w.d n (fun q l => packed ty.n ty.count fun k => elem ty.n k (q.srcA w.a n l) >>> by' q l k) ∧
    Computes (.sra p w) w.d n (fun q l => packed ty.n ty.count fun k => (elem ty.n k (q.srcA w.a n l)).sshiftRight (by' q l k)) ∧
    Computes (.rotl p w) w.d n (fun q l => packed ty.n ty.count fun k => (elem ty.n k (q.srcA w.a n l)).rotateLeft (by' q l k))) ∧
  (∀ (p : Option Pfx) (w : FmtA),
    let ty := intTy w.fn
    let n := intW w.fn
    let fieldOf := fun (v : Nat) => (v % 32, if v / 256 % 32 = 0 then 32 else v / 256 % 32)
    Computes (.clz p w) w.d 1 (fun q l => (elem ty.n 0 (q.srcA w.a n l)).clz.toNat) ∧
    Computes (.popc p w) w.d 1 (fun q l =>
      (List.range ty.n).countP fun k => (elem ty.n 0 (q.srcA w.a n l)).getLsbD k) ∧
    Computes (.brev p w) w.d n (fun q l => (elem ty.n 0 (q.srcA w.a n l)).reverse.toNat) ∧
    Computes (.bfe p w) w.d 1 (fun q l =>
      let a := elem 32 0 (q.srcA w.a 1 l)
      let (pos, len) := fieldOf (q.read w.b 1 l)
      wordOfBits fun j =>
        let k := if w.fn = 0 then min j (len - 1) else j
        if len ≤ k then false else if pos + k ≤ 31 then a.getLsbD (pos + k) else w.fn == 0 && a.msb) ∧
    Computes (.bfi p w) w.d 1 (fun q l =>
      let a := elem 32 0 (q.srcA w.a 1 l)
      let b := elem 32 0 (q.read w.b 1 l)
      let (pos, len) := fieldOf (q.read (fourth p w.d) 1 l)
      wordOfBits fun j => if pos ≤ j ∧ j < pos + len then b.getLsbD (j - pos) else a.getLsbD j))

/-- R97 to R104, R109: select, compare, conditions, address arithmetic, move, byte permutation and the four-way product; the
64-bit product and sum of 32-bit sources, and the addition of a 32-bit source to a pair. -/
def Obligations.IntegerSelectionsAndWideArithmetic : Prop :=
  (∀ (p : Option Pfx) (w : FmtA),
    let ty := intTy w.fn
    let n := intW w.fn
    let c := fourth p w.d
    Computes (.sel p w) w.d n (fun q l => if q.read c 1 l = 0 then q.read w.b n l else q.srcA w.a n l) ∧
    Computes (.cmp p w) w.d 1 (fun q l =>
      let out := if ty.n = 64 then 32 else ty.n
      packed out ty.count fun k =>
        let x := ty.int (elem ty.n k (q.srcA w.a n l))
        let y := ty.int (elem ty.n k (q.read w.b n l))
        BitVec.ofInt out (if x < y then -1 else if x = y then 0 else 1)) ∧
    Computes (.setcc p w) w.d 1 (fun q l =>
      if Holds w.fn (elem 32 0 (q.srcA w.a 1 l)) (elem 32 0 (q.read w.b 1 l)) then 1 else 0) ∧
    Computes (.lea p w) w.d 2 (fun q l =>
      (elem 64 0 (q.srcA w.a 2 l) + elem 64 0 (q.read w.b 2 l) <<< w.fn.toNat).toNat) ∧
    Computes (.mov p w) w.d n (fun q l => q.srcA w.a n l) ∧
    Computes (.prmt p w) w.d 1 (fun q l =>
      let src := elem 32 0 (q.read w.b 1 l) ++ elem 32 0 (q.srcA w.a 1 l)
      packed 8 4 fun k =>
        let sel := elem 4 k (q.read c 1 l)
        let byte := src.extractLsb' (8 * (sel.toNat % 8)) 8
        if sel.msb then (if byte.msb then 255 else 0) else byte) ∧
    Computes (.dot4 p w) w.d 1 (fun q l =>
      let out : IntTy := { n := 32, count := 1, sgn := ty.sgn }
      let z := out.int (elem 32 0 (q.read c 1 l)) + ((List.range ty.count).map fun k =>
        ty.int (elem ty.n k (q.srcA w.a 1 l)) * ty.int (elem ty.n k (q.read w.b 1 l))).sum
      (if q.sat then out.clamp z else BitVec.ofInt 32 z : BitVec 32).toNat)) ∧
  (∀ (p : Option Pfx) (w : FmtA),
    let wide := fun (x : Word) => if w.fn = 0 then x.signExtend 64 else x.setWidth 64
    let a := fun (q : Iss) l => wide (elem 32 0 (q.srcA w.a 1 l))
    let b := fun (q : Iss) l => wide (elem 32 0 (q.read w.b 1 l))
    let ty := intTy (if w.fn = 0 then 2 else 3)
    Computes (.mulw p w) w.d 2 (fun q l => (a q l * b q l).toNat) ∧
    Computes (.madw p w) w.d 2 (fun q l =>
      let c := elem 64 0 (q.read (fourth p w.d) 2 l)
      (if q.sat then ty.clamp ((a q l).toInt * (b q l).toInt + c.toInt) else (a q l * b q l + c).setWidth _).toNat) ∧
    Computes (.addp p w) w.d 2 (fun q l => (elem 64 0 (q.srcA w.a 2 l) + b q l).toNat))

/-- R105 to R108: arithmetic, logic and shifts with an immediate, comparisons with one, immediate bit fields, and the
constants; LUIH writes the odd register of its pair and nothing of the pair s0. -/
def Obligations.ImmediateForms : Prop :=
  (∀ (p : Option Pfx) (w : FmtB),
    let a := fun (q : Iss) l => elem 32 0 (q.srcA w.a 1 l)
    let pair := fun (q : Iss) l => elem 64 0 (q.srcA w.a 2 l)
    let m : Word := w.imm.signExtend 32
    let c := w.imm.toNat
    Computes (.addi p w) w.d 1 (fun q l => fit32 q.sat ((a q l).toInt + m.toInt)) ∧
    Computes (.muli p w) w.d 1 (fun q l => fit32 q.sat ((a q l).toInt * m.toInt)) ∧
    Computes (.andi p w) w.d 1 (fun q l => (a q l &&& m).toNat) ∧
    Computes (.ori p w) w.d 1 (fun q l => (a q l ||| m).toNat) ∧
    Computes (.xori p w) w.d 1 (fun q l => (a q l ^^^ m).toNat) ∧
    Computes (.shli p w) w.d 1 (fun q l => (a q l <<< c).toNat) ∧
    Computes (.shri p w) w.d 1 (fun q l => (a q l >>> c).toNat) ∧
    Computes (.srai p w) w.d 1 (fun q l => ((a q l).sshiftRight c).toNat) ∧
    Computes (.rotli p w) w.d 1 (fun q l => ((a q l).rotateLeft c).toNat) ∧
    Computes (.mini p w) w.d 1 (fun q l => (if (a q l).sle m then a q l else m).toNat) ∧
    Computes (.maxi p w) w.d 1 (fun q l => (if (a q l).sle m then m else a q l).toNat) ∧
    Computes (.addip p w) w.d 2 (fun q l =>
      let z := (pair q l).toInt + m.toInt
      (if q.sat then (intTy 2).clamp z else BitVec.ofInt 64 z : BitVec 64).toNat) ∧
    Computes (.shlp p w) w.d 2 (fun q l => (pair q l <<< c).toNat) ∧
    Computes (.shrp p w) w.d 2 (fun q l => (pair q l >>> c).toNat)) ∧
  (∀ (p : Option Pfx) (c : FmtBC) (f : FmtBF) (w : FmtU),
    let m : Word := if 6 ≤ c.cond.toNat then c.imm.setWidth 32 else c.imm.signExtend 32
    let len := if f.len = 0 then 32 else f.len.toNat
    Computes (.cmpi p c) c.d 1 (fun q l => if Holds c.cond (elem 32 0 (q.srcA c.a 1 l)) m then 2 ^ 32 - 1 else 0) ∧
    Computes (.setcci p c) c.d 1 (fun q l => if Holds c.cond (elem 32 0 (q.srcA c.a 1 l)) m then 1 else 0) ∧
    Computes (.bfei p f) f.d 1 (fun q l => wordOfBits fun j =>
      decide (j < len ∧ f.pos.toNat + j < 32) && (elem 32 0 (q.srcA f.a 1 l)).getLsbD (f.pos.toNat + j)) ∧
    Computes (.bfii p f) f.d 1 (fun q l => wordOfBits fun j =>
      if f.pos.toNat ≤ j ∧ j < f.pos.toNat + len then (elem 32 0 (q.srcA f.a 1 l)).getLsbD (j - f.pos.toNat)
      else (elem 32 0 (q.read f.d 1 l)).getLsbD j) ∧
    Computes (.lui p w) w.d 1 (fun _ _ => (w.imm ++ 0#15).toNat) ∧
    Computes (.llo p w) w.d 1 (fun q l =>
      ((elem 32 0 (q.read w.d 1 l)).extractLsb' 15 17 ++ w.imm.extractLsb' 0 15).toNat) ∧
    Computes (.movi p w) w.d 1 (fun _ _ => (w.imm.signExtend 32).toNat) ∧
    Computes (.fli p w) w.d (if w.imm.getLsbD 16 then 2 else 1) (fun _ _ =>
      let f := if w.imm.getLsbD 16 then f64 else f32
      match f16.unpack (w.imm.extractLsb' 0 16).toNat with
      | .nan _ => f.canonNaN
      | .inf neg => f.inf neg
      | .fin neg v e => if v = 0 then f.signBit neg else f.encode neg v e) ∧
    (w.d ≠ 96 → Computes (.luih p w) (w.d + 1) 1 (fun _ _ => (w.imm ++ 0#15).toNat)) ∧
    (w.d = 96 → Effects (.luih p w) (fun _ _ => True) (fun q s => putStrand s q q.t)))

/-! ## Cross-lane instructions -/

/-- R102, R163 to R166, R168: lanes read and written by number, shuffles, votes, ballots and groups of equal values. -/
def Obligations.LaneExchange : Prop :=
  ∀ (p : Option Pfx) (w : FmtA),
    let n := intW w.fn
    let active := fun (q : Iss) => lanesOf q.act
    let held := fun (q : Iss) (k : Nat) (x : Int) =>
      if 0 ≤ x ∧ x < 96 ∧ q.t.launched.getLsbD x.toNat then q.read w.a k x.toNat else 0
    Computes (.readlane p w) w.d n (fun q _ => held q n (q.read w.b 1 0)) ∧
    (∀ s q, Issues s (.writelane p w) q → ∃ u,
      exec (.writelane p w) s = .next (retire q (.writelane p w) (putStrand s q u)) ∧
      u = { q.t with vregs := u.vregs } ∧
      ∀ r l, l < 96 → u.vreg r l =
        let base := q.t.wb + w.d.toNat
        let idx := q.read w.b 1 0
        if base ≤ r ∧ r < base + n then
          (if l = idx ∧ q.act.getLsbD l then BitVec.ofNat 32 (q.read w.a n 0 / 2 ^ (32 * (r - base)))
           else if q.z ∧ ¬q.act.getLsbD l then 0 else q.t.vreg r l)
        else q.t.vreg r l) ∧
    Computes (.shfl p w) w.d 1 (fun q l =>
      let b : Int := q.read w.b 1 l
      held q 1 (match w.fn.toNat with
        | 0 => b
        | 1 => l - b
        | 2 => l + b
        | 3 => (l ^^^ b.toNat : Nat)
        | _ => 32 * (l / 32) + b % 32)) ∧
    Computes (.vote p w) w.d 1 (fun q _ =>
      if (match w.fn.toNat with
        | 0 => ∀ l ∈ active q, q.read w.a 1 l ≠ 0
        | 1 => ∃ l ∈ active q, q.read w.a 1 l ≠ 0
        | _ => ∀ l ∈ active q, ∀ k ∈ active q, q.read w.a 1 l = q.read w.a 1 k : Bool) then 1 else 0) ∧
    (scalarNo w.d ≤ 26 ∨ scalarNo w.d = 29 →
      Computes (.ballot p w) w.d 3 (fun q _ =>
        (BitVec.ofFnLE (n := 96) fun l => q.act.getLsbD l.val && q.read w.a 1 l.val != 0).toNat)) ∧
    (26 < scalarNo w.d ∧ scalarNo w.d ≠ 29 →
      Traps (.ballot p w) (fun _ _ => True) 2 (fun _ => BitVec.ofNat 32 w.d.toNat)) ∧
    Computes (.match p w) w.d 1 (fun q l =>
      let k := if w.fn = 1 then 2 else 1
      let same := (active q).filter fun j => q.read w.a k j == q.read w.a k l
      same.headD 0 + 2 ^ 8 * same.length)

/-- R60, R167: the reductions and the prefix combinations over the contributing lanes: exact for integers, by the fixed tree
for float sums, by FMIN and FMAX for float extremes, with the identity where nothing contributes. -/
def Obligations.Reductions : Prop :=
  ∀ (p : Option Pfx) (w : FmtA),
    let ty := intTy w.fn
    let op := (w.b.extractLsb' 4 3).toNat
    let n := if w.fn = 2 ∨ w.fn = 3 ∨ w.fn = 5 then 2 else 1
    let whole := fun (q : Iss) (lanes : List Nat) =>
      let xs := lanes.map fun l => elem ty.n 0 (q.read w.a n l)
      let sum := (xs.map ty.int).sum
      (match op with
        | 0 => if q.sat then ty.clamp sum else BitVec.ofInt ty.n sum
        | 1 => xs.foldl (fun a x => if ty.int x ≤ ty.int a then x else a) (BitVec.ofInt ty.n ty.hi)
        | 2 => xs.foldl (fun a x => if ty.int a ≤ ty.int x then x else a) (BitVec.ofInt ty.n ty.lo)
        | 3 => xs.foldl (· &&& ·) (BitVec.allOnes ty.n)
        | 4 => xs.foldl (· ||| ·) 0
        | _ => xs.foldl (· ^^^ ·) 0 : BitVec ty.n).toNat
    let f := if w.fn = 5 then f64 else f32
    let real : Iss → List Nat → SumState → Nat × SumState := fun q lanes st =>
      let v := fun l => q.read w.a n l
      match op, lanes with
      | 0, _ => treeSum f q.rmode q.sat ((List.range 96).map fun l => if l ∈ lanes then v l else 0) st
      | 1, [] => (f.inf false, st)
      | _, [] => (f.inf true, st)
      | _, l :: ls =>
        let first := f.minmax (op == 2) (v l) (v l)
        ls.foldl (fun a k => ((f.minmax (op == 2) a.1 (v k)).1,
          { a.2 with flags := a.2.flags ||| (f.minmax (op == 2) a.1 (v k)).2 })) (first.1, { st with flags := st.flags ||| first.2 })
    let drawer := fun (q : Iss) => (lowest q.act).getD 0
    let start := fun (q : Iss) => ({ flags := 0, g := q.t.gen (drawer q) } : SumState)
    let drawn := fun (q : Iss) (st : SumState) => if st.g = q.t.gen (drawer q) then [] else [(drawer q, st.g)]
    let below := fun (q : Iss) (l : Nat) => (lanesOf q.act).filter fun k => decide (k < l) || (!w.b.getLsbD 3 && k == l)
    let scan := fun (q : Iss) => (lanesOf q.act).foldl (fun (a : List (Nat × Nat) × SumState) l =>
      let r := real q (below q l) a.2
      (a.1 ++ [(l, r.1)], r.2)) ([], start q)
    (w.fn.toNat < 4 →
      Computes (.redux p w) w.d n (fun q _ => whole q (lanesOf q.act)) ∧
      Computes (.scan p w) w.d n (fun q l => whole q (below q l))) ∧
    (4 ≤ w.fn.toNat →
      Computes (.redux p w) w.d n (fun q _ => (real q (lanesOf q.act) (start q)).1)
        (fun q => (real q (lanesOf q.act) (start q)).2.flags) (fun q => drawn q (real q (lanesOf q.act) (start q)).2) ∧
      Computes (.scan p w) w.d n (fun q l => ((scan q).1.lookup l).getD 0)
        (fun q => (scan q).2.flags) (fun q => drawn q (scan q).2))

/-! ## Floating point -/

/-- R39, R41 to R44: a value that the format holds rounds to its own encoding in every mode, raises no flag and draws
nothing; any other that does not overflow goes to the neighbour that its mode names, a nearest one under RN and RNA. -/
def Obligations.Rounding : Prop :=
  (∀ f ∈ [f32, f64, f16, bf16, e4m3, e5m2], ∀ (mode : RMode) (sat : Bool) (g : BitVec 24) (x : Nat) (neg : Bool) (m : Nat)
    (e : Int), x < 2 ^ f.width → f.unpack x = .fin neg m e → f.roundFin mode sat g neg m e = { bits := x, flags := 0, g := g }) ∧
  (∀ f ∈ [f32, f64, f16, bf16, e5m2], ∀ (mode : RMode) (g : BitVec 24) (neg : Bool) (m : Nat) (e : Int),
    mode ≠ .sr → 0 < m → (m : Rat) * 2 ^ e ≤ ((2 ^ (f.fbits + 1) - 1 : Nat) : Rat) * 2 ^ ((f.bias : Int) - f.fbits) →
    ∃ k q, f.unpack (f.roundFin mode false g neg m e).bits = .fin neg k q ∧
      (mode = .rz → (k : Rat) * 2 ^ q ≤ m * 2 ^ e) ∧
      (mode = .rd → if neg then (m : Rat) * 2 ^ e ≤ k * 2 ^ q else (k : Rat) * 2 ^ q ≤ m * 2 ^ e) ∧
      (mode = .ru → if neg then (k : Rat) * 2 ^ q ≤ m * 2 ^ e else (m : Rat) * 2 ^ e ≤ k * 2 ^ q) ∧
      ((f.roundFin mode false g neg m e).flags.getLsbD 0 = false ↔ (k : Rat) * 2 ^ q = m * 2 ^ e) ∧
      ∀ x k' q', x < 2 ^ f.width → f.unpack x = .fin neg k' q' →
        ¬((k : Rat) * 2 ^ q < k' * 2 ^ q' ∧ (k' : Rat) * 2 ^ q' < m * 2 ^ e) ∧
        ¬((m : Rat) * 2 ^ e < k' * 2 ^ q' ∧ (k' : Rat) * 2 ^ q' < k * 2 ^ q) ∧
        (mode = .rn ∨ mode = .rna → |(m : Rat) * 2 ^ e - k * 2 ^ q| ≤ |(m : Rat) * 2 ^ e - k' * 2 ^ q'|))

/-- R48, R152 to R154: the arithmetic, element by element on the signed-modified sources, one rounding each, FDIVA in its
two steps; and its special cases. -/
def Obligations.FloatArithmetic : Prop :=
  (∀ (p : Option Pfx) (w : FmtA),
    let f := (fltTy w.fn).f
    let n := fltW w.fn
    let each := fun (h : Nat → BitVec 24 → FRes) => eachElem f.width h (List.range (fltTy w.fn).count)
    let x := fun (q : Iss) l k => f.unpack (q.modA f (q.srcA w.a n l) k)
    let y := fun (q : Iss) l k => f.unpack (q.modB f (q.read w.b n l) k)
    let z := fun (q : Iss) l k => f.unpack (elemAt f.width k (q.read (fourth p w.d) n l))
    ComputesFloat (.fadd p w) w.d n (fun q l => each fun k g => f.add q.rmode q.sat g (x q l k) (y q l k)) ∧
    ComputesFloat (.fsub p w) w.d n (fun q l => each fun k g => f.add q.rmode q.sat g (x q l k) (y q l k).negate) ∧
    ComputesFloat (.fmul p w) w.d n (fun q l => each fun k g => f.mul q.rmode q.sat g (x q l k) (y q l k)) ∧
    ComputesFloat (.ffma p w) w.d n (fun q l => each fun k g => f.fma q.rmode q.sat g (x q l k) (y q l k) (z q l k)) ∧
    ComputesFloat (.fdiv p w) w.d n (fun q l => each fun k g => f.div q.rmode q.sat g (x q l k) (y q l k)) ∧
    ComputesFloat (.fsqrt p w) w.d n (fun q l => each fun k g => f.sqrt q.rmode q.sat g (x q l k)) ∧
    ComputesFloat (.fdiva p w) w.d n (fun q l => each fun k g =>
      let recip := f.div .rn false g FV.one (y q l k)
      let prod := f.mul q.rmode q.sat g (x q l k) (f.unpack recip.bits)
      { prod with flags := prod.flags ||| recip.flags }) ∧
    ComputesFloat (.frnd p w) w.d n (fun q l => each fun k g => f.rnd q.rmode q.sat g (x q l k)) ∧
    ComputesFloat (.ffrc p w) w.d n (fun q l => each fun k g => f.frc g (x q l k)) ∧
    ComputesFloat (.fscale p w) w.d n (fun q l => each fun k g =>
      f.scale q.rmode q.sat g (x q l k) (elem 32 0 (q.read w.b 1 l)).toInt) ∧
    ComputesFloat (.fdot2 p w) w.d 1 (fun q l g =>
      let x := fun k => f.unpack (q.modA f (q.srcA w.a 1 l) k)
      let y := fun k => f.unpack (q.modB f (q.read w.b 1 l) k)
      f32.dot2 q.rmode q.sat g (x 0) (y 0) (x 1) (y 1) (f32.unpack (q.read (fourth p w.d) 1 l))) ∧
    Computes (.fsgn p w) w.d n (fun q l => packed f.width (fltTy w.fn).count fun k =>
      let a := BitVec.ofNat f.width (q.modA f (q.srcA w.a n l) k)
      let b := BitVec.ofNat f.width (q.modB f (q.read w.b n l) k)
      (a &&& (BitVec.allOnes f.width >>> 1)) ||| (b &&& ~~~(BitVec.allOnes f.width >>> 1)))) ∧
  (∀ f ∈ [f32, f64, f16, bf16], ∀ (mode : RMode) (g : BitVec 24) (n n' : Bool) (m m' : Nat) (e e' : Int), 0 < m → 0 < m' →
    let zero := fun s e => FV.fin s 0 e
    let is := fun (r : FRes) bits flags => r = { bits := bits, flags := flags, g := g }
    is (f.add mode false g (zero n e) (zero n e')) (f.signBit n) 0 ∧
    is (f.add mode false g (.fin n m e) (.fin (!n) m e)) (f.signBit (mode == .rd)) 0 ∧
    is (f.div mode false g (.fin n m e) (zero n' e')) (f.inf (n != n')) fDZ ∧
    is (f.div mode false g (zero n e) (zero n' e')) f.canonNaN fNV ∧
    is (f.div mode false g (.inf n) (.inf n')) f.canonNaN fNV ∧
    is (f.div mode false g (.fin n m e) (.inf n')) (f.signBit (n != n')) 0 ∧
    is (f.sqrt mode false g (zero n e)) (f.signBit n) 0 ∧
    is (f.sqrt mode false g (.fin true m e)) f.canonNaN fNV ∧
    is (f.add mode false g (.inf n) (.inf (!n))) f.canonNaN fNV ∧
    is (f.mul mode false g (zero n e) (.inf n')) f.canonNaN fNV ∧
    is (f.mul mode false g (.inf n) (.fin n' m' e')) (f.inf (n != n')) 0 ∧
    is (f.frc g (.inf n)) f.canonNaN fNV ∧
    is (f.diva mode false g (zero n e) (zero n' e')) f.canonNaN (fDZ ||| fNV))

/-- R155: the transcendental instructions, element by element; R61's one answer is the model's function of each. Log entry
8. -/
def Obligations.Transcendentals : Prop :=
  ∀ (p : Option Pfx) (w : FmtA),
    let f := (fltTy w.fn).f
    let n := fltW w.fn
    let each := fun (h : Nat → BitVec 24 → FRes) => eachElem f.width h (List.range (fltTy w.fn).count)
    let x := fun (q : Iss) l k => q.modA f (q.srcA w.a n l) k
    ComputesFloat (.frcp p w) w.d n (fun q l => each fun k g => f.div q.rmode q.sat g FV.one (f.unpack (x q l k))) ∧
    ComputesFloat (.frsq p w) w.d n (fun q l => each fun k g => f.rsqrt q.rmode q.sat g (f.unpack (x q l k))) ∧
    ComputesFloat (.fexp2 p w) w.d n (fun q l => each fun k g => f.exp2 q.rmode q.sat g (x q l k)) ∧
    ComputesFloat (.flog2 p w) w.d n (fun q l => each fun k g => f.log2 q.rmode q.sat g (x q l k)) ∧
    ComputesFloat (.fsin p w) w.d n (fun q l => each fun k g => f.sinCos false q.rmode q.sat g (x q l k)) ∧
    ComputesFloat (.fcos p w) w.d n (fun q l => each fun k g => f.sinCos true q.rmode q.sat g (x q l k)) ∧
    ComputesFloat (.ftanh p w) w.d n (fun q l => each fun k g => f.tanh q.rmode q.sat g (x q l k))

/-- R156: the smaller, the larger, the comparison codes and the class masks. -/
def Obligations.FloatComparisons : Prop :=
  ∀ (p : Option Pfx) (w : FmtA),
    let f := (fltTy w.fn).f
    let n := fltW w.fn
    let elems := List.range (fltTy w.fn).count
    let out := if (fltTy w.fn).count = 1 then 32 else 16
    let a := fun (q : Iss) l k => q.modA f (q.srcA w.a n l) k
    let b := fun (q : Iss) l k => q.modB f (q.read w.b n l) k
    let nv := fun (c : Bool) => if c then fNV else 0
    ComputesFloat (.fmin p w) w.d n (fun q l => eachElem f.width (fun k g =>
      { bits := (f.minmax false (a q l k) (b q l k)).1, flags := (f.minmax false (a q l k) (b q l k)).2, g := g }) elems) ∧
    ComputesFloat (.fmax p w) w.d n (fun q l => eachElem f.width (fun k g =>
      { bits := (f.minmax true (a q l k) (b q l k)).1, flags := (f.minmax true (a q l k) (b q l k)).2, g := g }) elems) ∧
    ComputesFloat (.fcmp p w) w.d 1 (fun q l => eachElem out (fun k g =>
      let x := f.unpack (a q l k)
      let y := f.unpack (b q l k)
      { bits := match cmpFV x y with
          | .lt => 2 ^ out - 1
          | .eq => 0
          | .gt => 1
          | .un => 2
        flags := nv (x.snan || y.snan), g := g }) elems) ∧
    ComputesFloat (.fsetcc p w) w.d 1 (fun q l g =>
      let f := if w.fn.getLsbD 0 then f64 else f32
      let n := if w.fn.getLsbD 0 then 2 else 1
      let x := f.unpack (q.modA f (q.srcA w.a n l) 0)
      let y := f.unpack (q.modB f (q.read w.b n l) 0)
      let quiet := w.fn.extractLsb' 1 2 = 0 ∨ w.fn.extractLsb' 1 2 = 3
      let yes : Bool := match (w.fn.extractLsb' 1 2).toNat with
        | 0 => cmpFV x y == .eq
        | 1 => cmpFV x y == .lt
        | 2 => cmpFV x y == .lt || cmpFV x y == .eq
        | _ => cmpFV x y == .un
      { bits := if yes then 2 ^ 32 - 1 else 0
        flags := nv (x.snan || y.snan || (decide (¬quiet) && cmpFV x y == .un)), g := g }) ∧
    Computes (.fclass p w) w.d 1 (fun q l => packed out (fltTy w.fn).count fun k =>
      BitVec.ofNat out (f.classify (elemAt f.width k (q.srcA w.a n l))))

/-- R44, R157 to R160: the conversions between float formats and between floats and integers, packing and unpacking. R50 to
R57, R161, R162: each beat quantised as one block under the native or the compatibility scale, a lane's code rounded with
its own generator; and a code's value under its scale byte. R346, R355: SEEDEXP gives each active lane its weight of the
record it names. -/
def Obligations.ConversionsAndExpansion : Prop :=
  (∀ (p : Option Pfx) (w : FmtA),
    let dst := cvtFmt (w.b.extractLsb' 4 3).toNat
    let src := cvtFmt (w.b.extractLsb' 0 3).toNat
    let regs := fun (f : FFmt) => if f = f64 then 2 else 1
    let ty := icvtTy (w.b.extractLsb' 3 3).toNat
    let iregs := if ty.n = 64 then 2 else 1
    ComputesFloat (.fcvt p w) w.d (regs dst) (fun q l g =>
      let x := q.modA src (q.srcA w.a (regs src) l) w.fn.toNat
      match src.unpack x with
      | .nan s => { bits := dst.canonNaN, flags := if s then fNV else 0, g := g }
      | .inf neg => { bits := if q.sat then dst.max neg else dst.inf neg, flags := 0, g := g }
      | v => if src = dst then { bits := x, flags := 0, g := g } else dst.round q.rmode q.sat g 0 v.toXV) ∧
    (w.b.getLsbD 6 → ComputesFloat (.icvt p w) w.d iregs (fun q l g =>
      match src.unpack (q.modA src (q.srcA w.a (regs src) l) 0) with
      | .nan _ => { bits := 0, flags := fNV, g := g }
      | .inf neg => { bits := (BitVec.ofInt (32 * iregs) (if neg then ty.lo else ty.hi)).toNat, flags := fNV, g := g }
      | .fin neg m e =>
        let r := roundInt q.rmode g neg m e
        let z : Int := if neg then -r.1 else r.1
        { bits := (BitVec.ofInt (32 * iregs) (max ty.lo (min ty.hi z))).toNat
          flags := if z < ty.lo ∨ ty.hi < z then fNV else if r.2.1 then fNX else 0, g := r.2.2 })) ∧
    (w.b.getLsbD 6 = false → ComputesFloat (.icvt p w) w.d (regs src) (fun q l g =>
      let z := ty.int (elem ty.n 0 (q.srcA w.a iregs l))
      src.roundFin q.rmode q.sat g (decide (z < 0)) z.natAbs 0)) ∧
    ComputesFloat (.fpack p w) w.d 1 (fun q l =>
      let (from', to') := [(f32, bf16), (f32, f16), (bf16, e4m3), (bf16, e5m2), (f16, e4m3), (f16, e5m2)].getD w.fn.toNat (f16, e5m2)
      let n := 32 / from'.width
      eachElem to'.width (fun k g => convertF from' to' q.rmode q.sat g
        (if k < n then elemAt from'.width k (q.srcA w.a 1 l) else elemAt from'.width (k - n) (q.read w.b 1 l))) (List.range (2 * n))) ∧
    ComputesFloat (.funpk p w) w.d 2 (fun q l =>
      let (from', to') := [(bf16, f32), (f16, f32), (e4m3, bf16), (e5m2, bf16), (e4m3, f16), (e5m2, f16)].getD w.fn.toNat (e5m2, f16)
      eachElem to'.width (fun k g => convertF from' to' .rn q.sat g (elemAt from'.width k (q.srcA w.a 1 l)))
        (List.range (64 / to'.width)))) ∧
  (∀ (p : Option Pfx) (w : FmtA),
    let ty := w.fn.toNat
    let v := fun (q : Iss) l => f32.unpack (q.srcA w.a 1 l)
    let beat := fun (q : Iss) l => (lanesOf q.act).filter fun k => k / 32 == l / 32
    let scale := fun (compat : Bool) (q : Iss) l =>
      let vs := (beat q l).map (v q)
      if vs.any FV.special then 63 else if compat then compatScale ty vs else nativeScale ty q.rmode vs
    let code := fun (compat : Bool) (q : Iss) l =>
      if scale compat q l = 63 then (0, fNV, q.t.gen l) else codeElem ty q.rmode (q.t.gen l) (v q l) (scale compat q l)
    let quantised := fun (compat : Bool) (i : Instr) =>
      Computes i w.d 1 (fun q l => ((if ty < 4 then ty else 0) * 64 + scale compat q l) * 256 + (code compat q l).1)
        (fun q => (lanesOf q.act).foldl (fun a l => a ||| (code compat q l).2.1) 0)
        (fun q => ((lanesOf q.act).filter fun l => (code compat q l).2.2 != q.t.gen l).map fun l => (l, (code compat q l).2.2))
    quantised false (.qnt p w) ∧ quantised true (.qntc p w) ∧
    ComputesFloat (.dqnt p w) w.d 1 (fun q l g =>
      let x := BitVec.ofNat 16 (q.srcA w.a 1 l)
      let code := (x.extractLsb' 0 8).toNat
      let e := (x.extractLsb' 8 6).toNat
      let kind := (x.extractLsb' 14 2).toNat
      let dst := if ty = 0 ∨ ty = 2 ∨ ty = 3 then f32 else bf16
      if ty ≤ 1 then dst.round .rn false g 0 (codeValue kind e code)
      else if kind = 0 then dst.round .rn false g 0 (codeValue (if ty = 2 ∨ ty = 4 then 4 else 5) e code)
      else dst.nanRes fNV g)) ∧
  (∀ (p : Option Pfx) (w : FmtA),
    let f := if w.fn = 1 then bf16 else f32
    let weight := fun (q : Iss) l => f.round .rn false 0 0 ((seedWeights (q.read w.a 2 l)).getD (l % 32) .nan)
    Computes (.seedexp p w) w.d 1 (fun q l => (weight q l).bits)
      (fun q => (lanesOf q.act).foldl (fun a l => a ||| (weight q l).flags) 0))

/-! ## Special registers and events -/

/-- R19, R29, R42, R46, R47, R120, R122 to R124: MOVS gives a destination the content of a special register, per lane for a
per-lane destination and the lowest active lane's for a scalar one; what a write of each writable one leaves, and WINDOW. -/
def Obligations.SpecialRegisters : Prop :=
  (∀ (p : Option Pfx) (w : FmtU) (s : State) (q : Iss), Issues s (.movs p w) q →
    queueStops s q.m (laneCount q.act) (instrUses (.movs p w)) = none →
    let n := w.imm.toNat
    let content := fun l => specialRead s q n l
    Yields (.movs p w) w.d (specialW n) s q (fun l => content (if w.d.isScalar then (lowest q.act).getD 0 else l)) 0 [] ∧
    (n = 0x00 → ∀ l, content l = l) ∧
    (n = 0x01 → ∀ l, content l = q.t.index) ∧
    (n = 0x02 → ∀ l, content l = q.m.header.strands) ∧
    (n = 0x03 → ∀ l, content l = q.m.motifid.toNat) ∧
    (n = 0x08 → ∀ l, content l = q.t.index % 4) ∧
    (n = 0x10 → ∀ l, content l = q.m.image.toNat) ∧
    (n = 0x30 → ∀ l, content l = q.t.frm.toNat) ∧
    (n = 0x31 → ∀ l, content l = q.t.fflags.toNat) ∧
    (n = 0x32 → ∀ l, content l = q.t.fexc.toNat) ∧
    (n = 0x33 → ∀ l, content l = q.t.srseed.toNat) ∧
    (n = 0x40 → ∀ l, content l = if q.t.handler then q.t.trappc.toNat else 0) ∧
    (n = 0x41 → ∀ l, content l = if q.t.handler then q.t.trapcause.toNat else 0) ∧
    (n = 0x42 → ∀ l, content l = if q.t.handler then q.t.trapval.toNat else 0) ∧
    (n = 0x80 → ∀ l, content l = q.t.evpend.toNat) ∧
    (n = 0x81 → ∀ l, content l = q.t.evtimer.toNat)) ∧
  (∀ (p : Option Pfx) (w : FmtU) (x : FmtB),
    let n := w.imm.toNat
    let v := fun (q : Iss) => q.read w.d (specialW n) 0
    let sets := fun (k : Nat) (ok : Iss → State → Prop) (f : Iss → State → Strand) =>
      n = k → Effects (.movsw p w) ok (fun q s => putStrand s q (f q s))
    let inHandler := fun (q : Iss) (_ : State) => q.t.handler = true
    sets 0x30 (fun q s => v q % 8 < 5 ∨ (v q % 8 = 5 ∧ featureOn s (cidVd q.m.cid) 5))
      (fun q _ => { q.t with frm := BitVec.ofNat 32 (v q % 8) }) ∧
    sets 0x31 (fun _ _ => True) (fun q _ => { q.t with fflags := BitVec.ofNat 32 (v q % 32) }) ∧
    sets 0x32 (fun _ _ => True) (fun q _ => { q.t with fexc := BitVec.ofNat 32 (v q % 32) }) ∧
    sets 0x33 (fun _ _ => True) (fun q _ => { q.t with srseed := BitVec.ofNat 32 (v q), gens := [] }) ∧
    sets 0x40 inHandler (fun q _ => { q.t with trappc := BitVec.ofNat 64 (v q) }) ∧
    sets 0x41 inHandler (fun q _ => { q.t with trapcause := BitVec.ofNat 32 (v q) }) ∧
    sets 0x42 inHandler (fun q _ => { q.t with trapval := BitVec.ofNat 32 (v q) }) ∧
    sets 0x81 (fun q s => wallOf s (cidVd q.m.cid) < v q) (fun q _ => { q.t with evtimer := BitVec.ofNat 64 (v q), armed := true }) ∧
    sets 0x81 (fun q s => v q ≤ wallOf s (cidVd q.m.cid))
      (fun q _ => wakeSlots (· == .event)
        { q.t with evtimer := BitVec.ofNat 64 (v q), armed := false, evpend := q.t.evpend ||| 1 }) ∧
    Effects (.window p x) (fun q _ =>
      let b := (q.read x.a 1 0 : Int) + x.imm.toInt
      0 ≤ b ∧ b % 4 = 0 ∧ b < q.m.header.allot)
      (fun q s => putStrand s q { q.t with wb := ((q.read x.a 1 0 : Int) + x.imm.toInt).toNat }))

/-! ## Control -/

/-- R110, R112 to R114: branches, the loop count, calls with their link pair, returns and uniform jumps, with the alignment
of the target; GETPC. -/
def Obligations.BranchesAndCalls : Prop :=
  ∀ (p : Option Pfx) (j : FmtJ) (l : FmtL) (w : FmtA) (b : FmtB),
    let value := fun (q : Iss) => elem 32 0 (q.read j.a 1 0)
    let taken := fun (q : Iss) => match j.fn.toNat with
      | 0 => True
      | 1 => value q = 0
      | 2 => value q ≠ 0
      | 3 => (value q).toInt < 0
      | 4 => 0 ≤ (value q).toInt
      | 5 => 0 < (value q).toInt
      | _ => (value q).toInt ≤ 0
    let near := fun (q : Iss) => q.next + 4 * j.off.signExtend 64
    let far := fun (q : Iss) => q.next + 4 * l.off.signExtend 64
    let there := fun (q : Iss) => q.addr w.a 0
    let link := fun (q : Iss) => [q.next.setWidth 32, q.next.extractLsb' 32 32]
    Moves (.bra p j) (fun q _ => taken q ∧ aligned4 (near q)) (fun q s => goTo q s (near q)) ∧
    Moves (.bra p j) (fun q _ => ¬taken q) (fun q s => goTo q s q.next) ∧
    Moves (.loop p j) (fun q _ => value q ≠ 1 ∧ aligned4 (near q))
      (fun q s => goTo q (putStrand s q { q.t with sregs := tset 0 q.t.sregs (scalarNo j.a) (value q - 1) }) (near q)) ∧
    Moves (.loop p j) (fun q _ => value q = 1)
      (fun q s => goTo q (putStrand s q { q.t with sregs := tset 0 q.t.sregs (scalarNo j.a) 0 }) q.next) ∧
    Moves (.call p l) (fun q _ => aligned4 (far q)) (fun q s => goTo q (putStrand s q
      { q.t with sregs := tset 0 (tset 0 q.t.sregs 26 (q.next.setWidth 32)) 27 (q.next.extractLsb' 32 32) }) (far q)) ∧
    Moves (.calli p w) (fun q _ => aligned4 (there q) ∧ keepsLanes q w.d (link q))
      (fun q s => goTo q (putStrand s q (withWords q w.d (link q))) (there q)) ∧
    Moves (.ret p w) (fun q _ => aligned4 (there q)) (fun q s => goTo q s (there q)) ∧
    (w.a.isScalar → Moves (.jmpi p w) (fun q _ => aligned4 (there q)) (fun q s => goTo q s (there q))) ∧
    (w.a.isScalar → Traps (.jmpi p w) (fun q _ => ¬aligned4 (there q)) 3 (fun q => (there q).setWidth 32)) ∧
    Traps (.ret p w) (fun q _ => ¬aligned4 (there q)) 3 (fun q => (there q).setWidth 32) ∧
    Computes (.getpc p b) b.d 2 (fun q _ => (q.next + 4 * b.imm.signExtend 64).toNat)

/-- R21, R115, R116, R128, R132, R134 to R136, R169 to R171, R191: a divergent branch leaves the lanes that fall through in
the issuing slot and puts those that go into a new one, a slot whose lanes name several targets splits; JOIN waits until the
slots waiting there cover its triple and merges them; EXIT ends lanes; NOP and YIELD. -/
def Obligations.DivergenceAndJoins : Prop :=
  (∀ (p : Option Pfx) (j : FmtJ) (w : FmtA),
    let x := fun (q : Iss) l => (elem 32 0 (q.read j.a 1 l)).toInt
    let goes := fun (q : Iss) l => match j.fn.toNat with
      | 0 => x q l ≠ 0
      | 1 => x q l = 0
      | 2 => x q l < 0
      | 3 => 0 ≤ x q l
      | 4 => 0 < x q l
      | _ => x q l ≤ 0
    let target := fun (q : Iss) => q.next + 4 * j.off.signExtend 64
    let others := fun (q : Iss) => (q.t.live.zipIdx.filter fun e => e.2 != q.slot).map (·.1)
    let fits := fun (q : Iss) n => q.t.stack.length + (others q).length + n ≤ q.m.header.divstack + 1
    Moves (.bdiv p j) (fun q _ => ∀ l ∈ lanesOf q.act, ¬goes q l) (fun q s => goTo q s q.next) ∧
    Moves (.bdiv p j) (fun q _ => aligned4 (target q) ∧ ∀ l ∈ lanesOf q.act, goes q l) (fun q s => goTo q s (target q)) ∧
    (∀ s q, Issues s (.bdiv p j) q → aligned4 (target q) → (∃ l ∈ lanesOf q.act, goes q l) →
      (∃ l ∈ lanesOf q.act, ¬goes q l) → others q = [] ∨ q.t.stack.length < q.m.header.divstack →
      ∃ old young,
        exec (.bdiv p j) s = .next (ended q (.bdiv p j)
          (putStrand s q { q.t with live := [old, young], stack := q.t.stack ++ others q })) ∧
        old = { q.x with pc := q.next, members := old.members, wait := .ready } ∧
        young = { pc := target q, members := young.members, wait := .ready, held := false } ∧
        (∀ l < 96, young.members.getLsbD l = true ↔ q.act.getLsbD l = true ∧ goes q l) ∧
        ∀ l < 96, old.members.getLsbD l = true ↔ q.x.members.getLsbD l = true ∧ ¬(q.act.getLsbD l = true ∧ goes q l)) ∧
    (w.a.isVector → ∀ s q, Issues s (.jmpi p w) q → (∀ l ∈ lanesOf q.act, aligned4 (q.addr w.a l)) →
      fits q (laneCount q.act) →
      ∃ t, exec (.jmpi p w) s = .next (ended q (.jmpi p w) (putStrand s q t)) ∧
        t = { q.t with live := t.live, stack := t.stack } ∧
        (∀ l ∈ lanesOf q.act, ∃ x ∈ t.live ++ t.stack, x.members.getLsbD l ∧ x.pc = q.addr w.a l ∧ x.wait = .ready))) ∧
  (∀ (p : Option Pfx) (w : FmtA),
    let size := (Instr.join p w).size
    let parked := fun (q : Iss) => updSlot q.t q.slot fun x =>
      { x with wait := .join (scalarNo w.a) (q.t.triple (scalarNo w.a)) size }
    let covered := fun (q : Iss) => ∀ l < 96, (q.t.triple (scalarNo w.a)).getLsbD l = true →
      q.t.ended.getLsbD l = true ∨ q.t.launched.getLsbD l = false ∨
        ∃ x ∈ (parked q).live ++ (parked q).stack, x.waitsAt (q.next - 4) ∧ x.members.getLsbD l = true
    Moves (.join p w) (fun q _ => ¬covered q) (fun q s => putStrand s q (parked q)) ∧
    Moves (.join p w) (fun q _ => covered q) (fun q s => putStrand s q (mergeLive (parked q) (q.next - 4) q.slot)) ∧
    (∀ s q, Issues s (.exit p w) q →
      let gone := fun l => q.act.getLsbD l = true ∨ (q.x.members.getLsbD l = true ∧
        ∀ k < 96, q.x.members.getLsbD k = true → q.t.mask.getLsbD k = true → q.act.getLsbD k = true)
      ∃ t, exec (.exit p w) s = .next (ended q (.exit p w) (afterEnding (putStrand s q t) q.m.uid q.t.index)) ∧
      (∀ l < 96, t.ended.getLsbD l = true ↔ q.t.ended.getLsbD l = true ∨ gone l) ∧
      (∀ l < 96, t.mask.getLsbD l = true ↔ q.t.mask.getLsbD l = true ∧ ¬gone l) ∧
      (∀ x ∈ t.live ++ t.stack, ∀ l < 96, x.members.getLsbD l = true → ¬gone l) ∧
      t = { q.t with
        live := t.live, stack := t.stack, ended := t.ended, mask := t.mask, handler := t.handler, turn := t.turn })) ∧
  (∀ (p : Option Pfx) (w : FmtA),
    Effects (.nop p w) (fun _ _ => True) (fun _ s => s) ∧
    Effects (.yield p w) (fun q s => (q.m.uid, q.t.index) ∈ (clusterOf s q.m.die q.m.cluster).order)
      (fun q s => updCluster s q.m.die q.m.cluster fun c =>
        { c with order := c.order.filter (· != (q.m.uid, q.t.index)) ++ [(q.m.uid, q.t.index)] }) ∧
    Effects (.yield p w) (fun q s => (q.m.uid, q.t.index) ∉ (clusterOf s q.m.die q.m.cluster).order)
      (fun q s => updCluster s q.m.die q.m.cluster fun c => c))

/-- R30, R32, R33, R118, R119, R364, R367, R373, R399: TRAP, SVC and BRK enter the handler, RFT leaves it for trappc and is
illegal in user mode; a trap in the handler (the alignment trap of an unaligned trappc among them) or without one is a
context error that stops the context. -/
def Obligations.TrapsAndReturns : Prop :=
  (∀ (p : Option Pfx) (w : FmtU),
    let enters := fun (i : Instr) cause (ok : Iss → Prop) =>
      ∀ s q, Issues s i q → q.canTrap → ok q → exec i s = .next (ended q i (entered q cause (w.imm.setWidth 32) q.next s))
    enters (.trap p w) 5 (fun _ => True) ∧ enters (.svc p w) 6 (fun _ => True) ∧
    enters (.brk p w) 8 (fun q => q.m.desc.intercept = false) ∧
    Effects (.brk p w) (fun q _ => q.m.desc.intercept = true ∧ q.t.handler = false) (fun q s =>
      updCluster (updStrand s q.m.uid q.t.index fun t => { t with halted := true }) q.m.die q.m.cluster
        fun c => { c with frozen := true })) ∧
  (∀ (p : Option Pfx) (w : FmtA),
    (∀ s q, Issues s (.rft p w) q → q.t.handler = true → aligned4 q.t.trappc →
      exec (.rft p w) s = .next (ended q (.rft p w) (putStrand s q { q.t with
        handler := false
        live := q.t.live.zipIdx.map fun e =>
          if e.2 = q.slot then { e.1 with pc := q.t.trappc, held := false, wait := .ready } else { e.1 with held := false }
        stack := q.t.stack.map fun x => { x with held := false } }))) ∧
    (∀ s q, Issues s (.rft p w) q → q.t.handler = true → ¬aligned4 q.t.trappc →
      exec (.rft p w) s = .next (ended q (.rft p w) (stopContext
        (reportErr s { cid := q.m.cid, code := 17, detail := 3, motif := q.m.motifid.toNat, strand := q.t.index
                       die := q.m.die, cluster := q.m.cluster, stage := q.m.stage }) q.m.cid))) ∧
    Traps (.rft p w) (fun _ _ => True) 1 (fun _ => (Instr.rft p w).mainWord)) ∧
  (∀ (p : Option Pfx) (w : FmtU) (s : State) (q : Iss), Issues s (.trap p w) q → ∀ code,
    code = 17 ∧ q.t.handler = true ∨ code = 16 ∧ q.t.handler = false ∧ q.m.header.trap = 0 →
    exec (.trap p w) s = .next (ended q (.trap p w) (stopContext
      (reportErr s { cid := q.m.cid, code := code, detail := 5, motif := q.m.motifid.toNat, strand := q.t.index
                     die := q.m.die, cluster := q.m.cluster, stage := q.m.stage }) q.m.cid)) ∧
    (ctxOf (stopContext s q.m.cid) q.m.cid).stopped = true)

/-- R76, R77, R79: a word that is no strand instruction takes the illegal-instruction trap with the word as trapval, one
that is no sequencer instruction is sequencer fault 1; and an instruction or a word whose prefix leaves no lane active is a
no-operation. -/
def Obligations.WordsWithoutEffect : Prop :=
  ((∀ s q (x : Word), issuerOf s = some q → q.act ≠ 0 → q.canTrap →
    let b : BadWord := { word := x, pre := none, sequencer := false }
    let q1 := { q with next := q.pc + 4 }
    exec (.unassignedOpcode b) s = .next (afterIssue q1 noShape [] (entered q1 1 x q.pc s))) ∧
  (∀ s q (b : BadWord) y, issuerOf s = some q → b.sequencer = false → b.pre = some y → q.act ≠ 0 → badPrefix b = false →
    (Pfx.ofWord y).mask ≠ 0 → q.act &&& q.t.triple (Pfx.ofWord y).mask.toNat = 0 →
    (∀ e ∈ q.t.pending, ¬((Pfx.ofWord y).mask.toNat ≤ e.reg ∧ e.reg ≤ (Pfx.ofWord y).mask.toNat + 2)) →
    exec (.unassignedOpcode b) s = .next (skip { q with act := q.act, p := some (Pfx.ofWord y), next := q.pc + 8 } s)) ∧
  (∀ s q (b : BadWord), seqIssuerOf s = some q → b.sequencer = true → q.q.ended = false →
    exec (.unassignedOpcode b) s = .next (elapse (seqFaultAt s q.m q.off 1 b.word.toNat [] q.q.work) 1))) ∧
  (∀ (i : Instr) (p : Option Pfx) (sh : Shape) (s : State) (q : Iss), i.shape = some (p, sh) → seqOpcode sh.op = false →
    (issuerOf s).map (·.enter i) = some q → q.act = 0 → tripleStop s q.t q.p = none → exec i s = .next (skip q s))

/-! ## Barriers, timelines, queues and events -/

/-- R172 to R177: arrivals on a numbered barrier and the end of its phase, the arriving and the waiting form, the strand
that the end has woken; barrier objects of the scratchpad written, arrived at and waited on. -/
def Obligations.Barriers : Prop :=
  (∀ (p : Option Pfx) (w : FmtB),
    let n := (w.imm.extractLsb' 0 4).toNat
    let bar := fun (q : Iss) => tget Barrier.reset q.m.barriers n
    let cnt := fun (q : Iss) => if w.a = 96 then 0 else q.read w.a 1 0
    let b1 := fun (q : Iss) =>
      { bar q with arrivals := (bar q).arrivals + 1, expected := some (cnt q), marked := (bar q).marked ++ [q.t.index] }
    let done := fun (q : Iss) => if cnt q = 0 then ∀ t ∈ q.m.strands, t.over ∨ t.index ∈ (b1 q).marked
      else cnt q ≤ (b1 q).arrivals
    let first := fun (q : Iss) => q.x.released ≠ some n ∧
      (w.a ≠ 96 → 1 ≤ cnt q ∧ cnt q ≤ 33) ∧ q.t.index ∉ (bar q).marked ∧
      ((bar q).expected = none ∨ (bar q).expected = some (cnt q))
    let arrived := fun (q : Iss) (s : State) => updMotif (releaseStrand s q.m.uid q.t.index) q.m.uid fun m =>
      checkBarrier { m with barriers := tset Barrier.reset m.barriers n (b1 q) } n
    (w.imm.getLsbD 4 → Effects (.bar p w) (fun q _ => first q) arrived) ∧
    (¬w.imm.getLsbD 4 → Effects (.bar p w) (fun q _ => first q ∧ done q)
      (fun q s => l1Acquire (arrived q s) q.m q.t.index false)) ∧
    (¬w.imm.getLsbD 4 → Waits (.bar p w) (fun q _ => first q ∧ ¬done q) (.barrier n) arrived) ∧
    Effects (.bar p w) (fun q _ => q.x.released = some n) (fun q s => l1Acquire
      (updStrand s q.m.uid q.t.index fun t => updSlot t q.slot fun x => { x with released := none }) q.m q.t.index false) ∧
    (let again := fun (q : Iss) => q.x.released ≠ some n ∧ (w.a ≠ 96 → 1 ≤ cnt q ∧ cnt q ≤ 33) ∧ q.t.index ∈ (bar q).marked
     (w.imm.getLsbD 4 → Effects (.bar p w) (fun q _ => again q) fun _ s => s) ∧
     (¬w.imm.getLsbD 4 → Waits (.bar p w) (fun q _ => again q) (.barrier n))) ∧
    (∀ s q, (Instr.bar p w).wf = true → (issuerOf s).map (·.enter (.bar p w)) = some q → q.act ≠ 0 →
      q.m.header.barriers.getLsbD n = false → q.canTrap →
      exec (.bar p w) s = .next (ended q (.bar p w) (entered q 1 (Instr.bar p w).mainWord q.pc s)))) ∧
  (∀ (p : Option Pfx) (w : FmtA),
    let off := fun (q : Iss) => q.read w.a 1 0
    let word := fun (q : Iss) k => fieldAt (readBytes q.m.scratch (off q) 16) (4 * k) 4
    let inside := fun (q : Iss) => off q % 16 = 0 ∧ off q + 16 ≤ q.m.header.scratch * 1024
    let n := fun (q : Iss) => if w.b = 96 then 1 else q.read w.b 1 0
    let wake := fun (q : Iss) (ts : List Strand) =>
      ts.map fun t => if bitAt (word q 3) t.index then wakeSlots (· == .object (off q)) t else t
    Effects (.boinit p w) (fun q _ => inside q ∧ 1 ≤ q.read w.b 1 0 ∧ q.read w.b 1 0 ≤ 2 ^ 31) (fun q s =>
      updMotif s q.m.uid fun m => { m with
        scratch := writeBytes m.scratch (off q) (leBytes 4 0 ++ leBytes 4 (q.read w.b 1 0) ++ leBytes 8 0)
        strands := wake q m.strands }) ∧
    Effects (.boarr p w) (fun q s => inside q ∧ n q ≠ 0 ∧ word q 1 ≠ 0 ∧ word q 0 + n q < word q 1 ∧
        keepsLanes q w.d [BitVec.ofNat 32 (word q 2)] ∧ s.pendStores = []) (fun q s =>
      updStrand (updMotif s q.m.uid fun m => { m with scratch := writeBytes m.scratch (off q) (leBytes 4 (word q 0 + n q)) })
        q.m.uid q.t.index fun t => { t with
          sregs := (withWords q w.d [BitVec.ofNat 32 (word q 2)]).sregs
          mask := (withWords q w.d [BitVec.ofNat 32 (word q 2)]).mask }) ∧
    Effects (.boarr p w) (fun q s => inside q ∧ n q ≠ 0 ∧ word q 1 ≠ 0 ∧ word q 1 ≤ word q 0 + n q ∧
        keepsLanes q w.d [BitVec.ofNat 32 (word q 2)] ∧ s.pendStores = []) (fun q s =>
      updStrand (updMotif s q.m.uid fun m => { m with
          scratch := writeBytes m.scratch (off q)
            (leBytes 4 (word q 0 + n q - word q 1) ++ leBytes 4 (word q 1) ++ leBytes 4 (word q 2 + 1) ++ leBytes 4 0)
          strands := wake q m.strands })
        q.m.uid q.t.index fun t => { t with
          sregs := (withWords q w.d [BitVec.ofNat 32 (word q 2)]).sregs
          mask := (withWords q w.d [BitVec.ofNat 32 (word q 2)]).mask }) ∧
    Effects (.bowait p w) (fun q _ => inside q ∧ word q 2 ≠ q.read w.b 1 0)
      (fun q s => l1Acquire s q.m q.t.index false) ∧
    (∀ s q, Issues s (.bowait p w) q → inside q → word q 2 = q.read w.b 1 0 →
      exec (.bowait p w) s = .next (ended q (.bowait p w) (waiting q (.object (off q)) (updMotif s q.m.uid fun m =>
        { m with scratch := writeBytes m.scratch (off q + 12) (leBytes 4 (word q 3 ||| 2 ^ q.t.index)) })))) ∧
    Traps (.boarr p w) (fun q _ => n q ≠ 0 ∧ off q % 16 ≠ 0) 3 (fun q => BitVec.ofNat 32 (off q)))

/-- R245, R298, R310, R314 to R316: a wait for a timeline counter, its reading, a command without work, and the continuation
on a status. -/
def Obligations.TimelinesAndContinuations : Prop :=
  ∀ (p : Option Pfx) (w : FmtA),
    let tl := fun (q : Iss) n => q.m.timelines.getD n { issued := 0, done := 0 }
    let count := fun (q : Iss) => let t := tl q (w.fn.toNat % 4); if w.fn.getLsbD 2 then t.issued else t.done
    let obj := fun (q : Iss) => if w.b = 96 then none else some (q.read w.b 1 0)
    let target := fun (q : Iss) => q.addr w.b 0
    let pending := fun (q : Iss) => ∃ e ∈ q.t.pending, e.reg = scalarNo w.a
    Effects (.tlwait p w) (fun q _ => q.read w.a 2 0 ≤ (tl q w.fn.toNat).done)
      (fun q s => l1Acquire s q.m q.t.index false) ∧
    Waits (.tlwait p w) (fun q _ => (tl q w.fn.toNat).done < q.read w.a 2 0) (.timeline w.fn.toNat) ∧
    Effects (.tlread p w) (fun q _ => keepsLanes q w.d (wordsOf 2 (count q)))
      (fun q s => putStrand s q (withWords q w.d (wordsOf 2 (count q)))) ∧
    Effects (.tlinc p w) (fun q _ => (∀ o, obj q = some o → o % 16 = 0 ∧ o + 16 ≤ q.m.header.scratch * 1024) ∧
        inFlight q.m (w.fn.toNat % 4) < 32) (fun q s =>
      placeCommand (releaseLane s q.m.uid q.t.index q.act false 4) q.m.uid
        { blankCommand (w.fn.toNat % 4) ((tl q (w.fn.toNat % 4)).issued + 1) .tlinc q.t.index with
          status := if w.d = 96 then none else some (scalarNo w.d), object := obj q } []) ∧
    Moves (.xyield p w) (fun q _ => aligned4 (target q) ∧ ¬pending q) (fun q s => goTo q s (target q)) ∧
    Moves (.xyield p w) (fun q _ => aligned4 (target q) ∧ pending q)
      (fun q s => waiting q (.status (scalarNo w.a)) (goTo q s (target q)))

/-- R144 to R146, R178 to R180: the queue of an output register is closed, a queue's state and the last count popped are
read, and a pop that never waits gives the oldest items to the lowest active lanes. -/
def Obligations.PatternQueues : Prop :=
  ∀ (p : Option Pfx) (w : FmtA),
    let bound := fun (q : Iss) => qBound q.m.header w.a = true
    let reads := fun (q : Iss) (v : Nat) (s : State) => Issues s (.qstat p w) q →
      keepsLanes q w.d [BitVec.ofNat 32 v] →
      exec (.qstat p w) s = .next (retire q (.qstat p w) (putStrand s q (withWords q w.d [BitVec.ofNat 32 v])))
    Effects (.qclose p w) (fun q s => (w.a = 93 ∨ w.a = 95) ∧ bound q ∧ ∃ z, queueOf s q.m w.a = some z) (fun q s =>
      wakeQueues (closeQueues (updQueue (releaseStrand s q.m.uid q.t.index) q.m w.a fun z => { z with closed := true })
        q.m.ring q.m.record) q.m) ∧
    (∀ q s, w.fn = 0 → reads q q.t.lastPop.toNat s) ∧
    (∀ q s z, w.fn = 1 → w.a.isQueue → bound q → queueOf s q.m w.a = some z → reads q z.items.length s) ∧
    (∀ q s z, w.fn = 2 → w.a.isQueue → bound q → queueOf s q.m w.a = some z → reads q
      ((if z.closed then 1 else 0) + (if z.items = [] then 2 else 0) + (if z.capacity ≤ z.items.length then 4 else 0) +
       (if z.low < z.items.length then 8 else 0) + (if z.high < z.items.length then 16 else 0)) s) ∧
    (∀ s q z, Issues s (.qtry p w) q → w.a = 92 ∨ w.a = 94 → bound q → queueOf s q.m w.a = some z →
      let k := min (laneCount q.act) z.items.length
      let item := fun l => ((((lanesOf q.act).zip z.items).find? fun e => e.1 == l).map (·.2.toNat)).getD 0
      ∃ u, exec (.qtry p w) s = .next (retire q (.qtry p w) (wakeQueues (putStrand (popQueue s q w.a).1 q u) q.m)) ∧
        Wrote q u w.d 1 item ∧ u.lastPop = BitVec.ofNat 32 k ∧ u.fflags = q.t.fflags ∧ u.gens = q.t.gens)

/-- R18, R120, R121: EVWAIT takes the pending events of its mask, waits when there are none, and the timer and the host's
signal set an event and wake those who wait. -/
def Obligations.Events : Prop :=
  (∀ (p : Option Pfx) (w : FmtA),
    let sel := fun (q : Iss) => q.t.evpend &&& BitVec.ofNat 32 (q.read w.a 1 0 % 32)
    let asks := fun (q : Iss) => BitVec.ofNat 32 (q.read w.a 1 0 % 32) ≠ 0
    Effects (.evwait p w) (fun q _ => (sel q ≠ 0 ∨ w.fn = 1 ∨ ¬asks q) ∧ keepsLanes q w.d [sel q])
      (fun q s => putStrand s q { withWords q w.d [sel q] with evpend := q.t.evpend &&& ~~~sel q }) ∧
    Waits (.evwait p w) (fun q _ => sel q = 0 ∧ w.fn ≠ 1 ∧ asks q) .event) ∧
  (∀ s uid j m t, motifOf s uid = some m → strandOf m j = some t → t.armed = true →
    t.evtimer.toNat ≤ wallOf s (cidVd m.cid) →
    ∃ s', exec (.evtimerExpiry uid j) s = .next s' ∧
      (strandAt s' uid j).map (fun u => (u.armed, u.evpend, (u.live ++ u.stack).any fun x => x.wait == .event)) =
        some (false, t.evpend ||| 1, false) ∧
      s' = { s with motifs := s'.motifs, contexts := s'.contexts }) ∧
  (∀ s vd (v : BitVec 32), (v.extractLsb' 0 11).toNat < (vdevOf s vd).ctxcount →
    let cid := cidOf vd (v.extractLsb' 0 11).toNat
    ∃ s', exec (.signal vd v) s = .next s' ∧ s' = { s with motifs := s'.motifs, contexts := s'.contexts } ∧
      ∀ m ∈ s'.motifs, m.cid = cid → ∀ t ∈ m.strands, t.evpend.getLsbD 1 = true ∧ ∀ x ∈ t.live ++ t.stack, x.wait ≠ .event)

/-! ## Memory -/

/-- R25, R137, R196, R197, R226, R228, R256, R258 to R260: a load of any space gives its destination the bytes at each
access, zero- or sign-extended, and changes no memory, but for a host line's copy that a strongly ordered load writes back
first; one of a HOST page waits until its data has come. Log entries 3, 12, 40, 71. -/
def Obligations.Loads : Prop :=
  ∀ (p : Option Pfx) (w : FmtM),
    let n := widthBytes w.w
    let loads := fun (i : Instr) (perLane : Bool) (loc : Iss → Nat → Loc) =>
      ∀ s q, Issues s i q → s.inOrder → Local s q (accesses q perLane loc) n .read →
        let at' := fun l => if perLane then l else (lowest q.act).getD 0
        let target := laneTarget s q (accesses q perLane loc) n .read
        let bytes := fun l => bytesAt s q n (target { lane := at' l, loc := loc q (at' l) })
        let val := fun l => match w.w.toNat with
          | 5 => ((BitVec.ofNat 8 (leNat (bytes l))).signExtend 32).toNat
          | 6 => ((BitVec.ofNat 16 (leNat (bytes l))).signExtend 32).toNat
          | _ => leNat (bytes l)
        (w.d.isScalar → keepsLanes q w.d (wordsOf (memW w.w) (val 0))) →
        ∃ t u, exec i s = .next (retire q i (putStrand t q u)) ∧ Wrote q u w.d (memW w.w) val ∧
          keepsAll s t q (accesses q perLane loc) n ∧ t.motifs = s.motifs
    let generic := fun (q : Iss) l => Loc.generic ((q.addr w.a l + BitVec.ofInt 64 (w.off.toInt * n)).toNat)
    let offset := fun (q : Iss) l => (q.read w.a 1 l : Int) + w.off.toInt * n
    loads (.ld p w) (runsPerLane (.ld p w)) generic ∧
    loads (.lds p w) (runsPerLane (.lds p w)) (fun q l => .scratch (offset q l)) ∧
    loads (.ldp p w) true (fun q l => .priv (offset q l)) ∧
    (∀ s q, Issues s (.ldk p w) q →
      let at' := fun l => if runsPerLane (.ldk p w) then l else (lowest q.act).getD 0
      let off := fun l => offset q (at' l)
      let val := fun l => extendLoad w.w ((q.m.param.drop (off l).toNat).take n)
      (∀ l < 96, q.act.getLsbD l → 0 ≤ off l ∧ off l % n = 0 ∧ off l + n ≤ q.m.header.param) →
      (w.d.isScalar → keepsLanes q w.d (wordsOf (memW w.w) (val 0))) →
      ∃ u, exec (.ldk p w) s = .next (retire q (.ldk p w) (putStrand s q u)) ∧ Wrote q u w.d (memW w.w) val)

/-- R25, R196, R197, R226, R228, R241, R252, R258 to R260: a store of any space leaves at each access the bytes of its lane,
the highest lane's where several store to one byte, and every other byte of the package as it was; it completes whenever its
accesses are aligned, translated and granted on this package and no acknowledgement that its release awaits is missing. Log
entries 3, 12, 40, 71. -/
def Obligations.Stores : Prop :=
  ∀ (p : Option Pfx) (w : FmtM),
    let n := widthBytes w.w
    let stores := fun (i : Instr) (perLane : Iss → Bool) (loc : Iss → Nat → Loc) =>
      ∀ s q, Issues s i q → s.inOrder →
        let as := accesses q (perLane q) loc
        let byte := fun l k => BitVec.ofNat 8 (q.read w.d (memW w.w) l / 2 ^ (8 * k))
        let target := laneTarget s q as n .write
        LocalAt s q target as n .write → AcksIn s q (as.map target) →
        ∃ t, exec i s = .next (retire q i t) ∧ keepsOthers s t q as n ∧
          (∀ a ∈ as, ∀ off k, target a = .scratch off → k < n →
            (∀ b ∈ as, a.lane < b.lane → ∀ o, target b = .scratch o → ¬(o ≤ off + k ∧ off + k < o + n)) →
            tget 0 (scratchOf t q.m.uid) (off + k) = byte a.lane k) ∧
          (∀ a ∈ as, ∀ x e k, target a = .phys x e → x.space ≠ .host ∨ e.ord = 1 → k < n →
            (∀ b ∈ as, a.lane < b.lane → ¬hits { x with addr := x.addr + k } n (target b)) →
            byteAt t { x with addr := x.addr + k } = byte a.lane k)
    let generic := fun (q : Iss) l => Loc.generic ((q.addr w.a l + BitVec.ofInt 64 (w.off.toInt * n)).toNat)
    let offset := fun (q : Iss) l => (q.read w.a 1 l : Int) + w.off.toInt * n
    stores (.st p w) (fun q => runsPerLane (.st p w) ||
      (q.accLanes false).any fun l => decide ((generic q l).num / 2 ^ 32 = 0x00FFFFFE)) generic ∧
    stores (.sts p w) (fun _ => runsPerLane (.sts p w)) (fun q l => .scratch (offset q l)) ∧
    stores (.stp p w) (fun _ => true) (fun q l => .priv (offset q l))

/-- R264: the operations of the atomics on n bytes. R226, R264, R265: an atomic of one access answers the old value and
leaves the operation's result there; one of several lanes runs them in lane order, each on what the lanes before it left;
RED does the same without an answer; no other byte of the package changes. Log entries 3, 16, 71. -/
def Obligations.Atomics : Prop :=
  (∀ (n b c old : Nat), n = 4 ∨ n = 8 → b < 2 ^ (8 * n) → c < 2 ^ (8 * n) → old < 2 ^ (8 * n) →
    let x : BitVec (8 * n) := BitVec.ofNat _ old
    let y : BitVec (8 * n) := BitVec.ofNat _ b
    atomOp 0 n b c old = (x + y).toNat ∧
    atomOp 1 n b c old =
      (let f := if n = 4 then f32 else f64; (f.add .rn false 1 (f.unpack old) (f.unpack b)).bits) ∧
    atomOp 2 n b c old = b ∧
    atomOp 3 n b c old = (if old = c then b else old) ∧
    atomOp 4 n b c old = (if x.sle y then x else y).toNat ∧
    atomOp 5 n b c old = (if x.sle y then y else x).toNat ∧
    atomOp 6 n b c old = (x ||| y).toNat ∧
    atomOp 7 n b c old = (x &&& y).toNat) ∧
  (∀ (p : Option Pfx) (w : FmtA),
    let left := fun (t s : State) (q : Iss) (n : Nat) (target : Target) (f : Nat → Nat) =>
      (∀ x e, target = .phys x e → x.space ≠ .host ∧ x.addr % 128 + n ≤ 128) →
        let new := leBytes n (f (leNat (bytesAt s q n target)))
        (∀ off, target = .scratch off → readBytes (scratchOf t q.m.uid) off n = new) ∧
        (∀ x e, target = .phys x e → readBytes (spaceMem t x.space) x.addr n = new)
    let atomic := fun (i : Instr) (n : Nat) (loc : Iss → Nat → Loc) =>
      ∀ s q, Issues s i q → s.inOrder →
        let as := accesses q (runsPerLane i) loc
        let target := laneTarget s q as n .write
        let ts := as.map fun a => (a, target a)
        let f := fun l => atomOp w.fn.toNat n (q.read w.b (n / 4) l) (if w.fn = 3 then q.read (fourth p w.d) (n / 4) l else 0)
        let run := ts.foldl (fun (r : State × List (Nat × Nat)) e =>
          let one := combineAt r.1 q (e.1.reached q.view) e.2 n (f e.1.lane)
          (afterAccess one.1 q q.order e.2 true, r.2 ++ [(e.1.lane, one.2)]))
          (cacheTargets (chargeScratch s q.m.cid ts n) q.view (ts.map (·.2)), [])
        let val := fun l => (run.2.lookup (if runsPerLane i then l else (lowest q.act).getD 0)).getD 0
        LocalAt s q target as n .write → AcksIn s q (as.map target) →
        (w.d.isScalar → keepsLanes q w.d (wordsOf (n / 4) (val 0))) →
        ∃ u, exec i s = .next (retire q i (putStrand run.1 q u)) ∧ Wrote q u w.d (n / 4) val ∧ keepsOthers s run.1 q as n ∧
          ∀ a, as = [a] → left run.1 s q n (target a) (f a.lane) ∧
            ((∀ x e, target a = .phys x e → x.space ≠ .host ∧ x.addr % 128 + n ≤ 128) →
              val a.lane = leNat (bytesAt s q n (target a)))
    let generic := fun (q : Iss) l => Loc.generic (q.read w.a 2 l)
    let offset := fun (q : Iss) l => Loc.scratch (q.read w.a 1 l)
    atomic (.atom p w) 4 generic ∧ atomic (.atom64 p w) 8 generic ∧
    atomic (.atoms p w) 4 offset ∧ atomic (.atoms64 p w) 8 offset ∧
    (∀ s q, Issues s (.red p w) q → s.inOrder →
      let n := if w.d = 1 then 8 else 4
      let as := accesses q (runsPerLane (.red p w)) generic
      let target := laneTarget s q as n .write
      LocalAt s q target as n .write → AcksIn s q (as.map target) →
      ∃ t, exec (.red p w) s = .next (retire q (.red p w) t) ∧ keepsOthers s t q as n ∧
        ∀ a, as = [a] → left t s q n (target a) (atomOp w.fn.toNat n (q.read w.b (n / 4) a.lane) 0)))

/-- R198, R202, R238, R247, R266 to R269: fences, the moves of host lines, the prefetch hint, and the address of a private
place. -/
def Obligations.FencesAndHostLines : Prop :=
  ∀ (p : Option Pfx) (w : FmtA) (m : FmtM),
    let every := w.fn == 1
    let rel := fun (q : Iss) => q.rm = 2 ∨ q.rm = 3
    let acq := fun (q : Iss) => q.rm = 1 ∨ q.rm = 3
    let moved := fun (i : Instr) (drop : Bool) =>
      ∀ s q, Issues s i q → s.inOrder → targetStop s q.view .read (hostRangeTargets s q (rangesOf q (runsPerLane i) w.a w.b)) = none →
        let moves := fun (h : HostLine) => ∃ g ∈ s.hostLines,
          lineInRange s q (rangesOf q (runsPerLane i) w.a w.b) g = true ∧ h.line = g.line / 128 * 128
        ∃ t, exec i s = .next (retire q i t) ∧
          t = { s with hostMem := t.hostMem, hostLines := t.hostLines, clusters := t.clusters, free := t.free } ∧
          (∀ h ∈ s.hostLines, moves h → ∀ k ∈ h.changed,
            (∀ g ∈ s.hostLines, moves g → g.reaches (h.line + k) → g = h) →
            tget 0 t.hostMem (h.line + k) = h.bytes.getD k 0) ∧
          (∀ a, (∀ h ∈ s.hostLines, moves h → h.changed ≠ [] → ¬h.reaches a) → tget 0 t.hostMem a = tget 0 s.hostMem a) ∧
          (drop → ∀ h ∈ s.hostLines, moves h → ∀ g ∈ t.hostLines, g.line ≠ h.line) ∧
          (¬drop → ∀ h ∈ s.hostLines, moves h → { h with changed := [] } ∈ t.hostLines) ∧
          (∀ h ∈ s.hostLines, ¬moves h → h ∈ t.hostLines)
    Effects (.fence p w) (fun q s => rel q → 5 ≤ q.mod.toNat → putsOpen s q.m.uid q.t.index = false) (fun q s =>
      let s1 := if rel q then releaseAt s q.m.uid q.t.index q.act every q.mod.toNat else s
      if acq q then acquireAt s1 q.m q.t.index every q.mod.toNat else s1) ∧
    moved (.hflush p w) false ∧ moved (.cinv p w) true ∧
    Effects (.pref p m) (fun _ s => s.inOrder) (fun _ s => s) ∧
    (∀ s q, Issues s (.privaddr p w) q →
      let at' := fun l => if runsPerLane (.privaddr p w) then l else (lowest q.act).getD 0
      let val := fun l => (q.m.desc.pbase + (q.t.place * 96 + at' l) * q.m.header.priv + q.read w.a 1 (at' l)) % 2 ^ 64
      (∀ l < 96, q.act.getLsbD l → q.read w.a 1 (at' l) < q.m.header.priv) →
      (w.d.isScalar → keepsLanes q w.d (wordsOf 2 (val 0))) →
      ∃ u, exec (.privaddr p w) s = .next (retire q (.privaddr p w) (putStrand s q u)) ∧ Wrote q u w.d 2 val)

/-- R270 to R272: every form that a line fits expands to the line again. -/
def Obligations.CompressionIsLossless : Prop :=
  ∀ (line : List Byte) (tag : Nat), line.length = 128 → tag ≤ 8 → fitsTag line tag → expandForm (storedForm line tag) tag = line

/-- R273, R287, R288, R360: CCONV changes no byte with .pack and .unpack, zeroes the lines of its range with .clear, and
answers a line's tag, sectors and combined COMP with .query, of a tag in error as poison. Log entries 8, 10. -/
def Obligations.LineConversions : Prop :=
  ∀ (p : Option Pfx) (w : FmtA),
    let i := Instr.cconv p w
    let lines := fun (s : State) (q : Iss) (acc : Access) =>
      (rangesOf q (runsPerLane i) w.a w.b).flatMap fun r => (piecesOf r.2.1 r.2.2 128).map fun a =>
        (a % 2 ^ 64, resolve s q.view none (a % 2 ^ 64) 1 acc)
    let small := fun (q : Iss) => ∀ r ∈ rangesOf q (runsPerLane i) w.a w.b, r.2.2 ≤ 2 ^ 24
    let here := fun (s : State) (ts : List (Nat × Target)) => ∀ e ∈ ts, formatting s e.2 = false ∧ (match e.2 with
      | .phys _ _ => true
      | .scratch _ => true
      | _ => false) = true
    (∀ s q, Issues s i q → s.inOrder → (w.fn = 1 ∨ w.fn = 2) → small q → here s (lines s q .read) →
      ∃ t, exec i s = .next (retire q i t) ∧ sameMemory s t ∧
        t = { s with
          tags := t.tags, tier2Tags := t.tier2Tags, clusters := t.clusters, walkCaches := t.walkCaches, firstRead := t.firstRead
          latent := t.latent, vdevs := t.vdevs, hostBus := t.hostBus, syslog := t.syslog, out := t.out } ∧
        (w.fn = 2 → ∀ e ∈ lines s q .read, ∀ a x, e.2 = .phys a x → a.space = .device ∨ a.space = .tier2 →
          isPoisoned s a = false → lineTag t a = 0)) ∧
    (∀ s q, Issues s i q → s.inOrder → w.fn = 3 → small q → here s (lines s q .write) →
      ∃ t, exec i s = .next (retire q i t) ∧
        (∀ e ∈ lines s q .write, ∀ a x, e.2 = .phys a x → a.space = .device ∨ a.space = .tier2 →
          isPoisoned t a = false ∧ readLine t a = List.replicate 128 0) ∧
        ∀ y : PAddr, (∀ e ∈ lines s q .write, ∀ a x, e.2 = .phys a x → a.line ≠ y.line) → byteAt t y = byteAt s y) ∧
    (∀ s q, Issues s i q → s.inOrder → w.fn = 0 →
      let at' := fun l => if runsPerLane i then l else (lowest q.act).getD 0
      let target := fun l => resolve s q.view none (q.read w.a 2 (at' l)) 1 .read
      (∀ l < 96, q.act.getLsbD l → here s [(0, target l)]) →
      let val := fun l => match target l with
        | .phys a x => if a.space = .host ∨ a.space = .window then 0x40
            else
              let tag := if latentAt s a = some 2 then 15 else (lineTag s a).toNat
              tag + 16 * tagSectors tag + (if x.comp then 128 else 0)
        | _ => 0x40
      (w.d.isScalar → keepsLanes q w.d [BitVec.ofNat 32 (val 0)]) →
      ∃ t u, exec i s = .next (retire q i (putStrand t q u)) ∧ Wrote q u w.d 1 val ∧ sameMemory s t)

/-! ## Tensor handles -/

/-- R262, R291, R292: LDT gives the element at its index the value of its format, or its raw image. -/
def Obligations.TensorLoads : Prop :=
  ∀ (p : Option Pfx) (w : FmtA) (s : State) (q : Iss) (c : CachedHandle),
    let i := Instr.ldt p w
    Issues s i q → s.inOrder → heldEntry s q (q.read w.a 1 0) c →
    let h := parseHandle c.image
    let width := formWidth h w.fn.toNat
    let at' := fun l => if runsPerLane i then l else (lowest q.act).getD 0
    let idx := fun l => q.read w.b 2 (at' l)
    let as := accesses q (runsPerLane i) fun q l => .generic (elemAddr h (h.coords (q.read w.b 2 l)))
    let sc := accesses q (runsPerLane i) fun q l => .generic (scaleAddr h (h.coords (q.read w.b 2 l)))
    (Use.mk 0 w.d width false .noQueue).ok q.m q.t = true → (∀ l < 96, q.act.getLsbD l → idx l < h.count) →
    let target := laneTarget s q as (elemBytes h) .read
    let scale := laneTarget (ruledBy s q.view as (elemBytes h) .read) q sc 1 .read
    LocalAt s q target as (elemBytes h) .read → (isBlock h.fmt → LocalAt s q scale sc 1 .read) →
    (isBlock h.fmt → (∀ a ∈ as, ¬findsCopy s q (target a)) ∧ ∀ a ∈ sc, ¬findsCopy s q (scale a)) →
    let read := fun (f : LaneAcc → Target) l n a => bytesAt s q n (f { lane := at' l, loc := .generic a })
    let got := fun l => ldtValue h w.fn.toNat (h.coords (idx l)) (read target l (elemBytes h) (elemAddr h (h.coords (idx l))))
      (if isBlock h.fmt then read scale l 1 (scaleAddr h (h.coords (idx l))) else [])
    let flags := ((q.lanes i).map got).foldl (fun f v => f ||| v.2) 0
    q.t.arithTraps flags = false → (w.d.isScalar → keepsLanes q w.d (wordsOf width (got 0).1)) →
    ∃ t u, exec i s = .next (retire q i (putStrand t q u)) ∧ Wrote q u w.d width (fun l => (got l).1) ∧
      u.fflags = q.t.fflags ||| flags.setWidth 32 ∧ keepsAll s t q as (elemBytes h)

/-- R262, R263: STT stores the values converted to the element format, clamped where the entry says so, and no other byte of
the package; a value outside the bounds sets the sticky flags in the cached entry, and fails the instruction under the trap
action with no lane's store performed. -/
def Obligations.TensorStores : Prop :=
  ∀ (p : Option Pfx) (w : FmtA) (s : State) (q : Iss) (c : CachedHandle),
    let i := Instr.stt p w
    let n := q.read w.a 1 0
    Issues s i q → s.inOrder → heldEntry s q n c →
    let h := parseHandle c.image
    let width := formWidth h w.fn.toNat
    let lanes := q.accLanes (runsPerLane i)
    let at' := fun l => h.coords (q.read w.b 2 l)
    let as := accesses q (runsPerLane i) fun _ l => .generic (elemAddr h (at' l))
    let sc := accesses q (runsPerLane i) fun _ l => .generic (scaleAddr h (at' l))
    (Use.mk 0 w.d width false .noQueue).ok q.m q.t = true → (∀ l ∈ lanes, q.read w.b 2 l < h.count) →
    h.sealed = false → (w.fn = 2 ∨ isBlock h.fmt = false ∧ h.fmt ≠ 18) →
    let ruled := ruledBy s q.view as (elemBytes h) .write
    let last := if isBlock h.fmt then ruledBy ruled q.view sc 1 .write else ruled
    let target := fun a => locTarget last q.view a (elemBytes h) .write
    let scale := fun a => locTarget last q.view a 1 .write
    LocalAt s q target as (elemBytes h) .write → (isBlock h.fmt → LocalAt s q scale sc 1 .write) →
    (isBlock h.fmt → (∀ a ∈ as, ¬findsCopy s q (target a)) ∧ ∀ a ∈ sc, ¬findsCopy s q (scale a)) →
    AcksIn s q (as.map target ++ if isBlock h.fmt then sc.map scale else []) →
    let value := fun l => sttValue h w.fn.toNat (q.read w.d width l)
    let flags := (lanes.map value).foldl (fun f v => f ||| v.2.2) 0
    let checks := lanes.flatMap fun l => (value l).2.1.map (boundCheck h)
    let sticky := checks.foldl (fun b x => b ||| x.1) 0
    q.t.arithTraps flags = false →
    let marked := updEntry (touched s q n c) q.m n fun c => { c with sticky := c.sticky ||| sticky }
    ((∃ x ∈ checks, x.2 = true) → q.canTrap →
      exec i s = .next (ended q i (entered q 7 (BitVec.ofNat 32 n) q.pc marked))) ∧
    ((∀ x ∈ checks, x.2 = false) →
      ∃ t, exec i s = .next (retire q i t) ∧
        (∀ y, (∀ a ∈ as, ¬hits y (elemBytes h) (target a) ∧ ¬movesBack s q y (target a)) →
          (isBlock h.fmt → ∀ a ∈ sc, ¬hits y 1 (scale a)) → byteAt t y = byteAt s y) ∧
        (strandAt t q.m.uid q.t.index).map (·.fflags) = some (q.t.fflags ||| flags.setWidth 32) ∧
        ∀ l x e, lanes = [l] → h.fmt ≤ 11 →
          target { lane := l, loc := .generic (elemAddr h (at' l)) } = .phys x e →
          x.space ≠ .host →
          readBytes (spaceMem t x.space) x.addr (elemBytes h) = leBytes (elemBytes h) (clampElem h (value l).1))

/-- R289, R293 to R297: a handle defined is cached as memory holds it, a handle invalidated is cached no more, TBND sets the
bounds and the action in memory and in the copy, and TSTAT reads the entry's state and can clear its sticky byte. -/
def Obligations.HandleCache : Prop :=
  ∀ (p : Option Pfx) (w : FmtA),
    let n := fun (q : Iss) => q.read w.a 1 0
    let va := fun (q : Iss) n => entryAddr q.m.desc n
    (∀ s q x e, Issues s (.tdef p w) q → s.inOrder → n q < 4096 → n q < q.m.desc.hcount → cachedEntry s q.m (n q) = none →
      resolve s q.view none (va q (n q)) 64 .read = .phys x e → x.space ≠ .host → isPoisoned s x = false →
      formatting s (.phys x e) = false →
      (parseHandle (readBytes (spaceMem s x.space) x.addr 64)).malformed = false →
      (clusterOf s q.m.die q.m.cluster).handles.length < 64 →
      ∃ t, exec (.tdef p w) s = .next (retire q (.tdef p w) t) ∧ sameMemory s t ∧
        t = { s with
          clusters := t.clusters, walkCaches := t.walkCaches, firstRead := t.firstRead, latent := t.latent
          syslog := t.syslog, hostBus := t.hostBus, out := t.out, requests := t.requests } ∧
        (cachedEntry t q.m (n q)).map (fun c => (c.bytes, c.sticky)) = some (readBytes (spaceMem s x.space) x.addr 64, 0)) ∧
    (∀ s q, Issues s (.tinv p w) q → n q < 4096 → (∀ c, cachedEntry s q.m (n q) = some c → c.image.getD 3 0 = 0) →
      ∃ t, exec (.tinv p w) s = .next (retire q (.tinv p w) t) ∧ t = { s with clusters := t.clusters } ∧
        cachedEntry t q.m (n q) = none) ∧
    (∀ s q, Issues s (.tinvAll p w) q →
      (∀ c ∈ (clusterOf s q.m.die q.m.cluster).handles, c.cid = q.m.cid → c.image.getD 3 0 = 0) →
      ∃ t, exec (.tinvAll p w) s = .next (retire q (.tinvAll p w) t) ∧ t = { s with clusters := t.clusters } ∧
        ∀ c ∈ (clusterOf t q.m.die q.m.cluster).handles, c.cid ≠ q.m.cid) ∧
    (∀ s q c, Issues s (.tbnd p w) q → s.inOrder → heldEntry s q (q.read w.d 1 0) c →
      let lo := q.read w.a 1 0
      let hi := q.read w.b 1 0
      let at' := va q (q.read w.d 1 0)
      let policy := BitVec.ofNat 8 (fieldAt c.image 2 1 / 4 * 4 + w.fn.toNat)
      (parseHandle c.image).sealed = false → badBounds lo hi = false →
      entryHere s q at' 64 → entryHere s q (at' + 0x38) 8 → entryHere s q (at' + 2) 1 →
      (∃ x e, resolve s q.view none at' 64 .write = .phys x e ∧
        resolve s q.view none (at' + 0x38) 8 .write = .phys { x with addr := x.addr + 0x38 } e ∧
        resolve s q.view none (at' + 2) 1 .write = .phys { x with addr := x.addr + 2 } e) →
      ∃ t, exec (.tbnd p w) s = .next (retire q (.tbnd p w) t) ∧
        entryBytes s t q (at' + 0x38) 8 = leBytes 4 lo ++ leBytes 4 hi ∧ entryBytes s t q (at' + 2) 1 = [policy] ∧
        (cachedEntry t q.m (q.read w.d 1 0)).map (·.bytes) =
          some (putBytes (putBytes c.bytes 2 [policy]) 0x38 (leBytes 4 lo ++ leBytes 4 hi))) ∧
    (∀ s q c, Issues s (.tstat p w) q → s.inOrder → heldEntry s q (n q) c →
      let h := parseHandle c.image
      let v := h.sticky.toNat + 2 ^ 8 * h.fmt + 2 ^ 16 * h.rank + (if h.sealed then 2 ^ 19 else 0) +
        (if h.compat then 2 ^ 20 else 0)
      let at' := (va q (n q) + 3) % 2 ^ 64
      keepsLanes q w.d [BitVec.ofNat 32 v] →
      (w.fn = 0 → exec (.tstat p w) s = .next (retire q (.tstat p w)
        (putStrand (touched s q (n q) c) q (withWords q w.d [BitVec.ofNat 32 v])))) ∧
      (w.fn = 1 → entryHere s q at' 1 → ∃ t, exec (.tstat p w) s = .next (retire q (.tstat p w)
          (putStrand t q (withWords q w.d [BitVec.ofNat 32 v]))) ∧
        entryBytes s t q at' 1 = [0] ∧
        (cachedEntry t q.m (n q)).map (fun c => (c.bytes, c.sticky)) = some (putBytes c.bytes 3 [0], 0)))

/-- R350: TSEAL sets SEAL in the entry in memory and in the cached copy, drops the context's translations of the tensor's
pages in every cluster, counts one completed invalidation, and sets SEAL in the leaf that maps the page of a tensor of one
page. -/
def Obligations.Sealing : Prop :=
  ∀ (p : Option Pfx) (w : FmtA) (s t : State) (q : Iss) (c : CachedHandle),
    let n := q.read w.a 1 0
    let va := (entryAddr q.m.desc n + 1) % 2 ^ 64
    let runs := tensorRuns (parseHandle c.image)
    let pages := runs.flatMap fun u => piecesOf u.1 u.2 4096
    Issues s (.tseal p w) q → s.inOrder → heldEntry s q n c → entryHere s q va 1 →
    (∀ u ∈ runs, ordinaryByte q.m.desc u.1 ∧ ordinaryByte q.m.desc (u.1 + u.2 - 1) ∧
      (u.1 < q.m.desc.msave → u.1 + u.2 ≤ q.m.desc.msave)) →
    (∀ k ∈ q.m.commands, k.complete = true ∨ n ∉ cmdTargets k) →
    sealPages q pages (touched s q n c) = .ok t →
    ∃ z, exec (.tseal p w) s = .next (retire q (.tseal p w) z) ∧
      (cachedEntry z q.m n).map (·.bytes) = some (putBytes c.bytes 1 [BitVec.ofNat 8 (fieldAt c.image 1 1 ||| 16)]) ∧
      (∀ a x, pages = [a] → leafSlot (touched s q n c) q.m.die q.m.cid a 5 q.m.desc.sroot = .ok x → x.1.addr % 8 = 0 →
        x.1.space ≠ .host → isPoisoned s x.1 = false →
        bitAt (leNat (readBytes (spaceMem t x.1.space) x.1.addr 8)) 9 = true) ∧
      entryBytes s z q va 1 = [BitVec.ofNat 8 (fieldAt c.image 1 1 ||| 16)] ∧
      (vdevOf z (cidVd q.m.cid)).invcount = bumpCount (vdevOf s (cidVd q.m.cid)).invcount ∧
      ∀ a ∈ pages, ∀ k ∈ z.clusters, ∀ e ∈ k.2.tlb ++ k.2.qtlb.map (·.2), e.cid = q.m.cid → e.pod = false →
        e.vbase + e.size ≤ a / 4096 * 4096 ∨ a / 4096 * 4096 + 4096 ≤ e.vbase

/-! ## Engines -/

/-- R299 to R301, R305 to R308, R310 to R312, R353: an engine instruction numbers its command, reads its quad and its
handles' entries, notes the first error met at issue, and places it, its status register pending; XCANCEL cancels the
streamer's commands from a number on, XSTAT reports a command's progress or how it ended. -/
def Obligations.EngineCommands : Prop :=
  (∀ (p : Option Pfx) (w : FmtA),
    let issues := fun (i : Instr) (op : CmdOp) (tl : Nat) (boxed : Bool) (names : Nat → Nat → Nat → List Nat) =>
      ∀ s q, Issues s i q → s.inOrder →
        let quad := (List.range 4).map fun k => q.t.sreg (scalarNo w.a + k)
        let word := fun k => (quad.getD k 0).toNat
        let obj := if w.b = 96 then none else some (q.read w.b 1 0)
        let used := names (word 0) (word 1) (word 2)
        (∀ o, obj = some o → o % 16 = 0 ∧ o + 16 ≤ q.m.header.scratch * 1024) →
        (boxed → word 1 % 64 = 0 ∧ word 1 + 64 ≤ q.m.header.scratch * 1024) →
        (∀ h ∈ used, ∃ k, cachedEntry s q.m h = some k) → inFlight q.m tl < 32 →
        ∃ t c, exec i s = .next (retire q i (placeCommand t q.m.uid c [])) ∧ t = { s with clusters := t.clusters } ∧
          c.tl = tl ∧ c.number = (timelineOf q.m tl).issued + 1 ∧ c.op = op ∧ c.strand = q.t.index ∧
          c.status = (if w.d = 96 then none else some (scalarNo w.d)) ∧ c.object = obj ∧ c.quad = quad ∧
          c.handles.map (·.1) = used ∧ (∀ e ∈ c.handles, ∃ k, cachedEntry s q.m e.1 = some k ∧ e.2 = k.image) ∧
          c.code = issueCode c ∧ c.done = [] ∧ c.complete = false ∧
          (motifOf (placeCommand t q.m.uid c []) q.m.uid).map (·.commands) = some (q.m.commands ++ [c])
    let pair := fun w0 => [w0 % 4096, w0 / 4096 % 4096]
    issues (.xcopy p w) .xcopy 0 false (fun w0 _ _ => pair w0) ∧
    issues (.xtile p w) .xtile 0 true (fun w0 _ _ => pair w0) ∧
    issues (.xgath p w) .xgath 0 false (fun w0 w1 _ => pair w0 ++ [w1 % 4096]) ∧
    issues (.xscat p w) .xscat 0 false (fun w0 w1 _ => pair w0 ++ [w1 % 4096]) ∧
    issues (.xfill p w) .xfill 0 true (fun w0 _ _ => [w0 / 4096 % 4096]) ∧
    issues (.xform p w) (.xform w.fn.toNat) 1 true (fun w0 _ w2 => pair w0 ++ if w.fn = 6 then [w2 % 4096] else []) ∧
    issues (.seedscan p w) .seedscan 2 false
      (fun w0 _ w2 => pair w0 ++ if w2 / 2 ^ 25 % 2 = 1 then [w2 / 2 ^ 13 % 4096] else [])) ∧
  (∀ (p : Option Pfx) (w : FmtA),
    let n := fun (q : Iss) => q.read w.a 2 0
    let hit : Iss → Command → Bool := fun q c => c.tl == 0 && !c.complete && decide (n q ≤ c.number)
    let cancel := fun (q : Iss) (c : Command) =>
      if hit q c then { c with cancelled := true, limit := 0, code := 8 } else c
    let stopped := fun (q : Iss) (s : State) => updMotif s q.m.uid fun m => { m with commands := m.commands.map (cancel q) }
    let issued := fun (q : Iss) => (timelineOf q.m 0).issued
    let live := fun (q : Iss) => q.m.commands.find? fun c => c.tl == 0 && c.number == n q && !c.complete
    let known := fun (q : Iss) (v : Nat) (s : State) => Issues s (.xstat p w) q → n q ≠ 0 → n q ≤ issued q →
      keepsLanes q w.d [BitVec.ofNat 32 v] →
      exec (.xstat p w) s = .next (retire q (.xstat p w) (putStrand s q (withWords q w.d [BitVec.ofNat 32 v])))
    Effects (.xcancel p w) (fun q _ => n q ≠ 0 ∧ w.d = 96) stopped ∧
    Effects (.xcancel p w) (fun q _ => n q ≠ 0 ∧ w.d ≠ 96 ∧ ∀ c ∈ q.m.commands, ¬hit q c)
      (fun q s => putStrand (stopped q s) q (withWords q w.d [0])) ∧
    Effects (.xcancel p w) (fun q _ => n q ≠ 0 ∧ w.d ≠ 96 ∧ ∃ c ∈ q.m.commands, hit q c)
      (fun q s => updStrand (stopped q s) q.m.uid q.t.index fun t => { t with pending := t.pending ++
        [{ reg := scalarNo w.d, tl := 0, number := 0, cancel := (q.m.commands.filter (hit q ·)).map (·.number) }] }) ∧
    (∀ q s c, live q = some c → known q (2 ^ 8 * min (committed c) (2 ^ 24 - 1)) s) ∧
    (∀ q s, live q = none → issued q < n q + 256 → known q (tget 0 q.m.statuses (n q)).toNat s) ∧
    (∀ q s, live q = none → n q + 256 ≤ issued q → known q (n q % 2 ^ 24 * 2 ^ 8 + 63 * 4 + 1) s))

/-- R298, R300, R301, R303, R315: a chunk that meets no error is performed once and noted with its sticky bits; a command
whose chunks are performed completes in order, its status register holds number, code and the two low bits, and those who
wait for it go on. -/
def Obligations.CommandsRunAndComplete : Prop :=
  (∀ (s s1 : State) (uid tl number k : Nat) (m : Motif) (c : Command) (data : List (List Byte)),
    motifOf s uid = some m → commandOf m tl number = some c → m.drained = false → c.op ≠ .mstore → c.index.isSome →
    c.waits = [] → m.letsChunk c = true → k ∉ c.done → k < min c.chunks c.limit → (c.op = .xfill → (cmdOut c []).fail = false) →
    let s0 := updMotif s uid fun m => { m with retries := m.retries.filter fun r => r != .command tl number }
    let epoch := c.epochIn k (jobOf s m.cid).epoch
    let lines := ((unitLines (cmdUnits c)).drop (8 * k)).take 8
    let us := (cmdUnits c).filter fun u => u.dst.any fun p => (linesOf [p]).any lines.contains
    us.any (pieceSkewed c) = false → gather s0 m (cmdAsker m c.tl c.number) false (us.flatMap (·.src)) = .ok s1 data →
    let outs := (us.foldl (fun (a : List UnitOut × List (List Byte)) u =>
      (a.1 ++ [cmdOut c (a.2.take u.src.length)], a.2.drop u.src.length)) ([], data)).1
    outs.any (·.fail) = false →
    let go := (((us.zip outs).flatMap fun e => (e.1.dst.zip e.2.bytes).flatMap fun d =>
      (cutPiece d.1).map fun x => (x.1, (d.2.drop ((x.1 + 2 ^ 64 - d.1.1) % 2 ^ 64)).take x.2))).filter
        fun p => lines.contains (p.1 / 128)
    (∀ p ∈ go, (match agentTarget s1 m p.1 p.2.length .write with
      | .scratch _ => true
      | .phys a e => !formatting s1 (.phys a e)
      | _ => false) = true) →
    ∃ t, exec (.chunkPerformed uid tl number k) s = .next t ∧
      t = updCommand (go.foldl (fun s p => scatterPiece m (cmdAsker m c.tl c.number) epoch s p.1 p.2) s1) m.uid c.tl c.number
        fun c => { c with
          done := c.done ++ [k], begun := c.begun.filter (fun b => b.1 != k)
          sticky := c.sticky ||| outs.foldl (fun b o => b ||| o.sticky) 0 }) ∧
  (∀ (s : State) (uid tl number : Nat) (m : Motif) (c : Command) (r : Nat) (t : Strand),
    motifOf s uid = some m → commandOf m tl number = some c → canComplete s m c = true → c.sticky = 0 → c.object = none →
    tl < m.timelines.length → number = (timelineOf m tl).done + 1 → c.code ≠ 4 → c.code ≠ 5 → c.strand = t.index →
    c.op ≠ .mstore → (∀ x ∈ m.commands, x.complete = true → x.tl ≠ tl) →
    c.status = some r → strandOf m t.index = some t → t.over = false → t.pending = [{ reg := r, tl := tl, number := number, cancel := [] }] →
    ∃ s', exec (.commandComplete uid tl number) s = .next s' ∧ s' = { s with motifs := s'.motifs, clusters := s'.clusters } ∧
      (motifOf s' uid).map (fun m' => (timelineOf m' tl).done) = some number ∧
      (strandAt s' uid t.index).map (fun u => (u.pending, tget 0 u.sregs r)) =
        some ([], BitVec.ofNat 32 (number % 2 ^ 24 * 2 ^ 8 + c.code * 4 + (if c.code = 0 then 1 else 3))) ∧
      ∀ u, strandAt s' uid t.index = some u → ∀ x ∈ u.live ++ u.stack, x.wait ≠ .timeline tl ∧ x.wait ≠ .status r)

/-! ## The matrix sequencer -/

/-- R322, R323, R326, R327, R329: the arithmetic of the k registers, where k0 reads 0 and takes no value, the branch, the
end of the stream and the save point; a field that names no k register is sequencer fault 2. -/
def Obligations.SequencerArithmetic : Prop :=
  ∀ (w : FmtA) (b : FmtB) (u : FmtU) (j : FmtJ),
    let x := fun (z : SeqIss) => z.q.kreg w.a.toNat
    let y := fun (z : SeqIss) => z.q.kreg w.b.toNat
    let three := [w.d, w.a, w.b]
    let v := fun (z : SeqIss) => (z.q.kreg j.a.toNat).toInt
    let taken := fun (z : SeqIss) => match j.fn.toNat with
      | 0 => True
      | 1 => v z = 0
      | 2 => v z ≠ 0
      | 3 => v z < 0
      | 4 => 0 ≤ v z
      | 5 => 0 < v z
      | _ => v z ≤ 0
    let jumps := fun (z : SeqIss) (s : State) (pc : Int) =>
      exec (.kbra j) s = .next (elapse (updSeq s z.m.uid fun _ =>
        { z.q with pc := (pc % 2 ^ 32).toNat, wait := false, waits := [] }) 1)
    SeqComputes (.kadd w) three w.d (fun z => x z + y z) ∧
    SeqComputes (.ksub w) three w.d (fun z => x z - y z) ∧
    SeqComputes (.kmul w) three w.d (fun z => x z * y z) ∧
    SeqComputes (.kand w) three w.d (fun z => x z &&& y z) ∧
    SeqComputes (.kor w) three w.d (fun z => x z ||| y z) ∧
    SeqComputes (.kshl w) three w.d (fun z => x z <<< (y z).toNat) ∧
    SeqComputes (.kaddi b) [b.d, b.a] b.d (fun z => z.q.kreg b.a.toNat + b.imm.signExtend 64) ∧
    SeqComputes (.kli u) [u.d] u.d (fun _ => u.imm.signExtend 64) ∧
    (∀ i rs n, (i, rs) ∈ [(Instr.kadd w, three), (.ksub w, three), (.kmul w, three), (.kand w, three), (.kor w, three),
        (.kshl w, three), (.kaddi b, [b.d, b.a]), (.kli u, [u.d])] →
      (rs.find? fun r => decide (32 ≤ r.toNat)) = some n → SeqFaults i (fun _ _ => True) 2 (fun _ => n.toNat)) ∧
    SeqFaults (.kbra j) (fun _ _ => j.fn ≠ 0 ∧ 32 ≤ j.a.toNat) 2 (fun _ => j.a.toNat) ∧
    (∀ s z, SeqIssues s (.kbra j) z → (j.fn = 0 ∨ j.a.toNat < 32) →
      (taken z → jumps z s (z.off + 4 + 4 * j.off.toInt)) ∧ (¬taken z → jumps z s (z.off + 4))) ∧
    SeqDoes (.kend w) (fun _ _ => True) (fun z => { z.q with ended := true }) ∧
    SeqDoes (.myield w) (fun _ _ => True) (fun z => { z.q with saveHere := z.q.saveHere || z.m.preempt.isSome })

/-- R322, R324, R328, R395: KLD and KST move 4 or 8 bytes at an aligned address of the motif's memory, KST once nothing
issued before it can fault; another address is fault 10. Log entry 76. -/
def Obligations.SequencerMemory : Prop :=
  ∀ (w : FmtM),
    let n := if w.w = 3 then 8 else 4
    let va := fun (z : SeqIss) => (((z.q.kreg w.a.toNat).toNat + w.off.toInt * n) % 2 ^ 64).toNat
    let names := w.d.toNat < 32 ∧ w.a.toNat < 32
    (∀ s z data blocks, SeqIssues s (.kld w) z → names → va z % n = 0 →
      (match agentTarget s z.m (va z) n .read with
        | .scratch off => blocks = blocksIn off n ∧ data = readBytes (scratchOf s z.m.uid) off n
        | .phys a e => blocks = 0 ∧ a.space ≠ .host ∧ formatting s (.phys a e) = false ∧ (a.space ≠ .window → isPoisoned s a = false) ∧
            data = readBytes (spaceMem s a.space) a.addr n
        | _ => False) →
      ∃ t q, exec (.kld w) s = .next (seqLeft z q t) ∧ q = { z.q with k := q.k } ∧
        t = { s with
          clusters := t.clusters, requests := t.requests, walkCaches := t.walkCaches, firstRead := t.firstRead
          latent := t.latent, hostBus := t.hostBus, syslog := t.syslog, out := t.out
          vdevs := (chargeBlocks s z.m.cid blocks).vdevs } ∧
        ∀ r, q.kreg r = if r = w.d.toNat ∧ r ≠ 0 then BitVec.ofNat 64 (leNat data) else z.q.kreg r) ∧
    (∀ s z, SeqIssues s (.kst w) z → names → va z % n = 0 → nothingFaults z = true →
      let bytes := leBytes n (z.q.kreg w.d.toNat).toNat
      (∀ off, agentTarget s z.m (va z) n .write = .scratch off →
        exec (.kst w) s = .next (seqLeft z z.q (chargeBlocks (putScratch s z.m.uid off bytes) z.m.cid (blocksIn off n)))) ∧
      (∀ a e, agentTarget s z.m (va z) n .write = .phys a e → a.space ≠ .host → formatting s (.phys a e) = false →
        (a.space ≠ .window → isPoisoned s a = false) →
        ∃ t, exec (.kst w) s = .next (seqLeft z z.q t) ∧ readBytes (spaceMem t a.space) a.addr n = bytes ∧
          ∀ y, ¬hits y n (.phys a e) → byteAt t y = byteAt s y)) ∧
    SeqWaits (.kst w) (fun z s => names ∧ va z % n = 0 ∧ nothingFaults z = false ∧
      ∃ off, agentTarget s z.m (va z) n .write = .scratch off) ∧
    SeqFaults (.kld w) (fun z _ => names ∧ va z % n ≠ 0) 10 va ∧
    SeqFaults (.kst w) (fun z _ => names ∧ va z % n ≠ 0) 10 va

/-- R330 to R332: MSIG arrives for the sequencer once in a phase and when its engine work is done, MWAIT waits while the
phase of its arrival lasts, MWAITT until a counter's done reaches a number; a wait that nothing can end is fault 13, a
barrier that the header does not give fault 3. -/
def Obligations.SequencerBarriers : Prop :=
  ∀ (w : FmtA),
    let n := (w.b.extractLsb' 0 4).toNat
    let bar := fun (z : SeqIss) => tget Barrier.reset z.m.barriers n
    let given := fun (z : SeqIss) => z.m.header.barriers.getLsbD n = true
    let signals := fun (z : SeqIss) => given z ∧ z.m.header.seqbar.getLsbD n = true
    let gone := fun (z : SeqIss) => ∀ t ∈ z.m.strands, t.over = true
    let quiet := fun (z : SeqIss) (s : State) => z.q.work = [] ∧
      (∀ c ∈ z.m.commands, c.op = .mstore → c.complete = true) ∧
      ∀ r ∈ s.requests, r.uid = z.m.uid → r.strand = 2000 → r.op = 3 → r.answer.isSome
    let tl := (w.b.extractLsb' 0 2).toNat
    let v := fun (z : SeqIss) => (z.q.kreg w.a.toNat).toNat
    (∀ s z, SeqIssues s (.msig w) z → signals z → (bar z).seqIn = false → quiet z s →
      exec (.msig w) s = .next (elapse (updSeq (updMotif s z.m.uid fun m => checkBarrier { m with
          barriers := tset Barrier.reset m.barriers n { bar z with arrivals := (bar z).arrivals + 1, seqIn := true }
          seq := m.seq.map fun q => { q with arrived := (n, (bar z).phase) :: q.arrived.filter fun e => e.1 != n } } n)
        z.m.uid fun q => { q with pc := z.off + 4, wait := false, waits := [] }) 1)) ∧
    SeqWaits (.msig w) (fun z s => signals z ∧ (bar z).seqIn = false ∧ ¬quiet z s) ∧
    SeqWaits (.msig w) (fun z _ => signals z ∧ (bar z).seqIn = true ∧ ¬gone z) ∧
    SeqDoes (.mwait w) (fun z _ => given z ∧ ∀ e ∈ z.q.arrived, e.1 = n → e.2 ≠ (bar z).phase) (fun z => z.q) ∧
    SeqWaits (.mwait w) (fun z _ => given z ∧ (z.q.arrived.find? fun e => e.1 == n) = some (n, (bar z).phase) ∧ ¬gone z) ∧
    SeqFaults (.mwait w) (fun z _ => given z ∧ (z.q.arrived.find? fun e => e.1 == n) = some (n, (bar z).phase) ∧ gone z) 13
      (fun _ => n) ∧
    SeqFaults (.mwait w) (fun z _ => ¬given z) 3 (fun _ => n) ∧
    SeqDoes (.mwaitt w) (fun z _ => w.a.toNat < 32 ∧ v z ≤ (timelineOf z.m tl).done) (fun z => z.q) ∧
    SeqWaits (.mwaitt w) (fun z _ => w.a.toNat < 32 ∧ (timelineOf z.m tl).done < v z ∧
      (v z ≤ (timelineOf z.m tl).issued ∨ ¬gone z)) ∧
    SeqFaults (.mwaitt w) (fun z _ => w.a.toNat < 32 ∧ (timelineOf z.m tl).done < v z ∧
      (timelineOf z.m tl).issued < v z ∧ gone z) 13 (fun _ => tl)

/-- R333, R336 to R341, R352: the matrix instructions read their registers, descriptors and entries at issue and queue their
work behind what is queued; a count of 0 queues none, MFETCH does nothing, MEPI sets the epilogue. -/
def Obligations.MatrixIssue : Prop :=
  ∀ (w : FmtA) (d : Nat),
    let reg := fun (z : SeqIss) (r : Reg) (n : Nat) => z.q.kreg (r.toNat + n)
    let da := fun (z : SeqIss) => reg z w.a 0
    let db := fun (z : SeqIss) => reg z w.a 1
    let count := fun (z : SeqIss) => (reg z w.b 0).toNat
    let plain := fun (k : Dword) => k.toNat < 2 ^ 60
    let queues := fun (z : SeqIss) (o : List EngineOp) => { z.q with work := z.q.work ++ o, queued := z.q.queued + o.length }
    let onPair := w.a.toNat < 32 ∧ w.a.toNat % 2 = 0 ∧ w.b.toNat < 32
    let sharp := fun (h : Handle) (korg other k : Nat) =>
      if 12 ≤ h.fmt then (if h.major then other % 32 = 0 else korg % 32 = 0) else korg % k = 0
    let operands := fun (s : State) (z : SeqIss) (ea eb : List Byte) =>
      namesTile z w.d d ∧ onPair ∧ count z < 65536 ∧ plain (da z) ∧ plain (db z) ∧ seqHeld s z (descH (da z)) ea ∧
      seqHeld s z (descH (db z)) eb ∧ (parseHandle ea).rank = 2 ∧ (parseHandle eb).rank = 2
    let steps := fun (i : Instr) (s : State) (z : SeqIss) (ea eb : List Byte) (seeded : Bool) =>
      ∃ t, exec i s = .next (seqLeft z (queues z
          (if count z = 0 then [] else [.mma d (da z) (db z) (count z) 0 ea eb seeded z.off])) t) ∧
        t = { s with clusters := t.clusters }
    let rowOp := fun (i : Instr) (upper : Bool) (more : SeqIss → Prop) (o : SeqIss → Nat → EngineOp) =>
      ∀ a, SeqDoes i (fun z _ => namesTile z w.d d ∧ namesTile z w.a a ∧ w.b.toNat < 32 ∧ bitsAt (count z) 10 22 = 0 ∧
        (upper → count z < 2 ^ 32) ∧ modeAfter z.q d = false ∧ modeAfter z.q a = false ∧ more z) (fun z => queues z [o z a])
    (∀ s z ea eb k, SeqIssues s (.mma w) z → operands s z ea eb →
      classOn s (cidVd z.m.cid) (parseHandle ea).fmt (parseHandle eb).fmt = some k →
      (if 12 ≤ (parseHandle ea).fmt then descK (da z) % 32 = 0 else descK (da z) % k = 0) →
      sharp (parseHandle eb) (descK (db z)) (descO (db z)) k →
      (if (parseHandle ea).fmt = 1 then pairMode z.q d = true ∧ z.m.header.acctiles.getLsbD (d + 1) = true
        else modeAfter z.q d = false) →
      steps (.mma w) s z ea eb false) ∧
    (∀ s z ea eb, SeqIssues s (.mmas w) z → operands s z ea eb →
      let k := if (parseHandle ea).fmt = 3 then 16 else 32
      (parseHandle ea).fmt = 3 ∨ (parseHandle ea).fmt = 4 ∨ (parseHandle ea).fmt = 5 →
      (parseHandle eb).fmt = 18 → (parseHandle eb).sealed = true → (parseHandle eb).major = false →
      descK (da z) % k = 0 → descK (db z) % 32 = 0 → modeAfter z.q d = false → steps (.mmas w) s z ea eb true) ∧
    SeqDoes (.mzero w) (fun z _ => namesTile z w.d d ∧ (w.fn = 1 → d % 2 = 0 ∧ z.m.header.acctiles.getLsbD (d + 1) = true))
      (fun z => queues z [.mzero d (w.fn == 1)]) ∧
    (∀ s z e, SeqIssues s (.mldacc w) z → namesTile z w.d d → w.a.toNat < 32 → plain (da z) →
      seqHeld s z (descH (da z)) e → (parseHandle e).rank = 2 → (parseHandle e).fmt < 2 →
      ((parseHandle e).fmt = 1 → d % 2 = 0 ∧ z.m.header.acctiles.getLsbD (d + 1) = true) →
      ∃ t, exec (.mldacc w) s = .next (seqLeft z (queues z [.mldacc d (da z) e z.off]) t) ∧
        t = { s with clusters := t.clusters }) ∧
    rowOp (.mrowmax w) true (fun _ => True) (fun z a => .rowmax d a (count z % 256)) ∧
    rowOp (.mrowsum w) true (fun _ => True) (fun z a => .rowsum d a (count z % 256)) ∧
    (w.fn = 1 → rowOp (.mscale w) false (fun _ => True)
      (fun z a => .scale d a 0 0 (some (BitVec.ofNat 32 (count z / 2 ^ 32))))) ∧
    (w.fn ≠ 1 → rowOp (.mscale w) true (fun z => z.m.header.acctiles.getLsbD (bitsAt (count z) 8 2) = true ∧
        modeAfter z.q (bitsAt (count z) 8 2) = false)
      (fun z a => .scale d a (bitsAt (count z) 8 2) (count z % 256) none)) ∧
    (∀ a, SeqDoes (.mcopy w) (fun z _ => namesTile z w.d d ∧ namesTile z w.a a ∧ modeAfter z.q d = false ∧
      modeAfter z.q a = false) (fun z => queues z [.copy d a])) ∧
    SeqDoes (.mfetch w) (fun z s => onPair ∧ (cachedEntry s z.m (descH (da z))).isSome ∧
      (cachedEntry s z.m (descH (db z))).isSome) (fun z => z.q) ∧
    SeqDoes (.mepi w) (fun z _ => w.a.toNat < 32 ∧ w.b.toNat < 32 ∧ (da z).toNat < 2 ^ 32 ∧
      (f32.unpack (da z).toNat).special = false ∧ bitsAt (count z) 36 27 = 0) (fun z =>
        { z.q with scale := (da z).setWidth 32, act := w.fn.toNat, biasOn := (reg z w.b 0).getLsbD 63
                   biasHandle := count z % 4096, borg := bitsAt (count z) 12 24 })

/-- R59, R319, R337, R338, R340, R342, R343: the head of the queued work zeroes or copies a tile, or accumulates a K-step,
each cell the sum of its products and its old value, rounded once; MSTORE converts the rows within the tensor and places
them as a command of the fourth counter, the tile's flags taken. Log entry 76. -/
def Obligations.MatrixWork : Prop :=
  (∀ s uid m q rest, motifOf s uid = some m → m.seq = some q → q.opWaits = [] → q.tiles.length = 4 → (ctxOf s m.cid).stopped = false →
    (q.fault = none ∨ q.recorded = true) →
    (∀ d pair, q.work = .mzero d pair :: rest →
      ∃ q', exec (.kStep uid) s = .next (updSeq s uid fun _ => q') ∧ q' = { q with work := rest, tiles := q'.tiles } ∧
        ∀ n < 4, q'.tile n = if n = d ∨ (pair ∧ n = d + 1) then { rows := [], f64 := pair, flags := 0 } else q.tile n) ∧
    (∀ d a, q.work = .copy d a :: rest →
      ∃ q', exec (.kStep uid) s = .next (updSeq s uid fun _ => q') ∧ q' = { q with work := rest, tiles := q'.tiles } ∧
        ∀ n < 4, q'.tile n = if n = d then
          { q.tile d with rows := (q.tile a).rows, flags := (q.tile d).flags ||| (q.tile a).flags } else q.tile n) ∧
    (∀ d da db n step ea eb off s1 data, q.work = .mma d da db n step ea eb false off :: rest → d < 4 →
      let a := parseHandle ea
      let b := parseHandle eb
      let k := (classK a.fmt b.fmt).getD 1
      let pa := matPieces a (descK da + step * k) k (descO da) 128
      let pb := matPieces b (descK db + step * k) k (descO db) 256
      a.fmt ≠ 1 → b.major = false → skewedPiece a pa = none → skewedPiece b pb = none →
      gather s m (seqAsker m off) true (pa ++ pb) = .ok s1 data →
      let rows := (decodeRows a (descK da + step * k) k ((List.range 128).map (descO da + ·)) (data.take pa.length)).1
      let cols := (decodeRows b (descK db + step * k) k ((List.range 256).map (descO db + ·)) (data.drop pa.length)).1
      ∃ q' v, exec (.kStep uid) s = .next { updSeq s1 uid (fun _ => q') with vdevs := v } ∧
        q' = { q with work := q'.work, tiles := q'.tiles } ∧
        q'.work = (if step + 1 < n then [.mma d da db n (step + 1) ea eb false off] else []) ++ rest ∧
        ∀ r < 128, ∀ c < 256, (q'.tile d).cell r c =
          BitVec.ofNat 32 (kCell f32 ((q.tile d).cell r c).toNat (rows.getD r []) (cols.getD c [])).1)) ∧
  (∀ (w : FmtA) (d : Nat) s z e, SeqIssues s (.mstore w) z → namesTile z w.d d → w.a.toNat < 32 →
    let da := z.q.kreg w.a.toNat
    let h := parseHandle e
    let wide := modeAfter z.q d
    da.toNat < 2 ^ 60 → seqHeld s z (descH da) e → h.rank = 2 → h.fmt < 18 → (isBlock h.fmt = true → descK da % 32 = 0) →
    (wide = true → pairMode z.q d = true) → h.sealed = false → tileBusy z.q d = false → tileBusy z.q (d + 1) = false →
    inFlight z.m 3 < 32 → nothingFaults z = true → h.bound ≠ 3 → (w.fn = 1 → z.q.biasOn = false) →
    let row := fun r => (storeRow z.q h d wide (w.fn == 1) (fun _ => .fin false 0 0) da r).1
    (∀ r < 128, descO da + r < h.dim 1 → skewedPiece h ((row r).map (·.1)) = none) →
    ∃ t q c, exec (.mstore w) s = .next (seqLeft z q (placeCommand t z.m.uid c [])) ∧ t = { s with clusters := t.clusters } ∧
      q = { z.q with tiles := q.tiles } ∧ (q.tile d).flags = 0 ∧ (∀ n, (q.tile n).rows = (z.q.tile n).rows) ∧
      c.tl = 3 ∧ c.number = (timelineOf z.m 3).issued + 1 ∧ c.op = .mstore ∧ c.code = 0 ∧ c.complete = false ∧ c.behind = z.q.queued ∧
      c.handles = [(descH da, e)] ∧ c.chunks = c.rows.length ∧
      c.rows = ((List.range 128).filter fun r => decide (descO da + r < h.dim 1)).map fun r =>
        { row := r, bytes := (row r).flatMap pieceBytes })

/-! ## Consistent cuts -/

/-- R432, R433, R438, R454 to R458: SNAP starts a cut where the chip coordinates the job, asks the coordinator where it does
not, and answers busy or refused; SNAPWAIT waits for a live cut and gives the state of an ended one; SNAPSTAT samples. Log
entry 30. -/
def Obligations.Snapshots : Prop :=
  ∀ (p : Option Pfx) (w : FmtA) (s : State) (q : Iss),
    let cid := q.m.cid
    let own := ownChip s (cidVd cid)
    let gives := fun (i : Instr) (v : List Word) =>
      keepsLanes q w.d v → exec i s = .next (retire q i (putStrand s q (withWords q w.d v)))
    let n := q.read w.a 1 0
    (Issues s (.snap p w) q →
      (q.m.desc.cutRight = false ∨ cutBlockOf s cid = none → gives (.snap p w) [0xFFFFFFFF]) ∧
      ∀ b, q.m.desc.cutRight = true → cutBlockOf s cid = some b →
        let c := nextCut (jobOf s cid).latest
        (b.coord = own → colourReady s cid c = false → gives (.snap p w) [0]) ∧
        (b.coord = own → colourReady s cid c = true → keepsLanes q w.d [BitVec.ofNat 32 c] →
          ∃ t, exec (.snap p w) s = .next (retire q (.snap p w) t) ∧ (jobOf t cid).latest = c ∧
            (jobOf t cid).epoch = epochOf c ∧
            ((jobOf s cid).colours.length = 2 → ∃ x, some x ∈ (jobOf t cid).colours ∧ x.cutid = c ∧ x.live = true) ∧
            (strandAt t q.m.uid q.t.index).map (fun u => (u.sregs, u.mask)) =
              some ((withWords q w.d [BitVec.ofNat 32 c]).sregs, (withWords q w.d [BitVec.ofNat 32 c]).mask)) ∧
        (b.coord ≠ own → requestBy s q.asker (scalarNo w.d) 9 = none →
          ∃ t r, exec (.snap p w) s = .next (ended q (.snap p w) (waiting q (.snap (scalarNo w.d) 4) t)) ∧
            t = { s with nextRtag := (s.nextRtag + 1) % 2 ^ 32, requests := s.requests ++ [r], links := t.links } ∧
            r.op = 9 ∧ r.cid = cid ∧ r.rtag = s.nextRtag ∧ r.uid = q.m.uid ∧ r.answer = none)) ∧
    (Issues s (.snapwait p w) q →
      (cutOf s cid n = none → gives (.snapwait p w) [7]) ∧
      (∀ c, cutOf s cid n = some c → c.live = false → gives (.snapwait p w) [BitVec.ofNat 32 c.state]) ∧
      (∀ c, cutOf s cid n = some c → c.live = true →
        exec (.snapwait p w) s = .next (ended q (.snapwait p w) (waiting q (.cut (BitVec.ofNat 32 n)) s)))) ∧
    (Issues s (.snapstat p w) q →
      (cutOf s cid n = none → gives (.snapstat p w)
        (wordsOf (if w.fn = 3 then 2 else 1) (if w.fn = 0 then 7 else 0))) ∧
      ∀ c, cutOf s cid n = some c →
        (w.fn = 0 → gives (.snapstat p w) (wordsOf 1 (c.state + 16 * c.cause))) ∧
        (w.fn = 1 → gives (.snapstat p w) (wordsOf 1 (c.markers.length + 2 ^ 16 * c.channels))) ∧
        (w.fn = 2 → gives (.snapstat p w) (wordsOf 1 (if c.coord = own then c.doneFrom.length else c.doneSent.toNat))) ∧
        (w.fn = 3 → gives (.snapstat p w) (wordsOf 2 c.bytes)))

/-! ## Translation, faults and the host's pages -/

/-- R202, R214, R216, R228, R243, R369: a walk that grants an access caches its translation, one that meets a replayable
fault reports it once; a store that waits is performed whole; copies of a line are refilled from their home. Log entries 3,
14. -/
def Obligations.WalksAndWaitingStores : Prop :=
  (∀ (s : State) (w : WalkReq) (d : Desc),
    let va := w.va.toNat
    let tlb := fun (s : State) => (clusterOf s w.cl.die w.cl.cluster).tlb
    let s1 := discoverWalk s w.cl.die w.cid d false va
    descOfCtx s w.cid = some d → va < 0x00FFFFFC00000000 → inSaveRegion d va = false →
    (∀ e, walk s1 (some w.cl.die) w.cid d false va = .ok e → denied e w.access = none →
      ∃ t, exec (.translationWalk w) s = .next t ∧
        (e ∈ tlb t ∨ ∃ f ∈ tlb t, f.covers e.cid e.pod e.vbase = true ∧ e.size ≤ f.size)) ∧
    (∀ f, walk s1 (some w.cl.die) w.cid d false va = .error f → f.replayable = true →
      ∃ t, exec (.translationWalk w) s = .next t ∧ ∃ g ∈ t.faults, g.cid = w.cid ∧ g.page = f.page ∧ g.stage2 = f.stage2)) ∧
  (∀ (s : State) (index : Nat) (d : PendStore), s.pendStores[index]? = some d →
    d.move = none → (∀ e ∈ s.pendStores.take index, ¬(e.uid = d.uid ∧ e.strand = d.strand ∧ e.target.line = d.target.line)) →
    d.target.space = .device ∨ d.target.space = .tier2 → isPoisoned s d.target = false →
    ∃ t, exec (.accessPerformed index) s = .next t ∧ t.pendStores = s.pendStores.eraseIdx index ∧
      readBytes (spaceMem t d.target.space) d.target.addr d.bytes.length = d.bytes ∧
      ∀ y : PAddr, (y.space = d.target.space → y.addr < d.target.addr ∨ d.target.addr + d.bytes.length ≤ y.addr) →
        byteAt t y = byteAt s y) ∧
  (∀ (s : State) (q : QuadRef) (line : Nat),
    ∃ t, exec (.l1Refill q line) s = .next t ∧
      t = { s with
        clusters := t.clusters, tags := t.tags, tier2Tags := t.tier2Tags, latent := t.latent, vdevs := t.vdevs
        hostBus := t.hostBus, syslog := t.syslog, out := t.out } ∧
      ∀ l ∈ (clusterOf t q.die q.cluster).l1, l.quad = q.quad → l.line.addr = line / 128 * 128 → l.line.space ≠ .host →
        l.filled = s.clock ∧ l.bytes = readLine s l.line ∧ isPoisoned t l.line = false)

/-- R215, R221 to R224, R406, R407, R423: what an invalidation of either stage drops and when its count advances; a page
that the host's IOMMU grants is cached and its waiters go on; a page request that succeeds asks again; an ATS invalidation
leaves no translation and no copy of its pages, and is answered. -/
def Obligations.Invalidations : Prop :=
  (∀ (s : State) (vd : Nat) (c : InvCmd),
    let ok := c.rsv = 0 ∧ c.ctx.toNat < 2048 ∧ c.addr.toNat % 4096 = 0
    let meets := fun (base size : Nat) => c.pages = 0 ∨
      (c.addr.toNat < base + size ∧ base < c.addr.toNat + 4096 * c.pages.toNat)
    let held := fun (t : State) (e : TlbEntry) => ∃ k ∈ t.clusters, e ∈ k.2.tlb ∨ ∃ n, (n, e) ∈ k.2.qtlb
    let read := fun (t : State) (w : WalkEntry) => w ∈ t.firstRead ∨ ∃ k ∈ t.walkCaches, w ∈ k.2
    (ok → c.stage = 0 → ∃ t, exec (.invalidate vd c) s = .next t ∧
      t = { s with
        clusters := t.clusters, walkCaches := t.walkCaches, firstRead := t.firstRead
        invs := s.invs ++ [{ vd := vd, stage := 1 }] } ∧
      (∀ e, held t e → e.cid = cidOf vd c.ctx.toNat → ¬meets (halfAddr s e.cid e.pod e.vbase) e.size) ∧
      ∀ w, read t w → w.cid = cidOf vd c.ctx.toNat → w.stage2 = false → ¬meets (halfAddr s w.cid w.pod w.base) w.size) ∧
    (ok → c.stage = 1 → ∃ t, exec (.s2Invalidate vd c) s = .next t ∧
      t = { s with
        clusters := t.clusters, walkCaches := t.walkCaches, firstRead := t.firstRead
        invs := s.invs ++ [{ vd := vd, stage := 2 }] } ∧
      (∀ e, held t e → cidVd e.cid = vd → e.host = false → ¬meets e.gpbase e.size) ∧
      ∀ w, read t w → cidVd w.cid = vd → (w.stage2 = true → ¬meets w.base w.size) ∧
        (w.stage2 = false → w.level ≤ 1 ∧ ¬meets (leafBase 1 w.e) w.size)) ∧
    (¬(ok ∧ c.stage = 0) →
      exec (.invalidate vd c) s = .next (updVdev s vd fun v => { v with invcount := v.invcount ||| 0x80000000 })) ∧
    (¬(ok ∧ c.stage = 1) →
      exec (.s2Invalidate vd c) s = .next (updVdev s vd fun v => { v with s2invcount := v.s2invcount ||| 0x80000000 }))) ∧
  (∀ (s : State) (vd : Nat), (∀ d ∈ s.pendStores, cidVd d.cid ≠ vd) →
    let bumped := fun (old new : Word) => new.extractLsb' 0 31 = old.extractLsb' 0 31 + 1 ∧ new.msb = old.msb
    (InvPending.mk vd 1 ∈ s.invs → ∃ t, exec (.invalidationComplete vd 1) s = .next t ∧ t.invs = s.invs.erase ⟨vd, 1⟩ ∧
      bumped (vdevOf s vd).invcount (vdevOf t vd).invcount) ∧
    (InvPending.mk vd 2 ∈ s.invs → ∃ t, exec (.invalidationComplete vd 2) s = .next t ∧ t.invs = s.invs.erase ⟨vd, 2⟩ ∧
      bumped (vdevOf s vd).s2invcount (vdevOf t vd).s2invcount)) ∧
  (∀ (s : State) (r : AtsReply) a,
    let page := r.page.toNat / 4096 * 4096
    let pasid := r.pasid.toNat
    let mine := fun (x : AtsAsk) => x.isFor r.die r.vd pasid page = true
    let held := fun (t : State) (k : Nat) (cid : Cid) => AtcEntry.mk cid pasid page (r.frame.toNat / 4096 * 4096) true true true ∈
      (clusterOf t r.die k).atc
    a ∈ s.ats → mine a → (∀ x ∈ s.ats, mine x → x = a) → r.r = true → r.w = true → r.x = true → (∀ e ∈ s.clusters, e.2.stickyPend = []) →
    ∃ t, exec (.atsResponse r) s = .next t ∧ (∀ x ∈ t.ats, ¬mine x) ∧
      (a.front = true → held t frontCluster a.cid) ∧
      (∀ m ∈ s.motifs, m.die = r.die → cidVd m.cid = r.vd → m.desc.pasid = pasid → held t m.cluster m.cid) ∧
      ∀ k ∈ maskKinds a.mask, ∀ m ∈ t.motifs, ∀ u ∈ m.strands, u.waitsOn (· == .ats r.vd pasid page k) = false) ∧
  (∀ (s : State) (r : PriReply) a,
    let page := r.page.toNat / 4096 * 4096
    let pasid := r.pasid.toNat
    let mine := fun (x : PriAsk) => x.isFor r.vd pasid page r.access = true
    let waits := fun (w : PageWait) => w == .pri r.vd pasid page r.access
    a ∈ priSent s r.vd → mine a → (∀ x ∈ s.pri, mine x → x = a) → (∀ e ∈ s.clusters, e.2.stickyPend = []) →
    (r.result = .success → priWanted s a waits = true →
      ∃ t, exec (.priResponse r) s = .next t ∧ (∀ x ∈ t.pri, ¬mine x) ∧ (r.vd, pasid, page, r.access) ∈ t.hostTlbSuccess ∧
        ∀ m ∈ t.motifs, ∀ u ∈ m.strands, u.waitsOn waits = false) ∧
    (priWanted s a waits = false → ∃ t, exec (.priResponse r) s = .next t ∧
      t = { s with pri := s.pri.filter (· != a), out := t.out })) ∧
  (∀ (s : State) (vd : Nat) (pasid : Option (BitVec 20)) (base : BitVec 64) (size : Nat), s.pendStores = [] →
    let p := pasid.map (·.toNat)
    ∃ t, exec (.atsInvalidation vd pasid base size) s = .next t ∧ t.out = s.out ++ [.atsDone base.toNat size] ∧
      (∀ k ∈ t.clusters, ∀ e ∈ k.2.atc, cidVd e.cid = vd → (p = none ∨ p = some e.pasid) →
        ¬(e.page < base.toNat + size ∧ base.toNat < e.page + 4096)) ∧
      ∀ h ∈ t.hostLines, lineOfPages s vd p base.toNat size h = false)

/-- R219, R286, R370, R423, R424: a fault resolved with retry frees those who wait for it, one resolved with fail stops the
context; the format of a frame leaves zero bytes in the zero form under the new mode, and no other frame's bytes. Log entry
21. -/
def Obligations.FaultsResolvedAndFrames : Prop :=
  (∀ (s : State) (vd tag : Nat) (f : PFault), f ∈ s.faults → f.tag = tag → (∀ g ∈ s.faults, g.tag = tag → g = f) →
    f.reported = true → (∀ e ∈ s.clusters, e.2.stickyPend = []) →
    let retries := fun (i : Instr) => ∃ t, exec i s = .next t ∧
      t = { s with faults := t.faults, motifs := t.motifs, contexts := t.contexts } ∧ (∀ g ∈ t.faults, g.tag ≠ tag) ∧
      ∀ m ∈ t.motifs, ∀ u ∈ m.strands, u.halted = false → u.waitsOn (· == .fault tag) = false
    let fails := fun (i : Instr) => ∃ t, exec i s = .next t ∧ (∀ g ∈ t.faults, g.tag ≠ tag) ∧
      (ctxOf t f.cid).stopped = true
    (f.stage2 = false → cidVd f.cid = vd → retries (.resolveRetry vd tag) ∧
      (failWaits s tag = false → fails (.resolveFail vd tag))) ∧
    (f.stage2 = true → retries (.s2ResolveRetry tag) ∧ (failWaits s tag = false → fails (.s2ResolveFail tag)))) ∧
  (∀ (s : State) (vd : Nat) (cmd : BitVec 64),
    let v := vdevOf s vd
    let frame := v.fmtaddr / 2 ^ 21
    let good := cmd.toNat % 4 ≠ 3 ∧ v.fmtaddr % 2 ^ 21 = 0 ∧ inWindow v.fmtaddr = false ∧
      (frameOf s v.fmtaddr).owner = some vd
    v.fmtBusy = none →
    (good → s.pendStores = [] → ∃ t, exec (.frameFormat vd cmd) s = .next t ∧
      (vdevOf t vd).fmtBusy = some (frame, cmd.toNat % 4) ∧ (vdevOf t vd).fmtError = false ∧
      ∀ k ∈ t.clusters, ∀ e : TlbEntry, (e ∈ k.2.tlb ∨ ∃ n, (n, e) ∈ k.2.qtlb) → e.host = false → e.tier = false →
        ¬(e.pbase < frame * 2 ^ 21 + 2 ^ 21 ∧ frame * 2 ^ 21 < e.pbase + e.size)) ∧
    (¬good → exec (.frameFormat vd cmd) s = .next (updVdev s vd fun v => { v with fmtError := true }))) ∧
  (∀ (s : State) (vd frame mode : Nat), (vdevOf s vd).fmtBusy = some (frame, mode) → cutLive s vd = false →
    s.rxHeld = [] → (∀ e ∈ s.clusters, e.2.stickyPend = []) →
    ∃ t, exec (.frameFormatComplete vd) s = .next t ∧ (vdevOf t vd).fmtBusy = none ∧
      frameOf t (frame * 2 ^ 21) = { frameOf s (frame * 2 ^ 21) with mode := mode } ∧
      (∀ a, a / 2 ^ 21 = frame → byteAt t ⟨.device, a⟩ = 0 ∧ lineTag t ⟨.device, a⟩ = 1 ∧ isPoisoned t ⟨.device, a⟩ = false ∧
        ∀ k ∈ t.clusters, ∀ l ∈ k.2.l1, l.line ≠ ⟨.device, a⟩) ∧
      ∀ y : PAddr, (y.space = .device → y.addr / 2 ^ 21 ≠ frame) → byteAt t y = byteAt s y)

/-- R225, R257, R275, R281, R284, R367, R431: the host reads and writes the window at the offset that its function shows it;
data arriving without an error is written where it lies and nowhere else, poisoned data poisons its line, and neither
reaches a locked block. -/
def Obligations.WindowAndIngress : Prop :=
  (∀ (s : State) (a : WindowAccess) (at' : Nat), s.recovery = false → 1 ≤ a.size → a.size ≤ 8 →
    (a.func = .pf ∧ a.offset + a.size ≤ 0x40000 ∧ at' = a.offset) ∨
      (∃ vd i, a.func = .vf vd ∧ (vdevOf s vd).enabled = true ∧ (vdevOf s vd).winslice = some i ∧
        a.offset + a.size ≤ 8192 ∧ at' = i * 8192 + a.offset) →
    (a.write = none → exec (.hostWindowAccess a) s = .next { s with
      out := s.out ++ [.windowRead a.func (some (BitVec.ofNat 64 (leNat (readBytes s.window at' a.size))))] }) ∧
    (∀ v, a.write = some v → ∃ t, exec (.hostWindowAccess a) s = .next t ∧ t = { s with window := t.window } ∧
      readBytes t.window at' a.size = leBytes a.size v.toNat ∧
      ∀ x, x < at' ∨ at' + a.size ≤ x → tget 0 t.window x = tget 0 s.window x)) ∧
  (∀ (s : State) (d : Ingress),
    let p : PAddr := { space := d.space, addr := d.addr }
    let poisons := fun (t : State) => ∀ k < d.bytes.length, lineTag t { p with addr := d.addr + k } = 15
    (d.poisoned = false → d.check = none → d.addr % 128 + d.bytes.length ≤ 128 →
      (d.space = .device ∨ d.space = .tier2 → lockedBy s p d.bytes.length = none ∧ isPoisoned s p = false) →
      ∃ t, exec (.ingressData d) s = .next t ∧ readBytes (spaceMem t d.space) d.addr d.bytes.length = d.bytes ∧
        ∀ y : PAddr, (y.space = d.space → y.addr < d.addr ∨ d.addr + d.bytes.length ≤ y.addr) → byteAt t y = byteAt s y) ∧
    (d.poisoned = true → d.space = .device ∨ d.space = .tier2 → lockedBy s p d.bytes.length = none → ∃ t, exec (.ingressData d) s = .next t ∧ poisons t) ∧
    (∀ c, d.poisoned = false → d.check = some c → crc32c d.bytes ≠ c → crc32c d.again ≠ c →
      d.space = .device ∨ d.space = .tier2 → lockedBy s p d.bytes.length = none →
      ∃ t, exec (.ingressData d) s = .next t ∧ Out.ingressAgain d.port d.addr ∈ t.out ∧ poisons t) ∧
    (∀ c, d.poisoned = true ∨ d.check = none → d.space = .device ∨ d.space = .tier2 → lockedBy s p d.bytes.length = some c →
      exec (.ingressData d) s = .next (reportErr s { cid := c, code := 33, detail := cidCtx c })))

/-! ## Launch -/

/-- R181 to R188, R239, R365, R419: a ring's descriptor and tail, a ring resumed after a failed record, a record read and
checked at the ring's head, begun, completed in order, and the hoop of at most 32 pending rings. Log entries 22, 23. -/
def Obligations.RingsAndRecords : Prop :=
  ∀ (s : State) (ring : Nat),
    let r := ringOf s ring
    (∀ (func : Func) (tail : BitVec 64), r.enable = true →
      let own := ∀ vd, func = .vf vd → r.owner = some vd
      let inside := r.tail ≤ tail.toNat ∧ tail.toNat ≤ r.fetched + 2 ^ r.logsize
      (¬own → exec (.tailWrite ⟨func, ring⟩ tail) s = .next s) ∧
      (own → inside →
        exec (.tailWrite ⟨func, ring⟩ tail) s = .next (updRing s ring fun r => { r with tail := tail.toNat })) ∧
      (own → ¬inside → r.stopped = false → ∃ t, exec (.tailWrite ⟨func, ring⟩ tail) s = .next t ∧
        ringOf t ring = { r with stopped := true, code := 6 })) ∧
    (∀ vd (d : RingDesc), ring < 1024 → r.owner = some vd →
      (r.enable = false → d.ctl.getLsbD 0 = true → RingDesc.startable d (vdevOf s vd) = true →
        ∃ t, exec (.ringEnable vd ring d) s = .next t ∧ t = { s with rings := t.rings } ∧
          let n := ringOf t ring
          n.enable = true ∧ n.base = d.base ∧ n.logsize = d.logsize.toNat ∧ n.prio = d.prio.toNat ∧ n.ctx = d.ctx.toNat ∧
            n.tail = 0 ∧ n.fetched = 0 ∧ n.begun = 0 ∧ n.completed = 0 ∧ n.stopped = false ∧ n.owner = some vd) ∧
      (r.enable = true → d.ctl.getLsbD 0 = false → ∃ t, exec (.ringEnable vd ring d) s = .next t ∧
        ringOf t ring = { r with enable := false } ∧ ring ∉ t.hoop) ∧
      (r.enable = true → r.stopped = true → (ctxOf s (ringCid r)).stopped = false →
        (r.failed = [] → exec (.ringResume vd ring) s =
          .next (updRing s ring fun r => { r with stopped := false, code := 0, failed := [] })) ∧
        (r.failed = [r.completed + 1] → r.doneList = [] →
          ∃ t, exec (.ringResume vd ring) s = .next t ∧ (ringOf t ring).stopped = false ∧
            (ringOf t ring).completed = r.completed + 1))) ∧
    (ring ∈ s.hoop → ringFetches s r = true → r.fetched < r.tail →
      (∀ s1, checkRecord s ring = .error (.wait s1) → exec (.recordCheck ring) s = .next s1) ∧
      (∀ s1 rec, checkRecord s ring = .ok (s1, rec) → recordReady (frontForget s1 ring) rec = false →
        exec (.recordCheck ring) s = .next (frontForget s1 ring)) ∧
      (∀ s1 rec, checkRecord s ring = .ok (s1, rec) → recordReady (frontForget s1 ring) rec = true →
        ∃ t, exec (.recordCheck ring) s = .next t ∧ t.records = s1.records ++ [rec] ∧
          (ringOf t ring).fetched = (ringOf s1 ring).fetched + 1 ∧ rec.ring = ring ∧ rec.number = r.fetched + 1 ∧
          rec.cid = ringCid r ∧ rec.begun = false) ∧
      (∀ s1 code, checkRecord s ring = .error (.bad code s1) →
        ∃ t, exec (.recordCheck ring) s = .next t ∧ (ringOf t ring).stopped = true ∧ (ringOf t ring).code = code ∧
          (ringOf t ring).failed = (ringOf s1 ring).failed ++ [r.fetched + 1])) ∧
    (∀ s1 rec param, recordOf s ring (r.begun + 1) = some rec → r.enable = true → rec.begun = false →
      canBegin s rec = true → (ctxOf s rec.cid).stopped = false → (vdevOf s (cidVd rec.cid)).migrating = 0 →
      rec.kind ≠ 3 → readParam s rec = .ok (s1, param) → recordOf s1 ring (r.begun + 1) = some rec →
      ∃ t, exec (.recordBegin ring) s = .next t ∧
        (recordOf t ring (r.begun + 1)).map (fun x => (x.begun, x.param)) = some (true, param) ∧
        (ringOf s1 ring).begun < (ringOf t ring).begun) ∧
    (∀ number rec, recordOf s ring number = some rec → rec.begun = true → rec.done = false → recordOver rec = true →
      (ctxOf s rec.cid).stopped = false →
      (∀ r ∈ s.requests, r.cid = rec.cid → r.uid ∈ rec.writers → r.op = 3 ∨ r.op = 7 → r.answer.isSome) → ring < 1024 → number = r.completed + 1 → r.doneList = [] → rec.ring = ring → rec.number = number →
      ∃ t, exec (.recordComplete ring number) s = .next t ∧ (ringOf t ring).completed = number ∧
        recordOf t ring number = none ∧ (rec.flags.getLsbD 1 = true → Out.msi (r.owner.getD 0) ring ∈ t.out)) ∧
    ∃ t, exec .hoopEvaluation s = .next t ∧ t = { s with hoop := t.hoop, hoopAt := s.clock } ∧ (∀ x ∈ t.hoop, ringPending s x = true) ∧
      (s.hoop.length ≤ 32 → t.hoop.length ≤ 32)

/-- R17, R131, R142, R147, R148, R189, R190, R373, R378 to R381: a motif is placed as a launch leaves it, retires when its
work is over, is saved to the lowest free slot and restored from it, a strand's image giving back what it was made of; a
cluster drains before it changes context. Log entries 9, 20. -/
def Obligations.MotifLifecycle : Prop :=
  (∀ (s : State) ring number k rec st d cls m, recordOf s ring number = some rec → rec.stages[k]? = some st →
    descOfCtx s rec.cid = some d → rec.begun = true → (ctxOf s rec.cid).stopped = false →
    (vdevOf s (cidVd rec.cid)).migrating = 0 ∨ (vdevOf s (cidVd rec.cid)).share.mode = true →
    dispatchClass rec st = some cls → servedNext s rec d k cls = true → stageMotif s rec d k st = some m →
    ∃ t, exec (.motifPlacement ring number k) s = .next t ∧ m ∈ t.motifs ∧ t.nextUid = s.nextUid + 1 ∧
      (recordOf t ring number).bind (fun r => (r.stages[k]?).map (·.created)) = some (st.created + 1) ∧
      m.uid = s.nextUid ∧ m.cid = rec.cid ∧ m.stage = k ∧ m.motifid = BitVec.ofNat 32 st.created ∧
      (m.die, m.cluster) ∈ clusterChoices s rec.cid st.header d ∧ m.header = st.header ∧ m.strands.length = st.header.strands ∧
      ∀ u ∈ m.strands, u.sregs = [] ∧ u.vregs = [] ∧ u.mask = u.launched ∧ u.stack = [] ∧ u.handler = false ∧
        u.live = [{ pc := st.image + 256, members := u.launched, wait := .ready, held := false }]) ∧
  (∀ (s : State) (m : Motif), motifOf s m.uid = some m → (ctxOf s m.cid).stopped = false → unitsHeld s m = false →
    (∀ h ∈ (clusterOf s m.die m.cluster).handles, h.cid ≠ m.cid) →
    (motifOver m = true → ∃ t, exec (.motifRetire m.uid) s = .next t ∧ motifOf t m.uid = none ∧
      ∀ p ∈ (clusterOf t m.die m.cluster).order, p.1 ≠ m.uid) ∧
    (∀ i, m.preempt.isSome → unitsStopped m = true → freeSlot s m.cid m.desc = some i →
      imageStop s (motifView m) .write (imagePages m i (saveTags m)) = none →
      ∃ t, exec (.motifSave m.uid) s = .next t ∧ motifOf t m.uid = none ∧ t.mem = (saveImage s m.asSaved i).mem ∧
        ∃ v ∈ (ctxOf t m.cid).saved, v.slot = i ∧ v.motif = m.asSaved)) ∧
  (∀ (s : State) (m : Motif), motifOf s m.uid = some m → unitsHeld s m = true →
    exec (.motifRetire m.uid) s = .next s ∧ exec (.motifSave m.uid) s = .next s) ∧
  (∀ (s s1 : State) vd ctx slot v c,
    let cid := cidOf vd ctx
    ((ctxOf s cid).saved.find? fun v => v.slot == slot) = some v → (ctxOf s cid).stopped = false →
    (vdevOf s vd).migrating = 0 ∨ (vdevOf s vd).share.mode = true → chooseRestored s v.motif = some c →
    (reload s v c = .wait s1 → exec (.motifRestore vd ctx slot) s = .next s1) ∧
    (∀ detail strand, reload s v c = .bad detail strand s1 → ∃ t, exec (.motifRestore vd ctx slot) s = .next t ∧
      (ctxOf t v.motif.cid).stopped = true) ∧
    ∀ old, reload s v c = .ok old s1 →
      ∃ t m, exec (.motifRestore vd ctx slot) s = .next t ∧ m ∈ t.motifs ∧ m.uid = old.uid ∧ (m.die, m.cluster) = c ∧
        m.scratch = old.scratch ∧ m.strands.map (fun u => (u.sregs, u.vregs, u.mask, u.live.map (·.pc))) =
          old.strands.map (fun u => (u.sregs, u.vregs, u.mask, u.live.map (·.pc))) ∧
        ∀ x ∈ (ctxOf t cid).saved, x.slot ≠ slot) ∧
  (∀ (u z : Strand) (allot : Nat), allot ≤ 256 → u.stack.length ≤ 64 → u.live.length ≤ 2 →
    (∀ x ∈ u.live ++ u.stack, x.members ≠ 0) →
    let b := u.image allot
    let tags := (List.range allot).map (saveTag u)
    let slots := fun (l : List Slot) => l.map fun x => (x.pc, x.members)
    z = u.load u tags (b.take 0xC00) (b.drop 0xC00) →
    imageTags (b.take 0xC00) allot = tags ∧ imageFault (b.take 0xC00) allot u.stack.length = none ∧
      b.length = 0xC00 + (tags.map tagSize).sum ∧ (∀ n < 32, z.sreg n = u.sreg n) ∧
      (∀ r l, r < allot → l < 96 → z.vreg r l = u.vreg r l) ∧ slots z.live = slots u.live ∧ slots z.stack = slots u.stack ∧
      (z.frm, z.fflags, z.fexc, z.srseed, z.evpend, z.lastPop) = (u.frm, u.fflags, u.fexc, u.srseed, u.evpend, u.lastPop) ∧
      (z.evtimer, z.trappc, z.trapcause, z.trapval, z.handler) = (u.evtimer, u.trappc, u.trapcause, u.trapval, u.handler) ∧
      ∀ l < 96, tget 0 z.gens l = tget 0 u.gens l) ∧
  (∀ (s : State) (cl : ClusterRef) (cid : Cid),
    let here := clusterOf s cl.die cl.cluster
    here.absent = false →
    (residents s cl.die cl.cluster = [] → (∀ h ∈ here.handles, h.cid = cid) → here.ctx ≠ some cid →
      ∃ t, exec (.clusterSwitch cl cid) s = .next t ∧
        clusterOf t cl.die cl.cluster =
          { here with ctx := some cid, slice := 0, loading := some s.clock, draining := false }) ∧
    ((∃ m ∈ residents s cl.die cl.cluster, m.cid ≠ cid) →
      ∃ t, exec (.clusterSwitch cl cid) s = .next t ∧ t = { s with motifs := t.motifs, clusters := t.clusters } ∧
        (clusterOf t cl.die cl.cluster).draining = true ∧
        ∀ m ∈ t.motifs, m.die = cl.die → m.cluster = cl.cluster → m.cid ≠ cid → m.preempt.isSome))

/-! ## Contexts and pre-emption -/

/-- R365, R373 to R378, R399, R425: what the context commands do to the strands, motifs and context that they name, a
resumed strand waiting for no fault that was resolved meanwhile; a command turned away sets the error bit; the stop deadline
and the drain limit, for which a motif without a free save slot waits; and the end of a slice. Log entry 24. -/
def Obligations.ContextCommands : Prop :=
  (∀ (s : State) (vd : Nat) (c : CtxCmd),
    let cid := cidOf vd c.ctx.toNat
    let ok := ctxBusy s vd = false ∧ cmdExists c s vd = true
    let named := fun (m : Motif) => m.cid = cid ∧ (c.motif = 0xFFFFFFFF ∨ m.motifid = c.motif)
    let picked := fun (u : Strand) => c.strand = 0xFF ∨ c.strand.toNat = u.index
    (ok → ∃ t, exec (.ctxHalt vd c) s = .next t ∧
      t = { s with motifs := t.motifs, contexts := t.contexts, clusters := t.clusters } ∧
      ∀ m ∈ t.motifs, named m → ∀ u ∈ m.strands, picked u → u.over = false → u.halted = true) ∧
    (ok → (∀ f ∈ s.faults, f.failHeld = false) → ∃ t, exec (.ctxResume vd c) s = .next t ∧
      t = { s with motifs := t.motifs, contexts := t.contexts, clusters := t.clusters } ∧
      ∀ m ∈ t.motifs, named m → ∀ u ∈ m.strands, picked u → u.halted = false ∧
        ∀ tag, (∀ f ∈ s.faults, f.tag ≠ tag) → u.waitsOn (· == .fault tag) = false) ∧
    (ok → (ctxOf s cid).stopped = false → ∃ t, exec (.ctxPreempt vd c) s = .next t ∧
      t = { s with motifs := t.motifs, vdevs := t.vdevs } ∧
      ∀ m ∈ t.motifs, named m → (∃ u ∈ m.strands, picked u) → m.preempt.isSome) ∧
    (ok → c.motif = 0xFFFFFFFF → c.strand = 0xFF → ∃ t, exec (.ctxTeardown vd c) s = .next t ∧
      (∀ m ∈ t.motifs, m.cid ≠ cid) ∧ (∀ r ∈ t.records, r.cid ≠ cid) ∧ (ctxOf t cid).saved = [] ∧
      ∀ e ∈ t.rings, e.2.owner = some (cidVd cid) → e.2.ctx = cidCtx cid → e.2.enable = false) ∧
    (¬ok → ∀ i ∈ [Instr.ctxHalt vd c, .ctxResume vd c, .ctxPreempt vd c],
      exec i s = .next (updVdev s vd fun v => { v with ctxError := true }))) ∧
  (∀ (s : State) (m : Motif) (since : Nat), motifOf s m.uid = some m → m.preempt = some since →
    (freeSlot s m.cid m.desc = none → ∀ j, exec (.stopDeadlineExpiry m.uid j) s = .next s ∧
      exec (.drainLimitExpiry m.uid) s = .next s ∧ exec (.motifSave m.uid) s = .next s) ∧
    (m.halts = true → ∀ j, exec (.stopDeadlineExpiry m.uid j) s = .next s ∧
      exec (.drainLimitExpiry m.uid) s = .next s ∧ exec (.motifSave m.uid) s = .next s) ∧
    ((freeSlot s m.cid m.desc).isSome → m.halts = false → ∀ u, strandOf m u.index = some u → since + m.desc.deadline ≤ s.clock → u.atRest = false →
      u.halted = false → exec (.stopDeadlineExpiry m.uid u.index) s =
        .next (updStrand s m.uid u.index fun u => { u with stopped := true })) ∧
    ((freeSlot s m.cid m.desc).isSome → m.halts = false → since + m.desc.drainlim ≤ s.clock → m.drained = false →
      let squash := fun (c : Command) => if c.complete || c.op == .mstore then c
        else { c with done := if c.op = .seedscan then [] else List.range (committed c) }
      exec (.drainLimitExpiry m.uid) s =
        .next (updMotif s m.uid fun m => { m with drained := true, commands := m.commands.map squash }))) ∧
  (∀ (s : State) (cl : ClusterRef) (cid : Cid),
    let c := clusterOf s cl.die cl.cluster
    c.ctx = some cid → c.frozen = false →
    (vdevOf s (cidVd cid)).share.vslice ≤ c.slice ∨ emptied s cl.die cl.cluster = true →
    (motifWaitsFor s cl.die cl.cluster cid = false → exec (.sliceExpiry cl) s = .next
      (updCluster s cl.die cl.cluster fun c =>
        { c with slice := 0, draining := c.draining && !(residents s cl.die cl.cluster).isEmpty })) ∧
    (motifWaitsFor s cl.die cl.cluster cid = true → ∃ t, exec (.sliceExpiry cl) s = .next t ∧
      (clusterOf t cl.die cl.cluster).draining = true ∧
      ∀ m ∈ t.motifs, m.die = cl.die → m.cluster = cl.cluster → m.cid = cid → m.preempt.isSome))

/-! ## Shares, energy, units and migration -/

/-- R205, R384, R386, R388, R391, R395 to R397: the tick charges and refills each device's bucket and puts its staged share
block in force, a commit stages a block that passes its checks and names the first byte of one that does not, and a slot
fills every bucket and the pool before a request that its own tokens pay for is granted. Log entries 25, 26. -/
def Obligations.SharesAndEnergy : Prop :=
  (∀ s : State, ∃ t, exec .energyTick s = .next t ∧ ∀ vd < 32,
    let v := vdevOf s vd
    let u := vdevOf t vd
    let charge : Int := v.charge + heldCharge s vd
    let depth : Int := v.share.edepth * 10 ^ 9
    u.charge = 0 ∧ u.newShare = none ∧ u.share = v.newShare.getD v.share ∧ u.empty = v.emptyNow ∧ u.lent = v.lentNow ∧
      (v.newShare = none →
        u.bucket = (if v.share.erate = 0 then v.bucket
          else max (min (v.bucket + v.share.erate * 10 ^ 9) depth - charge) (-depth)) ∧
        u.hold = decide (v.share.erate ≠ 0 ∧ u.bucket ≤ 0))) ∧
  (∀ (s : State) (v : BitVec 32), v.toNat < 32 →
    let b := (vdevOf s v.toNat).staging
    (shareFault s v.toNat b = none → ∃ t, exec (.shareCommit v) s = .next t ∧ t.commit = 0 ∧
      (vdevOf t v.toNat).newShare = some (parseShare b) ∧ (vdevOf t v.toNat).share = (vdevOf s v.toNat).share) ∧
    ∀ off, shareFault s v.toNat b = some off →
      exec (.shareCommit v) s = .next { s with commit := 0x80000000 ||| BitVec.ofNat 32 off }) ∧
  (∀ (s : State) (kind inst : Nat) (r : ArbReq),
    let a := tget Arbiter.reset s.arbiters (instanceKey kind inst)
    let depth := fun (vd : Nat) => ((vdevOf s vd).share.depth.getD kind 0 : Int) * 65536
    let n := offered s kind a
    let sum := fun (vd : Nat) => tget 0 a.tok vd + (n : Int) * (rateOf s kind vd : Int)
    let cost : Int := r.units * 65536
    kind < 6 → inst < arbiterCount kind → r.vd < 32 → a.busy = 0 → unitLanesOf s kind inst ≠ some 0 → (kind = 4 → (linkOf s inst).failed = false ∧
      ∃ p, headPacket s inst r.vd = some p ∧ r.units = packetFlits p) →
    (kind ≠ 0 → cost ≤ min (sum r.vd) (depth r.vd)) →
    ∃ t, exec (.arbiterSlot kind inst [r]) s = .next t ∧
      let b := tget Arbiter.reset t.arbiters (instanceKey kind inst)
      (∀ vd < 32, tget 0 b.tok vd = min (sum vd) (depth vd) - (if kind ≠ 0 ∧ vd = r.vd then cost else 0)) ∧
      (kind ≠ 0 → b.busy = r.units - 1) ∧
      b.pool = min (a.pool + ((List.range 32).map fun vd => max 0 (sum vd - depth vd)).sum +
        (n : Int) * (65536 - ((List.range 32).map fun vd => (rateOf s kind vd : Int)).sum)) (65535 * 65536)) ∧
  ∀ (s : State) (vd : Nat) (v : BitVec 32),
    exec (.waymaskWrite vd v) s = .next (updVdev s vd fun d => { d with waymask := v.extractLsb' 0 16 })

/-- R123, R392 to R394, R400 to R404, R430: heat, a cluster that fails and its spare, lanes lost, the in-field test, and a
device that migrates. Log entries 27, 28. -/
def Obligations.UnitsAndMigration : Prop :=
  (∀ (s : State) (die : Nat) (c : Int),
    (c < 95 → exec (.thermalEvent die c) s = .next
      { s with heldDies := s.heldDies.filter (· != die), hotDies := s.hotDies.filter (· != die) }) ∧
    (95 ≤ c → c < 105 → ∃ t, exec (.thermalEvent die c) s = .next t ∧ t = { s with hotDies := t.hotDies } ∧ die ∈ t.hotDies) ∧
    (105 ≤ c → ∃ t, exec (.thermalEvent die c) s = .next t ∧ die ∈ t.heldDies ∧ t.motifs = [] ∧ t.records = [] ∧
      t.out = s.out ++ [.held die])) ∧
  (∀ (s : State) (cl : ClusterRef), cl.die < 4 → cl.cluster < 60 → (clusterOf s cl.die cl.cluster).absent = false →
    s.dies.length = 4 →
    (∀ p rest, (dieOf s cl.die).spares = p :: rest →
      ∃ t, exec (.unitRetire cl) s = .next t ∧ (clusterOf t cl.die cl.cluster).absent = false ∧
        ((clusterOf s cl.die cl.cluster).handles = [] →
          t = { s with dies := t.dies, motifs := t.motifs, clusters := t.clusters }) ∧
        (dieOf t cl.die).phys = (dieOf s cl.die).phys.set cl.cluster p ∧ p ∉ (dieOf t cl.die).spares) ∧
    ((dieOf s cl.die).spares = [] →
      ∃ t, exec (.unitRetire cl) s = .next t ∧ (clusterOf t cl.die cl.cluster).absent = true ∧
        ∀ m ∈ t.motifs, m.die = cl.die → m.cluster = cl.cluster → m.preempt.isSome)) ∧
  (∀ (s : State) (kind unit lanes : Nat),
    let warned := fun (t : State) => ∀ vd < 32, (vdevOf s vd).share.rate.getD kind 0 ≠ 0 → (vdevOf t vd).degraded = true
    (kind = 4 → unit < 48 → lanes < (linkOf s unit).lanes →
      ∃ t, exec (.linkDegrade kind unit lanes) s = .next t ∧ (linkOf t unit).lanes = lanes ∧
        (linkOf t unit).failed = ((linkOf s unit).failed || lanes == 0) ∧ warned t) ∧
    (kind = 2 ∨ kind = 3 → (∀ n, unitLanesOf s kind unit = some n → lanes < n) →
      ∃ t, exec (.linkDegrade kind unit lanes) s = .next t ∧ unitLanesOf t kind unit = some lanes ∧ warned t)) ∧
  (∀ (s : State) (die : Nat), die < 4 → s.dies.length = 4 →
    let u := dieOf s die
    (∀ spare rest p k, testDue s die = true → u.testing = none → u.spares = spare :: rest → nextTested s die = some (p, k) →
      testDeferred s die k = false →
      ∃ t, exec (.infieldTest die) s = .next t ∧ (dieOf t die).testing = some p ∧ (dieOf t die).phys = u.phys.set k spare ∧
        (dieOf t die).next = (p + 1) % 64 ∧ (dieOf t die).tested = wallNow s) ∧
    (testDue s die = false → exec (.infieldTest die) s = .next s) ∧
    (∀ p pass, u.testing = some p →
      ∃ t, exec (.scanTestComplete die pass) s = .next t ∧ (dieOf t die).testing = none ∧
        (dieOf t die).spares = if pass then u.spares ++ [p] else u.spares)) ∧
  (∀ (s : State) (vd : Nat),
    let v := vdevOf s vd
    (∃ t, exec (.migrateOut vd) s = .next t ∧ (vdevOf t vd).migrating = 1 ∧
      (v.share.mode = false → (∀ m ∈ t.motifs, cidVd m.cid = vd → m.preempt.isSome) ∧
        ∀ m ∈ s.motifs, m.uid ∈ v.ctxPend → ∀ since, m.preempt = some since →
          (m.uid, s.clock - since) ∈ (vdevOf t vd).switchRec)) ∧
    (∃ t, exec (.migrateIn vd) s = .next t ∧ t = { s with vdevs := t.vdevs } ∧ (vdevOf t vd).migrating = 0 ∧
      (v.share.mode = true → (vdevOf t vd).clockOff = v.clockOff ∧ (vdevOf t vd).wallOff = v.wallOff) ∧
      (v.share.mode = false → (∀ m ∈ s.motifs, cidVd m.cid ≠ vd) →
        (vdevOf t vd).clockOff = (if v.savedClock = 0 then v.clockOff else v.savedClock - s.clock) ∧
        (vdevOf t vd).wallOff = max v.wcoff.toInt (v.savedWall - wallNow s)) ∧
      (v.share.mode = false → (∃ m ∈ s.motifs, cidVd m.cid = vd) → (vdevOf t vd).clockOff = v.clockOff ∧
        (vdevOf t vd).wallOff = max v.wcoff.toInt (wallOf s vd - wallNow s))))

/-! ## Feltor -/

/-- R200, R201, R264, R412: what a read, a put, an atomic and a reduction do at their target, and what goes back. Log
entries 32, 33. -/
def Obligations.PacketsAtTheTarget : Prop :=
  ∀ (s : State) (link : Nat) (p : Packet) (m : Motif) (n : Nat) (x : PAddr) (e : TlbEntry),
    packetAgent s p.cid = some m → isPoisoned s x = false → routedTo s p p.src.toNat →
    let others := fun (t : State) => ∀ y : PAddr, (y.space = x.space → y.addr < x.addr ∨ x.addr + n ≤ y.addr) → byteAt t y = byteAt s y
    let old := readBytes (spaceMem s x.space) x.addr n
    let new := leBytes n (atomOp (p.aop.toNat % 8) n (leNat (p.payload.take n)) (leNat ((p.payload.drop n).take n)) (leNat old))
    let holds := fun (t : State) (b : List Byte) => readBytes (spaceMem t x.space) x.addr n = b
    (taken s link p 1 → p.size ≠ 0 → n = sizeBytes p.size → podHome s m p.addr.toNat n (packetAccess p) = .phys x e →
      ∃ t, exec (.rdreq link p) s = .next t ∧
        t = { s with
          clusters := t.clusters, links := t.links, walkCaches := t.walkCaches, firstRead := t.firstRead
          latent := t.latent, hostBus := t.hostBus, syslog := t.syslog, out := t.out } ∧
        answered s t p 2 (fun a => a.payload.take n = old)) ∧
    (taken s link p 3 → p.size ≠ 0 → n = sizeBytes p.size → n ≤ p.payload.length → podHome s m p.addr.toNat n .write = .phys x e →
      ∃ t, exec (.putPacket link p) s = .next t ∧ others t ∧ answered s t p 4 (fun _ => True) ∧
        holds t (if p.aop = mergeMark ∧ p.size = 1 then [(byteAt s x &&& p.payload.getD 1 0) ||| p.payload.getD 0 0]
          else p.payload.take n)) ∧
    (n = aopWidth p → podHome s m p.addr.toNat n .write = .phys x e →
      (taken s link p 5 → ∃ t, exec (.atomPacket link p) s = .next t ∧ holds t new ∧ others t ∧
        answered s t p 6 (fun a => a.payload.take n = old)) ∧
      (taken s link p 7 → ∃ t, exec (.redPacket link p) s = .next t ∧ holds t new ∧ others t ∧ answered s t p 4 (fun _ => True)))

/-- R201, R252, R412: a response gives its request's waiter the bytes and lets it go on, an acknowledgement ends its
request, and a request unanswered for 2^26 cycles is the aperture fault. -/
def Obligations.PacketsAtTheSender : Prop :=
  (∀ (s : State) (link : Nat) (p : Packet) (r : Request), p.status = 0 →
    let woken := fun (t : State) => ∀ m ∈ t.motifs, m.uid = r.uid → ∀ u ∈ m.strands, u.index = r.strand →
      ∀ x ∈ u.live ++ u.stack, x.wait ≠ .aperture
    let bytes := p.payload.take (sizeBytes p.size)
    (taken s link p 2 → p.size ≠ 0 → requestFor s p.cid p.rtag.toNat [1] = some r →
      ∃ t, exec (.rdrsp link p) s = .next t ∧ { r with answer := some (0, bytes) } ∈ t.requests ∧ woken t) ∧
    (taken s link p 6 → requestFor s p.cid p.rtag.toNat [5] = some r →
      ∃ t, exec (.atomrsp link p) s = .next t ∧ { r with answer := some (0, bytes) } ∈ t.requests ∧ woken t) ∧
    (taken s link p 4 → requestFor s p.cid p.rtag.toNat [3, 7] = some r →
      ∃ t, exec (.putack link p) s = .next t ∧
        t = { s with requests := t.requests, links := t.links, motifs := t.motifs } ∧ (r.strand ≠ 2000 → t.motifs = s.motifs) ∧
        ∀ x ∈ t.requests, ¬(x.rtag = r.rtag ∧ x.cid = r.cid ∧ x.answer = none))) ∧
  (∀ (s : State) (r : Request), r ∈ s.requests → r.answer = none → r.op ≠ 9 → r.op ≠ hostOp → (∀ x ∈ s.requests, x.rtag = r.rtag → x = r) →
    r.sent + 2 ^ 26 ≤ s.clock →
    (r.op ≠ 3 → r.op ≠ 7 → ∃ t, exec (.requestTimeout r.rtag) s = .next t ∧ { r with answer := some (1, []) } ∈ t.requests) ∧
    (r.op = 3 ∨ r.op = 7 → ∀ m, motifOf s r.uid = some m → r.strand < 1000 →
      ∃ t, exec (.requestTimeout r.rtag) s = .next t ∧ (ctxOf t m.cid).stopped = true ∧ ∀ x ∈ t.requests, x.rtag ≠ r.rtag))

/-- R277, R393, R410, R412 to R416, R460: a packet for another chip goes behind the others of its link, or waits; one that
breaks its header is dropped and logged; a stalled queue and a replayed flit are reported; a link fails over to the
alternates; training sets what the link is. Log entries 11, 29, 31. -/
def Obligations.RoutersAndLinks : Prop :=
  (∀ (s : State) (link : Nat) (p : Packet),
    let e := tget 0 (vdevOf s (cidVd p.cid)).route p.dest.toNat
    (packetValid s p = true → p.op ≠ 8 → p.op ≠ 9 → mustWait s link p = false → hasRoom s p = true →
      cutBlockOf s p.cid = none → noticeBlock s p.cid = s → packetLocal s p = false → routedTo s p p.dest.toNat →
      let l := linkOf s (routeLink s e)
      ∃ t, exec (.packetForward link p) s = .next t ∧ t = { s with links := t.links } ∧
        (leavesAs l p = [p] → ∃ a, (linkOf t (routeLink s e)).out = l.out ++ [(p.vc.toNat, a.cls.toNat, a)] ∧
          a = { p with cls := p.cls || e.getLsbD 12, hcrc := a.hcrc } ∧ a.hcrc = crc32c (packetHead a)) ∧
        (l.stored = false → ∀ x ∈ (linkOf t (routeLink s e)).out, x ∈ l.out ∨ carriesForms x.2.2 = false)) ∧
    (packetValid s p = true → p.op ≠ 8 → p.op ≠ 9 → mustWait s link p = true ∨ (packetLocal s p = false ∧ hasRoom s p = false) →
      exec (.packetForward link p) s = .next { s with rxHeld := s.rxHeld ++ [(link, p)] }) ∧
    (packetValid s p = false → ∃ t, exec (.packetDropped link p) s = .next t ∧ Out.dropped link ∈ t.out ∧
      t = { s with hostBus := t.hostBus, syslog := t.syslog, out := t.out })) ∧
  (∀ (s : State) (link vc cls : Nat), (∃ e ∈ (linkOf s link).out, e.1 = vc ∧ e.2.1 = cls) →
    tget 0 (linkOf s link).moved (vc * 2 + cls) + 2 ^ 24 ≤ s.clock →
    s.syslog.enabled = true → s.syslog.full = false →
    ∃ t, exec (.queueStallReport link vc cls) s = .next t ∧ t = { s with hostBus := t.hostBus, syslog := t.syslog, out := t.out } ∧
      t.syslog.tail = s.syslog.tail + 1) ∧
  (∀ (s : State) (link : Nat), (linkOf s link).replay ≠ [] →
    exec (.flitReplay link) s = .next { s with out := s.out ++ [.replayed link] }) ∧
  (∀ (s : State) (link : Nat), link < 48 →
    let l := linkOf s link
    ∃ t, exec (.linkFail link) s = .next t ∧ (linkOf t link).failed = true ∧ (linkOf t link).lanes = 0 ∧
      (linkOf t link).replay = [] ∧
      ∀ p ∈ l.replay ++ l.out.map (·.2.2),
        let e := tget 0 (vdevOf s (cidVd p.cid)).route p.dest.toNat
        let alt := (e.extractLsb' 6 6).toNat
        p.op ≠ 8 → (e.extractLsb' 0 6).toNat = link → alt ≠ link → leavesAs (linkOf s alt) p = [p] →
          ∃ x ∈ (linkOf t alt).out, x.2.2 = sealPacket p) ∧
  (∀ (s : State) (link lanes : Nat) (fec stored : Bool), link < 48 → lanes = 8 ∨ lanes = 4 ∨ lanes = 2 →
    ∃ t, exec (.linkTraining link lanes fec stored) s = .next t ∧
      let l := linkOf t link
      l.lanes = lanes ∧ l.fec = fec ∧ l.stored = stored ∧ l.failed = false)

/-! ## Cuts of several chips, and restoration -/

/-- R431, R447, R448, R451 to R453, R455, R458: a marker records a cut that this chip has not recorded and counts its
channel once, or waits for its colour; the coordinator counts each chip's DONE once and completes the cut with the last;
COMPLETE and FAIL end it; a request starts a cut at the coordinator, its answer is kept for the SNAP that asked. Log entry
30. -/
def Obligations.CutPackets : Prop :=
  ∀ (s : State) (link : Nat) (p : Packet),
    let own := ownChip s (cidVd p.cid)
    let ends := fun (i : Instr) (n : Nat) (state cause : Nat) => ∃ t, exec i s = .next t ∧
      (cutOf t p.cid n).map (fun c => (c.state, c.cause, c.live)) = some (state, cause, false)
    let n := fieldAt p.payload 4 4
    let v := fieldAt p.payload 8 4
    (∀ b, p.op = 8 → packetValid s p = true → cutBlockOf s p.cid = some b → bitAt b.links link = true →
      0 < p.addr.toNat → p.addr.toNat ≤ 0xFFFF0000 → mustWait s link p = false → noticeBlock s p.cid = s →
      let ch := link * 8 + p.vc.toNat * 2 + p.cls.toNat
      (∀ c, cutOf s p.cid p.addr.toNat = some c → ∃ t, exec (.marker link p) s = .next t ∧
        (cutOf t p.cid p.addr.toNat).map (·.markers) = some (if ch ∈ c.markers then c.markers else c.markers ++ [ch])) ∧
      (cutOf s p.cid p.addr.toNat = none → colourReady s p.cid p.addr.toNat = true →
        ∃ t, exec (.marker link p) s = .next t ∧ (jobOf t p.cid).latest = p.addr.toNat ∧
          (jobOf t p.cid).epoch = epochOf p.addr.toNat) ∧
      (cutOf s p.cid p.addr.toNat = none → colourReady s p.cid p.addr.toNat = false →
        exec (.marker link p) s = .next { s with rxHeld := s.rxHeld ++ [(link, p)] })) ∧
    (∀ c, ctrlTaken s link p 1 → cutOf s p.cid n = some c → c.live = true → c.coord = own → p.src.toNat ∉ c.doneFrom →
      (c.doneFrom.length + 1 < c.nchips → ∃ t, exec (.doneCtrl link p) s = .next t ∧
        (cutOf t p.cid n).map (fun c => (c.doneFrom, c.live)) = some (c.doneFrom ++ [p.src.toNat], true)) ∧
      (c.nchips ≤ c.doneFrom.length + 1 → ends (.doneCtrl link p) n 4 c.cause)) ∧
    (∀ c, ctrlTaken s link p 2 → cutOf s p.cid n = some c → c.live = true → ends (.completeCtrl link p) n 4 c.cause) ∧
    (∀ c, ctrlTaken s link p 3 → cutOf s p.cid n = some c → c.live = true → ends (.failCtrl link p) n (if v = 4 then 6 else 5) v) ∧
    (∀ b, ctrlTaken s link p 4 → cutBlockOf s p.cid = some b → b.coord = own →
      let c := nextCut (jobOf s p.cid).latest
      colourReady s p.cid c = true → ∃ t, exec (.snapreq link p) s = .next t ∧ (jobOf t p.cid).latest = c ∧
        (jobOf t p.cid).epoch = epochOf c) ∧
    ∀ r, ctrlTaken s link p 5 → requestFor s p.cid p.rtag.toNat [9] = some r →
      ∃ t, exec (.snapans link p) s = .next t ∧ { r with answer := some (0, leBytes 4 v) } ∈ t.requests

/-- R423, R439, R442, R444, R445, R451, R453, R459, R460: an engine streams the oldest preserved granule, a chip that is
done names its image and tells the coordinator, a colour is freed, an abort fails the cut; a restore command is refused with
its cause or waits for the job's other chips, and a chip restored is at the cut's epoch, its recorded granules written back.
Log entries 30, 34. -/
def Obligations.CutEnginesAndRestoration : Prop :=
  (∀ (s : State) (cid : Cid) (c : Cut), cutOf s cid c.cutid = some c →
    let after := fun (i : Instr) (f : Cut → Prop) => ∃ t, exec i s = .next t ∧ ∃ d, cutOf t cid c.cutid = some d ∧ f d
    (∀ die g rest, (jobOf s cid).recording = [c] → c.preserved = g :: rest → granuleDie s g.unit = die →
      after (.fumaroleStream cid die) fun d =>
        let into := fun (x : Granule) => d.streamed = c.streamed ++ [x] ∧ d.bytes = c.bytes + 16992
        d.preserved = rest ∧ (g.sure = true → into g) ∧
          (g.sure = false → match (recordedGranules s cid).find? fun e => e.1 == g.unit with
            | some e => into { g with va := e.2 }
            | none => d.streamed = c.streamed ∧ d.bytes = c.bytes)) ∧
    (∀ die m rest, (∀ x ∈ (jobOf s cid).recording, ∀ g ∈ x.preserved, granuleDie s g.unit ≠ die) →
      unitsOn s cid die = m :: rest →
      after (.fumaroleStream cid die) fun d => d = { c with units := c.units.filter (· != m.uid) }) ∧
    (∀ b, cutBlockOf s cid = some b → c.live = true → c.state = 2 → preCutOver s cid c = true → c.preserved = [] →
      allVisited s cid c = true → c.bytes + fixedBytes c ≤ b.size → c.coord ≠ ownChip s (cidVd cid) →
      ∃ t, exec (.chipDone cid c.cutid) s = .next t ∧
        (cutOf t cid c.cutid).map (fun d => (d.state, d.doneSent, d.live)) = some (3, true, true) ∧
        ∃ i ∈ t.images, i.kind = b.kind ∧ i.addr = b.img.getD (c.cutid % 2) 0 ∧ i.cid = cid ∧ i.cutid = c.cutid ∧
          i.vchip = ownChip s (cidVd cid) ∧
          (b.kind = 1 → readBytes t.hostMem i.addr 32 = leBytes 4 0x474D494B ++ leBytes 4 c.cutid ++ leBytes 2 cid.toNat ++
            leBytes 2 i.vchip ++ leBytes 4 c.sections.length ++ leBytes 8 (c.bytes + fixedBytes c) ++
            leBytes 4 (c.streamed.map fun g => (g.tags.filter fun e => e.2 == 15).length).sum ++ leBytes 4 0)) ∧
    (∀ colour, (jobOf s cid).colours.getD colour none = some c → c.live = false → c.freed = false →
      allVisited s cid c = true → preCutOver s cid c = true →
      ∃ t, exec (.colourFree cid colour) s = .next t ∧
        (jobOf t cid).colours.getD colour none = some { c with freed := true }) ∧
    (∀ vd (v : BitVec 64), c.live = true → cid = cidOf vd (v.extractLsb' 32 11).toNat → c.cutid = (v.extractLsb' 0 32).toNat →
      after (.cutAbort vd v) fun d => d.state = 6 ∧ d.cause = 4 ∧ d.live = false)) ∧
  (∀ (s : State) (vd : Nat) (c : RestoreCmd), (vdevOf s vd).rststate ≠ 1 → (vdevOf s vd).rststate ≠ 2 →
    let state := fun (t : State) => ((vdevOf t vd).rststate, (vdevOf t vd).rstcause)
    (∀ cause, restoreFault s vd c = .error cause → ∃ t, exec (.restore vd c) s = .next t ∧ state t = (4, cause)) ∧
    (∀ i, restoreFault s vd c = .ok i →
      let r : Restore := { vd := vd, ctx := c.ctx.toNat, cutid := i.cutid, image := i }
      ∃ t, exec (.restore vd c) s = .next t ∧ t = { s with restores := s.restores ++ [r], vdevs := t.vdevs } ∧
        state t = (if jobChips s r ≤ 1 then 2 else 1, 0))) ∧
  (∀ (s : State) (vd : Nat) (r : Restore), (s.restores.find? fun r => r.vd == vd) = some r →
    (∀ c, (vdevOf s vd).rststate = 1 → confirmsSet r c.chips = true → jobChips s r ≤ c.chips.length + 1 →
      exec (.restoreConfirmation vd c) s = .next (updVdev s vd fun v => { v with rststate := 2 })) ∧
    (∀ d, (vdevOf s vd).rststate = 2 → descOfCtx s (cidOf vd r.ctx) = some d →
      let i := r.image.cut
      let cid := cidOf vd r.ctx
      i.motifs = [] → i.saved = [] → i.records = [] → i.rings = [] → i.requests = [] → i.logs = [] → i.sticky = [] →
      s.rxHeld = [] →
      ∃ t, exec (.restoreChip vd) s = .next t ∧ (vdevOf t vd).rststate = 3 ∧ (∀ x ∈ t.restores, x.vd ≠ vd) ∧
        (jobOf t cid).epoch = epochOf r.cutid ∧ (jobOf t cid).latest = r.cutid ∧
        t.mem = (i.streamed.foldl (restoreGranule cid d (epochOf r.cutid)) s).mem))

/-! ## Resets, firmware and the device's registers -/

/-- R424, R426 to R428: what each reset clears and what it keeps; firmware accepted only at or above the floor and from a
slot not revoked; the recovery load, the floor, and the two signatures. Log entries 35, 36. -/
def Obligations.ResetsAndFirmware : Prop :=
  (∀ s : State,
    let cleared := fun (t : State) => t.motifs = [] ∧ t.contexts = [] ∧ t.records = [] ∧ t.rings = [] ∧ t.vdevs = [] ∧
      t.mem = [] ∧ t.window = [] ∧ t.pendStores = [] ∧ t.hostMem = s.hostMem ∧ t.tier2 = s.tier2 ∧ t.svnFloor = s.svnFloor ∧
      t.revoked = s.revoked ∧ t.digests = s.digests ∧ t.lmsIndex = s.lmsIndex
    (∀ v, ∃ t, exec (.powerOnReset v) s = .next t ∧ cleared t ∧ t.recovery = !imageAccepted s v ∧
      (imageAccepted s v = true → t.svn = v.svn.toNat)) ∧
    (∃ t, exec .pfFlr s = .next t ∧ cleared t ∧ t.recovery = s.recovery ∧ t.svn = s.svn) ∧
    (∃ t, exec .perstPort1 s = .next t ∧ t.window = s.window ∧ ∀ e ∈ s.vdevs, e.2.port = 1 → e.2.enabled = true →
      (vdevOf t e.1).share = Share.reset ∧ ∀ r, (ringOf t r).owner = some e.1 → (ringOf t r).enable = false) ∧
    (∀ vd, ∃ t, exec (.vfFlr vd) s = .next t ∧ (vdevOf t vd).share = Share.reset ∧
      (∀ r, (ringOf t r).owner = some vd → (ringOf t r).enable = false) ∧ (∀ c ∈ contextsOf s vd, (ctxOf t c).stopped = true) ∧
      ∀ a, tget 0 t.window a = if (vdevOf s vd).winslice = some (a / 8192) then 0 else tget 0 s.window a) ∧
    (∀ v, s.recovery = true →
      let image := recoveryImage s v
      let good := imageAccepted s image = true ∧ 0x1000 + image.length.toNat ≤ s.recoveryLen.toNat
      (good → exec (.recoveryLoad v) s = .next { s with recovery := false, recoveryStatus := 2, svn := image.svn.toNat }) ∧
      (¬good → exec (.recoveryLoad v) s = .next { s with recoveryStatus := 4 })) ∧
    (∀ v, imageAccepted s v = true → s.svnFloor ≤ v.svn.toNat ∧ s.revoked.getLsbD v.slot.toNat = false) ∧
    (s.recovery = false → exec (.floorAdvance 1) s = .next { s with svnFloor := max s.svnFloor s.svn }) ∧
    (∀ nonce, exec (.getMeasurements nonce) s =
      .next { s with out := s.out ++ [.measurement (Config.signature 0 0 nonce)] }) ∧
    ∀ nonce, (s.lmsIndex < 2 ^ 20 → exec (.lmsSignatureRequest nonce) s = .next { s with
        lmsIndex := s.lmsIndex + 1, out := s.out ++ [.lms (some (Config.signature 1 s.lmsIndex nonce))] }) ∧
      (2 ^ 20 ≤ s.lmsIndex → exec (.lmsSignatureRequest nonce) s = .next { s with out := s.out ++ [.lms none] }))

/-- R181, R182, R191, R219, R225, R369, R414, R419, R421, R423, R424: the registers whose writes or reads do something, what
some read as, and a ring's notify page, outside recovery mode. Log entries 37, 38. -/
def Obligations.DeviceRegisters : Prop :=
  ∀ s : State, s.recovery = false →
    (∀ w, exec (.featureAccept .pf w) s = .next { s with pfAccepted := w &&& s.published &&& s.pfAllowed }) ∧
    (∀ vd w, deviceBusy s vd = false → exec (.featureAccept (.vf vd) w) s =
      .next (updVdev s vd fun v => { v with accepted := w &&& s.published &&& v.allowed })) ∧
    (∀ vd w, deviceBusy s vd = true → exec (.featureAccept (.vf vd) w) s = .next s) ∧
    ((∀ f ∈ s.faults, f.reported = true) → ∀ (q : QueueRef),
      let b := blockOf s q
      (∀ ctl : BitVec 32, 4 ≤ ctl.toNat % 32 → ctl.toNat % 32 ≤ 16 → ctl.getLsbD 8 = true → b.enabled = false →
        exec (.queueEnable q ctl) s =
          .next (setBlock s q { base := b.base, ctl := ctl &&& 0x31F, head := 0, tail := 0, lost := 0, lostSince := 0 })) ∧
      ∀ head, (head - b.head).toNat ≤ (b.tail - b.head).toNat →
        exec (.queueHeadWrite q head) s = .next (setBlock s q { b with head := head })) ∧
    (∀ vd (v : BitVec 32), (v.getLsbD 31 = true → ∀ e ∈ s.vdevs, e.1 ≠ vd → e.2.winslice ≠ some (v.toNat % 32)) →
      exec (.winsliceWrite vd v) s = .next (updVdev s vd fun d =>
        { d with winslice := if v.getLsbD 31 then some (v.toNat % 32) else none })) ∧
    (∀ (q : QuadRef) (v : BitVec 8), 8 ≤ v.toNat → q.die < 4 → q.cluster < 60 → q.quad < 4 →
      ∃ t, exec (.quadcapWrite q v) s = .next t ∧ t = { s with quadcap := t.quadcap } ∧
        tget 32 t.quadcap ((q.die * 64 + q.cluster) * 4 + q.quad) = v) ∧
    (∀ ring (v : BitVec 8), ring < 1024 → (ringOf s ring).enable = false → exec (.ringownWrite ring v) s =
      .next (updRing s ring fun r => { r with owner := if v.getLsbD 7 then some (v.toNat % 32) else none })) ∧
    (∀ vd, (∃ t, exec (.invcountRead (.vf vd) vd) s = .next t ∧
        t.out = s.out ++ [.registerRead (.vf vd) vd (vdevOf s vd).invcount] ∧
        (vdevOf t vd).invcount = (vdevOf s vd).invcount &&& 0x7FFFFFFF) ∧
      (∃ t, exec (.invcountRead .pf vd) s = .next t ∧ t.out = s.out ++ [.registerRead .pf vd (vdevOf s vd).s2invcount] ∧
        (vdevOf t vd).s2invcount = (vdevOf s vd).s2invcount &&& 0x7FFFFFFF) ∧
      (∃ t, exec (.ctxstatRead vd) s = .next t ∧ (vdevOf t vd).ctxError = false ∧
        t.out = s.out ++ [.registerRead (.vf vd) vd
          (BitVec.ofNat 32 ((ctxBusy s vd).toNat + 2 * (vdevOf s vd).ctxError.toNat))]) ∧
      (∀ v : BitVec 64, exec (.registerWrite (.vf vd) 0x330 8 v) s = .next (updVdev s vd fun d => { d with fmtaddr := v.toNat })) ∧
      (∀ v : BitVec 64, vd < 32 → exec (.registerWrite .pf (0x20000 + vd * 4096 + 0x48) 4 v) s =
        .next (updVdev s vd fun d => { d with s2on := v.getLsbD 0 })) ∧
      (∀ f off size (v : BitVec 64), ¬(size = 4 ∨ size = 8) ∨ off % size ≠ 0 → exec (.registerWrite f off size v) s = .next s) ∧
      ((vdevOf s vd).enabled = true → registerRead s (.vf vd) 0x340 4 =
          (vdevOf s vd).fmtBusy.isSome.toNat + 2 * (vdevOf s vd).fmtError.toNat ∧
        registerRead s (.vf vd) 0x440 4 = (vdevOf s vd).rststate + 2 ^ 8 * (vdevOf s vd).rstcause) ∧
      ((vdevOf s vd).enabled = false → ∀ off size, registerRead s (.vf vd) off size = 0)) ∧
    ∀ (func : Func) (ring : Nat),
      let r := ringOf s ring
      let own := ∀ vd, func = .vf vd → r.owner = some vd ∧ (vdevOf s vd).enabled = true
      (own → notifyRead s func ring 0 = r.tail ∧ notifyRead s func ring 8 = r.fetched ∧
        notifyRead s func ring 0x10 = r.completed ∧
        notifyRead s func ring 0x18 = r.stopped.toNat + 2 * (s.hoop.contains ring).toNat + 2 ^ 8 * r.code) ∧
      (¬own → ∀ off, notifyRead s func ring off = 0)

/-! ## The machine -/

/-- R4, R17, R384, R395, R419, R423, R426 and the log's reset values: what the spec states of reset, and that the stores are
in their one form. -/
def Obligations.ResetValues : Prop :=
  State.reset.motifs = [] ∧ State.reset.hoop = [] ∧ State.reset.published = 0x1FFF ∧ State.reset.ifst = 600 ∧
    State.reset.storesWf = true ∧ (∀ r, (ringOf State.reset r).enable = false) ∧
    ∀ index place lanes pc, let t := Strand.atStart index place lanes pc
      (∀ n < 29, t.sreg n = 0) ∧ (∀ r l, t.vreg r l = 0) ∧ t.wb = 0 ∧ t.handler = false ∧ t.evpend = 0 ∧
        t.live = [{ pc := pc, members := t.launched, wait := .ready, held := false }]

/-- R21, R24, R133, R138, R191, R323, R381, R383, R424: a step that the agenda gives to a strand to which its quadrant
grants an issue, whose granted slot's words decode to an instruction, is that instruction; the words are those that memory
holds at the slot's PC, the second only after a prefix; so is a sequencer's turn, and an event's step is the event, but for
an access to a register that recovery mode hides or to a function that is not enabled. What time brings about by itself
comes first (log entries 3, 4). -/
def Obligations.StepRunsTheDecodedInstruction : Prop :=
  let wordAt := fun (s : State) (q : Iss) (va : Dword) (w : Word) => ∃ x e, resolve s q.view none va.toNat 4 .fetch = .phys x e ∧
    (x.space = .device ∨ x.space = .tier2) ∧ isPoisoned s x = false ∧ formatting s (.phys x e) = false ∧
    w = wordOfBytes (byteAt s x) (byteAt s { x with addr := x.addr + 1 }) (byteAt s { x with addr := x.addr + 2 })
      (byteAt s { x with addr := x.addr + 3 })
  (∀ (s : State) (uid j k : Nat) (rest : List Action) g (m : Motif) (t u : Strand) (q : Iss) (i : Instr) s1,
    let now := timePassed s
    let paid := payQuad (countGrant { now with agenda := rest } g.1 g.2.1 g.2.2) g.1.1 g.2.1 g.2.2
    s.agenda = .issue uid j :: rest → grantedTo now uid j = some g →
    motifOf paid uid = some m → (ctxOf paid m.cid).stopped = false → m.letsIssue j = true → strandOf m j = some t →
    t.grant = some (u, k) →
    let retried := fun (m : Motif) => { m with retries := m.retries.filter fun r => r != .strand j }
    let turn := { updMotif (updStrand paid uid j fun _ => u) uid retried with cur := some (.slot uid j k) }
    issuerOf turn = some q → storeStack turn q = .ok s1 →
    (∀ s2 ws n, fetchWords s1 q = .ok (s2, ws) → decodeStrand ws = .ok (i, n) → step s = exec i s2) ∧
    (∀ w, wordAt s1 q q.pc w → wordOp w ≠ 0xFF → decodeStrand [w] = .ok (i, 4) →
      ∃ s2, fetchWord s1 q q.pc.toNat = .ok (s2, w) ∧ step s = exec i s2) ∧
    ∀ s2 w0 w1, wordAt s1 q q.pc w0 → wordOp w0 = 0xFF → fetchWord s1 q q.pc.toNat = .ok (s2, w0) → wordAt s2 q (q.pc + 4) w1 →
      decodeStrand [w0, w1] = .ok (i, 8) → ∃ s3, fetchWord s2 q (q.pc + 4).toNat = .ok (s3, w1) ∧ step s = exec i s3) ∧
  (∀ (s s1 : State) (uid : Nat) (rest : List Action) (z : SeqIss) (w : Word) (i : Instr),
    let now := timePassed s
    let turn := { now with agenda := rest, cur := some (.sequencer uid) }
    s.agenda = .sequence uid :: rest → seqIssuerOf turn = some z → z.q.ended = false → z.q.waits = [] →
    z.q.saveHere = false → z.m.retried = true → (ctxOf now z.m.cid).stopped = false →
    fetchSeq turn z = .ok (s1, w) → decodeSeq w = .ok i → step s = exec i s1) ∧
  ∀ (s : State) (rest : List Action) (i : Instr),
    let now := timePassed s
    let next := { now with agenda := rest, cur := none, clock := now.clock + 1 }
    s.agenda = .event i :: rest →
    let shown := ∀ vd, functionOf i = some vd → vd < 32 ∧ (vdevOf now vd).enabled = true
    (now.heldDies = [] → now.recovery = false → shown → step s = exec i next) ∧
    (¬shown → step s = .next next) ∧
    (now.heldDies = [] → now.recovery = true → ∀ vd c, i = .ctxPreempt vd c ∨ i = .shareCommit vd → step s = .next next)

/-! ## Encoding -/

/-- R62, R63, R69 to R75: words that the spec writes out decode to the instructions that they stand for, with every field
read; the prefixed load is two words. -/
def Obligations.DecodingWords : Prop :=
  decodeTableWord 32 0x8659B100 = some (.ld none ⟨2, 102, 98, 0⟩) ∧
  decodeTableWord 32 0x001972E6 = some (.add none ⟨0, 101, 101, 102⟩) ∧
  decodeTableWord 32 0x36C58804 = some (.addip none ⟨98, 98, 4⟩) ∧
  decodeTableWord 32 0x54193FFC = some (.loop none ⟨0, 100, 0x3FFC⟩) ∧
  decodeTableWord 64 0x86417100FF010010 = some (.ld (some ⟨0, 1, 0, false, false, 1, 0⟩) ⟨2, 5, 98, 0⟩) ∧
  decodeTableWord 32 0x8C007103 = some (.atom none ⟨0, 1, 98, 3⟩) ∧
  decodeTableWord 64 0x90200000FF020040 = some (.fence (some ⟨0, 2, 0, false, false, 4, 0⟩) ⟨1, 0, 0, 0⟩) ∧
  decodeTableWord 32 0x87418100 = some (.st none ⟨2, 6, 2, 0⟩) ∧
  decodeTableWord 32 0xAB1AB269 = some (.seedscan none ⟨0, 106, 100, 105⟩) ∧
  decodeTableWord 32 0xCA040001 = some (.kli ⟨2, 1⟩) ∧
  decodeTableWord 32 0xC1080104 = some (.mma ⟨0, 32, 2, 4⟩) ∧
  decodeTableWord 32 0x3D000000 = none

/-- R62, R63, R69, R73 to R75, R77, R78: the bytes of every well-formed instruction of either stream, whatever follows them,
decode to that instruction with every field it has, and to no more bytes than it has. -/
def Obligations.DecodeAfterEncode : Prop :=
  ∀ (i : Instr) (after : List Byte), i.wf = true → i.shape.isSome →
    decode i.sequencer (encode i ++ after) = .ok (i, i.size) ∧ (encode i).length = i.size

/-! ## Whole-machine rules -/

/-- Log entry 7, the model's own form: a step leaves every store of the package in the one form in which equal memories are
equal data. -/
def Obligations.StoresStayCanonical : Prop :=
  ∀ s t : State, s.storesWf = true → step s = .next t → t.storesWf = true

/-- R14, R26, R31, R255: a write of the activity mask that would leave the slot no lane takes the illegal-operand trap and
no register is written; a load or a store with an address that is no multiple of its width takes the alignment trap of its
lowest such lane, with nothing read or written. Log entry 12. -/
def Obligations.OperandTraps : Prop :=
  (∀ (p : Option Pfx) (w : FmtA),
    Traps (.and p w) (fun q s => w.d.isScalar ∧ queueStops s q.m (laneCount q.act) (instrUses (.and p w)) = none ∧
      let r := (sourced s q (.and p w)).2
      let ty := intTy w.fn
      ¬keepsLanes r w.d (wordsOf (intW w.fn) (zipElems ty (fun x y => x &&& y) (r.srcA w.a (intW w.fn) 0) (r.read w.b (intW w.fn) 0))))
      2 (fun _ => w.d.setWidth 32)) ∧
  (∀ (p : Option Pfx) (w : FmtU),
    Traps (.movi p w) (fun q _ => w.d.isScalar ∧ ¬keepsLanes q w.d [w.imm.signExtend 32]) 2 (fun _ => w.d.setWidth 32)) ∧
  ∀ (p : Option Pfx) (w : FmtM) (lane : Nat),
    let n := widthBytes w.w
    let addr := fun (q : Iss) l => q.addr w.a l + BitVec.ofInt 64 (w.off.toInt * n)
    let off := fun (q : Iss) l => BitVec.ofInt 64 ((q.read w.a 1 l : Int) + w.off.toInt * n)
    let first := fun (at' : Iss → Nat → Dword) (q : Iss) (_ : State) => q.act.getLsbD lane ∧ (at' q lane).toNat % n ≠ 0 ∧
      ∀ l < lane, q.act.getLsbD l → (at' q l).toNat % n = 0
    Traps (.ld p w) (first addr) 3 (fun q => (addr q lane).setWidth 32) ∧
    Traps (.st p w) (first addr) 3 (fun q => (addr q lane).setWidth 32) ∧
    Traps (.lds p w) (first off) 3 (fun q => (off q lane).setWidth 32) ∧
    Traps (.sts p w) (first off) 3 (fun q => (off q lane).setWidth 32) ∧
    Traps (.ldp p w) (first off) 3 (fun q => (off q lane).setWidth 32) ∧
    Traps (.stp p w) (first off) 3 (fun q => (off q lane).setWidth 32)
end

