-- ==== Sys2Proof/Laws/State.lean ====
section
/-! SUPPORT. One lemma for each field of State under each update of it, so that no proof unfolds a record update. -/

namespace Sys2Proof.Machine

variable (s : State)

/-! updMotif leaves every field but motifs. -/

@[simp] theorem updMotif_clock (uid : Nat) (f : Motif → Motif) : (updMotif s uid f).clock = s.clock := rfl
@[simp] theorem updMotif_wallBase (uid : Nat) (f : Motif → Motif) : (updMotif s uid f).wallBase = s.wallBase := rfl
@[simp] theorem updMotif_mem (uid : Nat) (f : Motif → Motif) : (updMotif s uid f).mem = s.mem := rfl
@[simp] theorem updMotif_tags (uid : Nat) (f : Motif → Motif) : (updMotif s uid f).tags = s.tags := rfl
@[simp] theorem updMotif_latent (uid : Nat) (f : Motif → Motif) : (updMotif s uid f).latent = s.latent := rfl
@[simp] theorem updMotif_granules (uid : Nat) (f : Motif → Motif) : (updMotif s uid f).granules = s.granules := rfl
@[simp] theorem updMotif_tier2Granules (uid : Nat) (f : Motif → Motif) : (updMotif s uid f).tier2Granules = s.tier2Granules := rfl
@[simp] theorem updMotif_frames (uid : Nat) (f : Motif → Motif) : (updMotif s uid f).frames = s.frames := rfl
@[simp] theorem updMotif_tier2 (uid : Nat) (f : Motif → Motif) : (updMotif s uid f).tier2 = s.tier2 := rfl
@[simp] theorem updMotif_tier2Tags (uid : Nat) (f : Motif → Motif) : (updMotif s uid f).tier2Tags = s.tier2Tags := rfl
@[simp] theorem updMotif_window (uid : Nat) (f : Motif → Motif) : (updMotif s uid f).window = s.window := rfl
@[simp] theorem updMotif_hostMem (uid : Nat) (f : Motif → Motif) : (updMotif s uid f).hostMem = s.hostMem := rfl
@[simp] theorem updMotif_hostBus (uid : Nat) (f : Motif → Motif) : (updMotif s uid f).hostBus = s.hostBus := rfl
@[simp] theorem updMotif_hostLines (uid : Nat) (f : Motif → Motif) : (updMotif s uid f).hostLines = s.hostLines := rfl
@[simp] theorem updMotif_pendStores (uid : Nat) (f : Motif → Motif) : (updMotif s uid f).pendStores = s.pendStores := rfl
@[simp] theorem updMotif_clusters (uid : Nat) (f : Motif → Motif) : (updMotif s uid f).clusters = s.clusters := rfl
@[simp] theorem updMotif_quadcap (uid : Nat) (f : Motif → Motif) : (updMotif s uid f).quadcap = s.quadcap := rfl
@[simp] theorem updMotif_vdevs (uid : Nat) (f : Motif → Motif) : (updMotif s uid f).vdevs = s.vdevs := rfl
@[simp] theorem updMotif_rings (uid : Nat) (f : Motif → Motif) : (updMotif s uid f).rings = s.rings := rfl
@[simp] theorem updMotif_hoop (uid : Nat) (f : Motif → Motif) : (updMotif s uid f).hoop = s.hoop := rfl
@[simp] theorem updMotif_hoopAt (uid : Nat) (f : Motif → Motif) : (updMotif s uid f).hoopAt = s.hoopAt := rfl
@[simp] theorem updMotif_records (uid : Nat) (f : Motif → Motif) : (updMotif s uid f).records = s.records := rfl
@[simp] theorem updMotif_contexts (uid : Nat) (f : Motif → Motif) : (updMotif s uid f).contexts = s.contexts := rfl
@[simp] theorem updMotif_nextUid (uid : Nat) (f : Motif → Motif) : (updMotif s uid f).nextUid = s.nextUid := rfl
@[simp] theorem updMotif_faults (uid : Nat) (f : Motif → Motif) : (updMotif s uid f).faults = s.faults := rfl
@[simp] theorem updMotif_nextTag (uid : Nat) (f : Motif → Motif) : (updMotif s uid f).nextTag = s.nextTag := rfl
@[simp] theorem updMotif_ats (uid : Nat) (f : Motif → Motif) : (updMotif s uid f).ats = s.ats := rfl
@[simp] theorem updMotif_pri (uid : Nat) (f : Motif → Motif) : (updMotif s uid f).pri = s.pri := rfl
@[simp] theorem updMotif_hostTlbSuccess (uid : Nat) (f : Motif → Motif) : (updMotif s uid f).hostTlbSuccess = s.hostTlbSuccess := rfl
@[simp] theorem updMotif_hostRefused (uid : Nat) (f : Motif → Motif) : (updMotif s uid f).hostRefused = s.hostRefused := rfl
@[simp] theorem updMotif_walkCaches (uid : Nat) (f : Motif → Motif) : (updMotif s uid f).walkCaches = s.walkCaches := rfl
@[simp] theorem updMotif_firstRead (uid : Nat) (f : Motif → Motif) : (updMotif s uid f).firstRead = s.firstRead := rfl
@[simp] theorem updMotif_invs (uid : Nat) (f : Motif → Motif) : (updMotif s uid f).invs = s.invs := rfl
@[simp] theorem updMotif_jobs (uid : Nat) (f : Motif → Motif) : (updMotif s uid f).jobs = s.jobs := rfl
@[simp] theorem updMotif_images (uid : Nat) (f : Motif → Motif) : (updMotif s uid f).images = s.images := rfl
@[simp] theorem updMotif_restores (uid : Nat) (f : Motif → Motif) : (updMotif s uid f).restores = s.restores := rfl
@[simp] theorem updMotif_requests (uid : Nat) (f : Motif → Motif) : (updMotif s uid f).requests = s.requests := rfl
@[simp] theorem updMotif_rxHeld (uid : Nat) (f : Motif → Motif) : (updMotif s uid f).rxHeld = s.rxHeld := rfl
@[simp] theorem updMotif_rxFailed (uid : Nat) (f : Motif → Motif) : (updMotif s uid f).rxFailed = s.rxFailed := rfl
@[simp] theorem updMotif_nextRtag (uid : Nat) (f : Motif → Motif) : (updMotif s uid f).nextRtag = s.nextRtag := rfl
@[simp] theorem updMotif_links (uid : Nat) (f : Motif → Motif) : (updMotif s uid f).links = s.links := rfl
@[simp] theorem updMotif_arbiters (uid : Nat) (f : Motif → Motif) : (updMotif s uid f).arbiters = s.arbiters := rfl
@[simp] theorem updMotif_published (uid : Nat) (f : Motif → Motif) : (updMotif s uid f).published = s.published := rfl
@[simp] theorem updMotif_pfAccepted (uid : Nat) (f : Motif → Motif) : (updMotif s uid f).pfAccepted = s.pfAccepted := rfl
@[simp] theorem updMotif_pfAllowed (uid : Nat) (f : Motif → Motif) : (updMotif s uid f).pfAllowed = s.pfAllowed := rfl
@[simp] theorem updMotif_weights (uid : Nat) (f : Motif → Motif) : (updMotif s uid f).weights = s.weights := rfl
@[simp] theorem updMotif_commit (uid : Nat) (f : Motif → Motif) : (updMotif s uid f).commit = s.commit := rfl
@[simp] theorem updMotif_ifst (uid : Nat) (f : Motif → Motif) : (updMotif s uid f).ifst = s.ifst := rfl
@[simp] theorem updMotif_s2faultq (uid : Nat) (f : Motif → Motif) : (updMotif s uid f).s2faultq = s.s2faultq := rfl
@[simp] theorem updMotif_syslog (uid : Nat) (f : Motif → Motif) : (updMotif s uid f).syslog = s.syslog := rfl
@[simp] theorem updMotif_recovery (uid : Nat) (f : Motif → Motif) : (updMotif s uid f).recovery = s.recovery := rfl
@[simp] theorem updMotif_recoveryAddr (uid : Nat) (f : Motif → Motif) : (updMotif s uid f).recoveryAddr = s.recoveryAddr := rfl
@[simp] theorem updMotif_recoveryLen (uid : Nat) (f : Motif → Motif) : (updMotif s uid f).recoveryLen = s.recoveryLen := rfl
@[simp] theorem updMotif_recoveryStatus (uid : Nat) (f : Motif → Motif) : (updMotif s uid f).recoveryStatus = s.recoveryStatus := rfl
@[simp] theorem updMotif_svn (uid : Nat) (f : Motif → Motif) : (updMotif s uid f).svn = s.svn := rfl
@[simp] theorem updMotif_svnFloor (uid : Nat) (f : Motif → Motif) : (updMotif s uid f).svnFloor = s.svnFloor := rfl
@[simp] theorem updMotif_revoked (uid : Nat) (f : Motif → Motif) : (updMotif s uid f).revoked = s.revoked := rfl
@[simp] theorem updMotif_digests (uid : Nat) (f : Motif → Motif) : (updMotif s uid f).digests = s.digests := rfl
@[simp] theorem updMotif_lmsIndex (uid : Nat) (f : Motif → Motif) : (updMotif s uid f).lmsIndex = s.lmsIndex := rfl
@[simp] theorem updMotif_heldDies (uid : Nat) (f : Motif → Motif) : (updMotif s uid f).heldDies = s.heldDies := rfl
@[simp] theorem updMotif_hotDies (uid : Nat) (f : Motif → Motif) : (updMotif s uid f).hotDies = s.hotDies := rfl
@[simp] theorem updMotif_unitLanes (uid : Nat) (f : Motif → Motif) : (updMotif s uid f).unitLanes = s.unitLanes := rfl
@[simp] theorem updMotif_dies (uid : Nat) (f : Motif → Motif) : (updMotif s uid f).dies = s.dies := rfl
@[simp] theorem updMotif_out (uid : Nat) (f : Motif → Motif) : (updMotif s uid f).out = s.out := rfl
@[simp] theorem updMotif_agenda (uid : Nat) (f : Motif → Motif) : (updMotif s uid f).agenda = s.agenda := rfl
@[simp] theorem updMotif_cur (uid : Nat) (f : Motif → Motif) : (updMotif s uid f).cur = s.cur := rfl
@[simp] theorem updMotif_weak (uid : Nat) (f : Motif → Motif) : (updMotif s uid f).weak = s.weak := rfl
@[simp] theorem updMotif_free (uid : Nat) (f : Motif → Motif) : (updMotif s uid f).free = s.free := rfl
@[simp] theorem updMotif_turnNo (uid : Nat) (f : Motif → Motif) : (updMotif s uid f).turnNo = s.turnNo := rfl

/-! updStrand leaves every field but motifs. -/

@[simp] theorem updStrand_clock (uid j : Nat) (f : Strand → Strand) : (updStrand s uid j f).clock = s.clock := rfl
@[simp] theorem updStrand_wallBase (uid j : Nat) (f : Strand → Strand) : (updStrand s uid j f).wallBase = s.wallBase := rfl
@[simp] theorem updStrand_mem (uid j : Nat) (f : Strand → Strand) : (updStrand s uid j f).mem = s.mem := rfl
@[simp] theorem updStrand_tags (uid j : Nat) (f : Strand → Strand) : (updStrand s uid j f).tags = s.tags := rfl
@[simp] theorem updStrand_latent (uid j : Nat) (f : Strand → Strand) : (updStrand s uid j f).latent = s.latent := rfl
@[simp] theorem updStrand_granules (uid j : Nat) (f : Strand → Strand) : (updStrand s uid j f).granules = s.granules := rfl
@[simp] theorem updStrand_tier2Granules (uid j : Nat) (f : Strand → Strand) : (updStrand s uid j f).tier2Granules = s.tier2Granules := rfl
@[simp] theorem updStrand_frames (uid j : Nat) (f : Strand → Strand) : (updStrand s uid j f).frames = s.frames := rfl
@[simp] theorem updStrand_tier2 (uid j : Nat) (f : Strand → Strand) : (updStrand s uid j f).tier2 = s.tier2 := rfl
@[simp] theorem updStrand_tier2Tags (uid j : Nat) (f : Strand → Strand) : (updStrand s uid j f).tier2Tags = s.tier2Tags := rfl
@[simp] theorem updStrand_window (uid j : Nat) (f : Strand → Strand) : (updStrand s uid j f).window = s.window := rfl
@[simp] theorem updStrand_hostMem (uid j : Nat) (f : Strand → Strand) : (updStrand s uid j f).hostMem = s.hostMem := rfl
@[simp] theorem updStrand_hostBus (uid j : Nat) (f : Strand → Strand) : (updStrand s uid j f).hostBus = s.hostBus := rfl
@[simp] theorem updStrand_hostLines (uid j : Nat) (f : Strand → Strand) : (updStrand s uid j f).hostLines = s.hostLines := rfl
@[simp] theorem updStrand_pendStores (uid j : Nat) (f : Strand → Strand) : (updStrand s uid j f).pendStores = s.pendStores := rfl
@[simp] theorem updStrand_clusters (uid j : Nat) (f : Strand → Strand) : (updStrand s uid j f).clusters = s.clusters := rfl
@[simp] theorem updStrand_quadcap (uid j : Nat) (f : Strand → Strand) : (updStrand s uid j f).quadcap = s.quadcap := rfl
@[simp] theorem updStrand_vdevs (uid j : Nat) (f : Strand → Strand) : (updStrand s uid j f).vdevs = s.vdevs := rfl
@[simp] theorem updStrand_rings (uid j : Nat) (f : Strand → Strand) : (updStrand s uid j f).rings = s.rings := rfl
@[simp] theorem updStrand_hoop (uid j : Nat) (f : Strand → Strand) : (updStrand s uid j f).hoop = s.hoop := rfl
@[simp] theorem updStrand_hoopAt (uid j : Nat) (f : Strand → Strand) : (updStrand s uid j f).hoopAt = s.hoopAt := rfl
@[simp] theorem updStrand_records (uid j : Nat) (f : Strand → Strand) : (updStrand s uid j f).records = s.records := rfl
@[simp] theorem updStrand_contexts (uid j : Nat) (f : Strand → Strand) : (updStrand s uid j f).contexts = s.contexts := rfl
@[simp] theorem updStrand_nextUid (uid j : Nat) (f : Strand → Strand) : (updStrand s uid j f).nextUid = s.nextUid := rfl
@[simp] theorem updStrand_faults (uid j : Nat) (f : Strand → Strand) : (updStrand s uid j f).faults = s.faults := rfl
@[simp] theorem updStrand_nextTag (uid j : Nat) (f : Strand → Strand) : (updStrand s uid j f).nextTag = s.nextTag := rfl
@[simp] theorem updStrand_ats (uid j : Nat) (f : Strand → Strand) : (updStrand s uid j f).ats = s.ats := rfl
@[simp] theorem updStrand_pri (uid j : Nat) (f : Strand → Strand) : (updStrand s uid j f).pri = s.pri := rfl
@[simp] theorem updStrand_hostTlbSuccess (uid j : Nat) (f : Strand → Strand) : (updStrand s uid j f).hostTlbSuccess = s.hostTlbSuccess := rfl
@[simp] theorem updStrand_hostRefused (uid j : Nat) (f : Strand → Strand) : (updStrand s uid j f).hostRefused = s.hostRefused := rfl
@[simp] theorem updStrand_walkCaches (uid j : Nat) (f : Strand → Strand) : (updStrand s uid j f).walkCaches = s.walkCaches := rfl
@[simp] theorem updStrand_firstRead (uid j : Nat) (f : Strand → Strand) : (updStrand s uid j f).firstRead = s.firstRead := rfl
@[simp] theorem updStrand_invs (uid j : Nat) (f : Strand → Strand) : (updStrand s uid j f).invs = s.invs := rfl
@[simp] theorem updStrand_jobs (uid j : Nat) (f : Strand → Strand) : (updStrand s uid j f).jobs = s.jobs := rfl
@[simp] theorem updStrand_images (uid j : Nat) (f : Strand → Strand) : (updStrand s uid j f).images = s.images := rfl
@[simp] theorem updStrand_restores (uid j : Nat) (f : Strand → Strand) : (updStrand s uid j f).restores = s.restores := rfl
@[simp] theorem updStrand_requests (uid j : Nat) (f : Strand → Strand) : (updStrand s uid j f).requests = s.requests := rfl
@[simp] theorem updStrand_rxHeld (uid j : Nat) (f : Strand → Strand) : (updStrand s uid j f).rxHeld = s.rxHeld := rfl
@[simp] theorem updStrand_rxFailed (uid j : Nat) (f : Strand → Strand) : (updStrand s uid j f).rxFailed = s.rxFailed := rfl
@[simp] theorem updStrand_nextRtag (uid j : Nat) (f : Strand → Strand) : (updStrand s uid j f).nextRtag = s.nextRtag := rfl
@[simp] theorem updStrand_links (uid j : Nat) (f : Strand → Strand) : (updStrand s uid j f).links = s.links := rfl
@[simp] theorem updStrand_arbiters (uid j : Nat) (f : Strand → Strand) : (updStrand s uid j f).arbiters = s.arbiters := rfl
@[simp] theorem updStrand_published (uid j : Nat) (f : Strand → Strand) : (updStrand s uid j f).published = s.published := rfl
@[simp] theorem updStrand_pfAccepted (uid j : Nat) (f : Strand → Strand) : (updStrand s uid j f).pfAccepted = s.pfAccepted := rfl
@[simp] theorem updStrand_pfAllowed (uid j : Nat) (f : Strand → Strand) : (updStrand s uid j f).pfAllowed = s.pfAllowed := rfl
@[simp] theorem updStrand_weights (uid j : Nat) (f : Strand → Strand) : (updStrand s uid j f).weights = s.weights := rfl
@[simp] theorem updStrand_commit (uid j : Nat) (f : Strand → Strand) : (updStrand s uid j f).commit = s.commit := rfl
@[simp] theorem updStrand_ifst (uid j : Nat) (f : Strand → Strand) : (updStrand s uid j f).ifst = s.ifst := rfl
@[simp] theorem updStrand_s2faultq (uid j : Nat) (f : Strand → Strand) : (updStrand s uid j f).s2faultq = s.s2faultq := rfl
@[simp] theorem updStrand_syslog (uid j : Nat) (f : Strand → Strand) : (updStrand s uid j f).syslog = s.syslog := rfl
@[simp] theorem updStrand_recovery (uid j : Nat) (f : Strand → Strand) : (updStrand s uid j f).recovery = s.recovery := rfl
@[simp] theorem updStrand_recoveryAddr (uid j : Nat) (f : Strand → Strand) : (updStrand s uid j f).recoveryAddr = s.recoveryAddr := rfl
@[simp] theorem updStrand_recoveryLen (uid j : Nat) (f : Strand → Strand) : (updStrand s uid j f).recoveryLen = s.recoveryLen := rfl
@[simp] theorem updStrand_recoveryStatus (uid j : Nat) (f : Strand → Strand) : (updStrand s uid j f).recoveryStatus = s.recoveryStatus := rfl
@[simp] theorem updStrand_svn (uid j : Nat) (f : Strand → Strand) : (updStrand s uid j f).svn = s.svn := rfl
@[simp] theorem updStrand_svnFloor (uid j : Nat) (f : Strand → Strand) : (updStrand s uid j f).svnFloor = s.svnFloor := rfl
@[simp] theorem updStrand_revoked (uid j : Nat) (f : Strand → Strand) : (updStrand s uid j f).revoked = s.revoked := rfl
@[simp] theorem updStrand_digests (uid j : Nat) (f : Strand → Strand) : (updStrand s uid j f).digests = s.digests := rfl
@[simp] theorem updStrand_lmsIndex (uid j : Nat) (f : Strand → Strand) : (updStrand s uid j f).lmsIndex = s.lmsIndex := rfl
@[simp] theorem updStrand_heldDies (uid j : Nat) (f : Strand → Strand) : (updStrand s uid j f).heldDies = s.heldDies := rfl
@[simp] theorem updStrand_hotDies (uid j : Nat) (f : Strand → Strand) : (updStrand s uid j f).hotDies = s.hotDies := rfl
@[simp] theorem updStrand_unitLanes (uid j : Nat) (f : Strand → Strand) : (updStrand s uid j f).unitLanes = s.unitLanes := rfl
@[simp] theorem updStrand_dies (uid j : Nat) (f : Strand → Strand) : (updStrand s uid j f).dies = s.dies := rfl
@[simp] theorem updStrand_out (uid j : Nat) (f : Strand → Strand) : (updStrand s uid j f).out = s.out := rfl
@[simp] theorem updStrand_agenda (uid j : Nat) (f : Strand → Strand) : (updStrand s uid j f).agenda = s.agenda := rfl
@[simp] theorem updStrand_cur (uid j : Nat) (f : Strand → Strand) : (updStrand s uid j f).cur = s.cur := rfl
@[simp] theorem updStrand_weak (uid j : Nat) (f : Strand → Strand) : (updStrand s uid j f).weak = s.weak := rfl
@[simp] theorem updStrand_free (uid j : Nat) (f : Strand → Strand) : (updStrand s uid j f).free = s.free := rfl
@[simp] theorem updStrand_turnNo (uid j : Nat) (f : Strand → Strand) : (updStrand s uid j f).turnNo = s.turnNo := rfl

/-! updVdev leaves every field but vdevs. -/

@[simp] theorem updVdev_clock (v : Nat) (f : VDev → VDev) : (updVdev s v f).clock = s.clock := rfl
@[simp] theorem updVdev_wallBase (v : Nat) (f : VDev → VDev) : (updVdev s v f).wallBase = s.wallBase := rfl
@[simp] theorem updVdev_mem (v : Nat) (f : VDev → VDev) : (updVdev s v f).mem = s.mem := rfl
@[simp] theorem updVdev_tags (v : Nat) (f : VDev → VDev) : (updVdev s v f).tags = s.tags := rfl
@[simp] theorem updVdev_latent (v : Nat) (f : VDev → VDev) : (updVdev s v f).latent = s.latent := rfl
@[simp] theorem updVdev_granules (v : Nat) (f : VDev → VDev) : (updVdev s v f).granules = s.granules := rfl
@[simp] theorem updVdev_tier2Granules (v : Nat) (f : VDev → VDev) : (updVdev s v f).tier2Granules = s.tier2Granules := rfl
@[simp] theorem updVdev_frames (v : Nat) (f : VDev → VDev) : (updVdev s v f).frames = s.frames := rfl
@[simp] theorem updVdev_tier2 (v : Nat) (f : VDev → VDev) : (updVdev s v f).tier2 = s.tier2 := rfl
@[simp] theorem updVdev_tier2Tags (v : Nat) (f : VDev → VDev) : (updVdev s v f).tier2Tags = s.tier2Tags := rfl
@[simp] theorem updVdev_window (v : Nat) (f : VDev → VDev) : (updVdev s v f).window = s.window := rfl
@[simp] theorem updVdev_hostMem (v : Nat) (f : VDev → VDev) : (updVdev s v f).hostMem = s.hostMem := rfl
@[simp] theorem updVdev_hostBus (v : Nat) (f : VDev → VDev) : (updVdev s v f).hostBus = s.hostBus := rfl
@[simp] theorem updVdev_hostLines (v : Nat) (f : VDev → VDev) : (updVdev s v f).hostLines = s.hostLines := rfl
@[simp] theorem updVdev_pendStores (v : Nat) (f : VDev → VDev) : (updVdev s v f).pendStores = s.pendStores := rfl
@[simp] theorem updVdev_clusters (v : Nat) (f : VDev → VDev) : (updVdev s v f).clusters = s.clusters := rfl
@[simp] theorem updVdev_quadcap (v : Nat) (f : VDev → VDev) : (updVdev s v f).quadcap = s.quadcap := rfl
@[simp] theorem updVdev_rings (v : Nat) (f : VDev → VDev) : (updVdev s v f).rings = s.rings := rfl
@[simp] theorem updVdev_hoop (v : Nat) (f : VDev → VDev) : (updVdev s v f).hoop = s.hoop := rfl
@[simp] theorem updVdev_hoopAt (v : Nat) (f : VDev → VDev) : (updVdev s v f).hoopAt = s.hoopAt := rfl
@[simp] theorem updVdev_records (v : Nat) (f : VDev → VDev) : (updVdev s v f).records = s.records := rfl
@[simp] theorem updVdev_contexts (v : Nat) (f : VDev → VDev) : (updVdev s v f).contexts = s.contexts := rfl
@[simp] theorem updVdev_motifs (v : Nat) (f : VDev → VDev) : (updVdev s v f).motifs = s.motifs := rfl
@[simp] theorem updVdev_nextUid (v : Nat) (f : VDev → VDev) : (updVdev s v f).nextUid = s.nextUid := rfl
@[simp] theorem updVdev_faults (v : Nat) (f : VDev → VDev) : (updVdev s v f).faults = s.faults := rfl
@[simp] theorem updVdev_nextTag (v : Nat) (f : VDev → VDev) : (updVdev s v f).nextTag = s.nextTag := rfl
@[simp] theorem updVdev_ats (v : Nat) (f : VDev → VDev) : (updVdev s v f).ats = s.ats := rfl
@[simp] theorem updVdev_pri (v : Nat) (f : VDev → VDev) : (updVdev s v f).pri = s.pri := rfl
@[simp] theorem updVdev_hostTlbSuccess (v : Nat) (f : VDev → VDev) : (updVdev s v f).hostTlbSuccess = s.hostTlbSuccess := rfl
@[simp] theorem updVdev_hostRefused (v : Nat) (f : VDev → VDev) : (updVdev s v f).hostRefused = s.hostRefused := rfl
@[simp] theorem updVdev_walkCaches (v : Nat) (f : VDev → VDev) : (updVdev s v f).walkCaches = s.walkCaches := rfl
@[simp] theorem updVdev_firstRead (v : Nat) (f : VDev → VDev) : (updVdev s v f).firstRead = s.firstRead := rfl
@[simp] theorem updVdev_invs (v : Nat) (f : VDev → VDev) : (updVdev s v f).invs = s.invs := rfl
@[simp] theorem updVdev_jobs (v : Nat) (f : VDev → VDev) : (updVdev s v f).jobs = s.jobs := rfl
@[simp] theorem updVdev_images (v : Nat) (f : VDev → VDev) : (updVdev s v f).images = s.images := rfl
@[simp] theorem updVdev_restores (v : Nat) (f : VDev → VDev) : (updVdev s v f).restores = s.restores := rfl
@[simp] theorem updVdev_requests (v : Nat) (f : VDev → VDev) : (updVdev s v f).requests = s.requests := rfl
@[simp] theorem updVdev_rxHeld (v : Nat) (f : VDev → VDev) : (updVdev s v f).rxHeld = s.rxHeld := rfl
@[simp] theorem updVdev_rxFailed (v : Nat) (f : VDev → VDev) : (updVdev s v f).rxFailed = s.rxFailed := rfl
@[simp] theorem updVdev_nextRtag (v : Nat) (f : VDev → VDev) : (updVdev s v f).nextRtag = s.nextRtag := rfl
@[simp] theorem updVdev_links (v : Nat) (f : VDev → VDev) : (updVdev s v f).links = s.links := rfl
@[simp] theorem updVdev_arbiters (v : Nat) (f : VDev → VDev) : (updVdev s v f).arbiters = s.arbiters := rfl
@[simp] theorem updVdev_published (v : Nat) (f : VDev → VDev) : (updVdev s v f).published = s.published := rfl
@[simp] theorem updVdev_pfAccepted (v : Nat) (f : VDev → VDev) : (updVdev s v f).pfAccepted = s.pfAccepted := rfl
@[simp] theorem updVdev_pfAllowed (v : Nat) (f : VDev → VDev) : (updVdev s v f).pfAllowed = s.pfAllowed := rfl
@[simp] theorem updVdev_weights (v : Nat) (f : VDev → VDev) : (updVdev s v f).weights = s.weights := rfl
@[simp] theorem updVdev_commit (v : Nat) (f : VDev → VDev) : (updVdev s v f).commit = s.commit := rfl
@[simp] theorem updVdev_ifst (v : Nat) (f : VDev → VDev) : (updVdev s v f).ifst = s.ifst := rfl
@[simp] theorem updVdev_s2faultq (v : Nat) (f : VDev → VDev) : (updVdev s v f).s2faultq = s.s2faultq := rfl
@[simp] theorem updVdev_syslog (v : Nat) (f : VDev → VDev) : (updVdev s v f).syslog = s.syslog := rfl
@[simp] theorem updVdev_recovery (v : Nat) (f : VDev → VDev) : (updVdev s v f).recovery = s.recovery := rfl
@[simp] theorem updVdev_recoveryAddr (v : Nat) (f : VDev → VDev) : (updVdev s v f).recoveryAddr = s.recoveryAddr := rfl
@[simp] theorem updVdev_recoveryLen (v : Nat) (f : VDev → VDev) : (updVdev s v f).recoveryLen = s.recoveryLen := rfl
@[simp] theorem updVdev_recoveryStatus (v : Nat) (f : VDev → VDev) : (updVdev s v f).recoveryStatus = s.recoveryStatus := rfl
@[simp] theorem updVdev_svn (v : Nat) (f : VDev → VDev) : (updVdev s v f).svn = s.svn := rfl
@[simp] theorem updVdev_svnFloor (v : Nat) (f : VDev → VDev) : (updVdev s v f).svnFloor = s.svnFloor := rfl
@[simp] theorem updVdev_revoked (v : Nat) (f : VDev → VDev) : (updVdev s v f).revoked = s.revoked := rfl
@[simp] theorem updVdev_digests (v : Nat) (f : VDev → VDev) : (updVdev s v f).digests = s.digests := rfl
@[simp] theorem updVdev_lmsIndex (v : Nat) (f : VDev → VDev) : (updVdev s v f).lmsIndex = s.lmsIndex := rfl
@[simp] theorem updVdev_heldDies (v : Nat) (f : VDev → VDev) : (updVdev s v f).heldDies = s.heldDies := rfl
@[simp] theorem updVdev_hotDies (v : Nat) (f : VDev → VDev) : (updVdev s v f).hotDies = s.hotDies := rfl
@[simp] theorem updVdev_unitLanes (v : Nat) (f : VDev → VDev) : (updVdev s v f).unitLanes = s.unitLanes := rfl
@[simp] theorem updVdev_dies (v : Nat) (f : VDev → VDev) : (updVdev s v f).dies = s.dies := rfl
@[simp] theorem updVdev_out (v : Nat) (f : VDev → VDev) : (updVdev s v f).out = s.out := rfl
@[simp] theorem updVdev_agenda (v : Nat) (f : VDev → VDev) : (updVdev s v f).agenda = s.agenda := rfl
@[simp] theorem updVdev_cur (v : Nat) (f : VDev → VDev) : (updVdev s v f).cur = s.cur := rfl
@[simp] theorem updVdev_weak (v : Nat) (f : VDev → VDev) : (updVdev s v f).weak = s.weak := rfl
@[simp] theorem updVdev_free (v : Nat) (f : VDev → VDev) : (updVdev s v f).free = s.free := rfl
@[simp] theorem updVdev_turnNo (v : Nat) (f : VDev → VDev) : (updVdev s v f).turnNo = s.turnNo := rfl

/-! updCluster leaves every field but clusters. -/

@[simp] theorem updCluster_clock (die k : Nat) (f : Cluster → Cluster) : (updCluster s die k f).clock = s.clock := rfl
@[simp] theorem updCluster_wallBase (die k : Nat) (f : Cluster → Cluster) : (updCluster s die k f).wallBase = s.wallBase := rfl
@[simp] theorem updCluster_mem (die k : Nat) (f : Cluster → Cluster) : (updCluster s die k f).mem = s.mem := rfl
@[simp] theorem updCluster_tags (die k : Nat) (f : Cluster → Cluster) : (updCluster s die k f).tags = s.tags := rfl
@[simp] theorem updCluster_latent (die k : Nat) (f : Cluster → Cluster) : (updCluster s die k f).latent = s.latent := rfl
@[simp] theorem updCluster_granules (die k : Nat) (f : Cluster → Cluster) : (updCluster s die k f).granules = s.granules := rfl
@[simp] theorem updCluster_tier2Granules (die k : Nat) (f : Cluster → Cluster) : (updCluster s die k f).tier2Granules = s.tier2Granules := rfl
@[simp] theorem updCluster_frames (die k : Nat) (f : Cluster → Cluster) : (updCluster s die k f).frames = s.frames := rfl
@[simp] theorem updCluster_tier2 (die k : Nat) (f : Cluster → Cluster) : (updCluster s die k f).tier2 = s.tier2 := rfl
@[simp] theorem updCluster_tier2Tags (die k : Nat) (f : Cluster → Cluster) : (updCluster s die k f).tier2Tags = s.tier2Tags := rfl
@[simp] theorem updCluster_window (die k : Nat) (f : Cluster → Cluster) : (updCluster s die k f).window = s.window := rfl
@[simp] theorem updCluster_hostMem (die k : Nat) (f : Cluster → Cluster) : (updCluster s die k f).hostMem = s.hostMem := rfl
@[simp] theorem updCluster_hostBus (die k : Nat) (f : Cluster → Cluster) : (updCluster s die k f).hostBus = s.hostBus := rfl
@[simp] theorem updCluster_hostLines (die k : Nat) (f : Cluster → Cluster) : (updCluster s die k f).hostLines = s.hostLines := rfl
@[simp] theorem updCluster_pendStores (die k : Nat) (f : Cluster → Cluster) : (updCluster s die k f).pendStores = s.pendStores := rfl
@[simp] theorem updCluster_quadcap (die k : Nat) (f : Cluster → Cluster) : (updCluster s die k f).quadcap = s.quadcap := rfl
@[simp] theorem updCluster_vdevs (die k : Nat) (f : Cluster → Cluster) : (updCluster s die k f).vdevs = s.vdevs := rfl
@[simp] theorem updCluster_rings (die k : Nat) (f : Cluster → Cluster) : (updCluster s die k f).rings = s.rings := rfl
@[simp] theorem updCluster_hoop (die k : Nat) (f : Cluster → Cluster) : (updCluster s die k f).hoop = s.hoop := rfl
@[simp] theorem updCluster_hoopAt (die k : Nat) (f : Cluster → Cluster) : (updCluster s die k f).hoopAt = s.hoopAt := rfl
@[simp] theorem updCluster_records (die k : Nat) (f : Cluster → Cluster) : (updCluster s die k f).records = s.records := rfl
@[simp] theorem updCluster_contexts (die k : Nat) (f : Cluster → Cluster) : (updCluster s die k f).contexts = s.contexts := rfl
@[simp] theorem updCluster_motifs (die k : Nat) (f : Cluster → Cluster) : (updCluster s die k f).motifs = s.motifs := rfl
@[simp] theorem updCluster_nextUid (die k : Nat) (f : Cluster → Cluster) : (updCluster s die k f).nextUid = s.nextUid := rfl
@[simp] theorem updCluster_faults (die k : Nat) (f : Cluster → Cluster) : (updCluster s die k f).faults = s.faults := rfl
@[simp] theorem updCluster_nextTag (die k : Nat) (f : Cluster → Cluster) : (updCluster s die k f).nextTag = s.nextTag := rfl
@[simp] theorem updCluster_ats (die k : Nat) (f : Cluster → Cluster) : (updCluster s die k f).ats = s.ats := rfl
@[simp] theorem updCluster_pri (die k : Nat) (f : Cluster → Cluster) : (updCluster s die k f).pri = s.pri := rfl
@[simp] theorem updCluster_hostTlbSuccess (die k : Nat) (f : Cluster → Cluster) : (updCluster s die k f).hostTlbSuccess = s.hostTlbSuccess := rfl
@[simp] theorem updCluster_hostRefused (die k : Nat) (f : Cluster → Cluster) : (updCluster s die k f).hostRefused = s.hostRefused := rfl
@[simp] theorem updCluster_walkCaches (die k : Nat) (f : Cluster → Cluster) : (updCluster s die k f).walkCaches = s.walkCaches := rfl
@[simp] theorem updCluster_firstRead (die k : Nat) (f : Cluster → Cluster) : (updCluster s die k f).firstRead = s.firstRead := rfl
@[simp] theorem updCluster_invs (die k : Nat) (f : Cluster → Cluster) : (updCluster s die k f).invs = s.invs := rfl
@[simp] theorem updCluster_jobs (die k : Nat) (f : Cluster → Cluster) : (updCluster s die k f).jobs = s.jobs := rfl
@[simp] theorem updCluster_images (die k : Nat) (f : Cluster → Cluster) : (updCluster s die k f).images = s.images := rfl
@[simp] theorem updCluster_restores (die k : Nat) (f : Cluster → Cluster) : (updCluster s die k f).restores = s.restores := rfl
@[simp] theorem updCluster_requests (die k : Nat) (f : Cluster → Cluster) : (updCluster s die k f).requests = s.requests := rfl
@[simp] theorem updCluster_rxHeld (die k : Nat) (f : Cluster → Cluster) : (updCluster s die k f).rxHeld = s.rxHeld := rfl
@[simp] theorem updCluster_rxFailed (die k : Nat) (f : Cluster → Cluster) : (updCluster s die k f).rxFailed = s.rxFailed := rfl
@[simp] theorem updCluster_nextRtag (die k : Nat) (f : Cluster → Cluster) : (updCluster s die k f).nextRtag = s.nextRtag := rfl
@[simp] theorem updCluster_links (die k : Nat) (f : Cluster → Cluster) : (updCluster s die k f).links = s.links := rfl
@[simp] theorem updCluster_arbiters (die k : Nat) (f : Cluster → Cluster) : (updCluster s die k f).arbiters = s.arbiters := rfl
@[simp] theorem updCluster_published (die k : Nat) (f : Cluster → Cluster) : (updCluster s die k f).published = s.published := rfl
@[simp] theorem updCluster_pfAccepted (die k : Nat) (f : Cluster → Cluster) : (updCluster s die k f).pfAccepted = s.pfAccepted := rfl
@[simp] theorem updCluster_pfAllowed (die k : Nat) (f : Cluster → Cluster) : (updCluster s die k f).pfAllowed = s.pfAllowed := rfl
@[simp] theorem updCluster_weights (die k : Nat) (f : Cluster → Cluster) : (updCluster s die k f).weights = s.weights := rfl
@[simp] theorem updCluster_commit (die k : Nat) (f : Cluster → Cluster) : (updCluster s die k f).commit = s.commit := rfl
@[simp] theorem updCluster_ifst (die k : Nat) (f : Cluster → Cluster) : (updCluster s die k f).ifst = s.ifst := rfl
@[simp] theorem updCluster_s2faultq (die k : Nat) (f : Cluster → Cluster) : (updCluster s die k f).s2faultq = s.s2faultq := rfl
@[simp] theorem updCluster_syslog (die k : Nat) (f : Cluster → Cluster) : (updCluster s die k f).syslog = s.syslog := rfl
@[simp] theorem updCluster_recovery (die k : Nat) (f : Cluster → Cluster) : (updCluster s die k f).recovery = s.recovery := rfl
@[simp] theorem updCluster_recoveryAddr (die k : Nat) (f : Cluster → Cluster) : (updCluster s die k f).recoveryAddr = s.recoveryAddr := rfl
@[simp] theorem updCluster_recoveryLen (die k : Nat) (f : Cluster → Cluster) : (updCluster s die k f).recoveryLen = s.recoveryLen := rfl
@[simp] theorem updCluster_recoveryStatus (die k : Nat) (f : Cluster → Cluster) : (updCluster s die k f).recoveryStatus = s.recoveryStatus := rfl
@[simp] theorem updCluster_svn (die k : Nat) (f : Cluster → Cluster) : (updCluster s die k f).svn = s.svn := rfl
@[simp] theorem updCluster_svnFloor (die k : Nat) (f : Cluster → Cluster) : (updCluster s die k f).svnFloor = s.svnFloor := rfl
@[simp] theorem updCluster_revoked (die k : Nat) (f : Cluster → Cluster) : (updCluster s die k f).revoked = s.revoked := rfl
@[simp] theorem updCluster_digests (die k : Nat) (f : Cluster → Cluster) : (updCluster s die k f).digests = s.digests := rfl
@[simp] theorem updCluster_lmsIndex (die k : Nat) (f : Cluster → Cluster) : (updCluster s die k f).lmsIndex = s.lmsIndex := rfl
@[simp] theorem updCluster_heldDies (die k : Nat) (f : Cluster → Cluster) : (updCluster s die k f).heldDies = s.heldDies := rfl
@[simp] theorem updCluster_hotDies (die k : Nat) (f : Cluster → Cluster) : (updCluster s die k f).hotDies = s.hotDies := rfl
@[simp] theorem updCluster_unitLanes (die k : Nat) (f : Cluster → Cluster) : (updCluster s die k f).unitLanes = s.unitLanes := rfl
@[simp] theorem updCluster_dies (die k : Nat) (f : Cluster → Cluster) : (updCluster s die k f).dies = s.dies := rfl
@[simp] theorem updCluster_out (die k : Nat) (f : Cluster → Cluster) : (updCluster s die k f).out = s.out := rfl
@[simp] theorem updCluster_agenda (die k : Nat) (f : Cluster → Cluster) : (updCluster s die k f).agenda = s.agenda := rfl
@[simp] theorem updCluster_cur (die k : Nat) (f : Cluster → Cluster) : (updCluster s die k f).cur = s.cur := rfl
@[simp] theorem updCluster_weak (die k : Nat) (f : Cluster → Cluster) : (updCluster s die k f).weak = s.weak := rfl
@[simp] theorem updCluster_free (die k : Nat) (f : Cluster → Cluster) : (updCluster s die k f).free = s.free := rfl
@[simp] theorem updCluster_turnNo (die k : Nat) (f : Cluster → Cluster) : (updCluster s die k f).turnNo = s.turnNo := rfl

/-! updRing leaves every field but rings. -/

@[simp] theorem updRing_clock (r : Nat) (f : Ring → Ring) : (updRing s r f).clock = s.clock := rfl
@[simp] theorem updRing_wallBase (r : Nat) (f : Ring → Ring) : (updRing s r f).wallBase = s.wallBase := rfl
@[simp] theorem updRing_mem (r : Nat) (f : Ring → Ring) : (updRing s r f).mem = s.mem := rfl
@[simp] theorem updRing_tags (r : Nat) (f : Ring → Ring) : (updRing s r f).tags = s.tags := rfl
@[simp] theorem updRing_latent (r : Nat) (f : Ring → Ring) : (updRing s r f).latent = s.latent := rfl
@[simp] theorem updRing_granules (r : Nat) (f : Ring → Ring) : (updRing s r f).granules = s.granules := rfl
@[simp] theorem updRing_tier2Granules (r : Nat) (f : Ring → Ring) : (updRing s r f).tier2Granules = s.tier2Granules := rfl
@[simp] theorem updRing_frames (r : Nat) (f : Ring → Ring) : (updRing s r f).frames = s.frames := rfl
@[simp] theorem updRing_tier2 (r : Nat) (f : Ring → Ring) : (updRing s r f).tier2 = s.tier2 := rfl
@[simp] theorem updRing_tier2Tags (r : Nat) (f : Ring → Ring) : (updRing s r f).tier2Tags = s.tier2Tags := rfl
@[simp] theorem updRing_window (r : Nat) (f : Ring → Ring) : (updRing s r f).window = s.window := rfl
@[simp] theorem updRing_hostMem (r : Nat) (f : Ring → Ring) : (updRing s r f).hostMem = s.hostMem := rfl
@[simp] theorem updRing_hostBus (r : Nat) (f : Ring → Ring) : (updRing s r f).hostBus = s.hostBus := rfl
@[simp] theorem updRing_hostLines (r : Nat) (f : Ring → Ring) : (updRing s r f).hostLines = s.hostLines := rfl
@[simp] theorem updRing_pendStores (r : Nat) (f : Ring → Ring) : (updRing s r f).pendStores = s.pendStores := rfl
@[simp] theorem updRing_clusters (r : Nat) (f : Ring → Ring) : (updRing s r f).clusters = s.clusters := rfl
@[simp] theorem updRing_quadcap (r : Nat) (f : Ring → Ring) : (updRing s r f).quadcap = s.quadcap := rfl
@[simp] theorem updRing_vdevs (r : Nat) (f : Ring → Ring) : (updRing s r f).vdevs = s.vdevs := rfl
@[simp] theorem updRing_hoop (r : Nat) (f : Ring → Ring) : (updRing s r f).hoop = s.hoop := rfl
@[simp] theorem updRing_hoopAt (r : Nat) (f : Ring → Ring) : (updRing s r f).hoopAt = s.hoopAt := rfl
@[simp] theorem updRing_records (r : Nat) (f : Ring → Ring) : (updRing s r f).records = s.records := rfl
@[simp] theorem updRing_contexts (r : Nat) (f : Ring → Ring) : (updRing s r f).contexts = s.contexts := rfl
@[simp] theorem updRing_motifs (r : Nat) (f : Ring → Ring) : (updRing s r f).motifs = s.motifs := rfl
@[simp] theorem updRing_nextUid (r : Nat) (f : Ring → Ring) : (updRing s r f).nextUid = s.nextUid := rfl
@[simp] theorem updRing_faults (r : Nat) (f : Ring → Ring) : (updRing s r f).faults = s.faults := rfl
@[simp] theorem updRing_nextTag (r : Nat) (f : Ring → Ring) : (updRing s r f).nextTag = s.nextTag := rfl
@[simp] theorem updRing_ats (r : Nat) (f : Ring → Ring) : (updRing s r f).ats = s.ats := rfl
@[simp] theorem updRing_pri (r : Nat) (f : Ring → Ring) : (updRing s r f).pri = s.pri := rfl
@[simp] theorem updRing_hostTlbSuccess (r : Nat) (f : Ring → Ring) : (updRing s r f).hostTlbSuccess = s.hostTlbSuccess := rfl
@[simp] theorem updRing_hostRefused (r : Nat) (f : Ring → Ring) : (updRing s r f).hostRefused = s.hostRefused := rfl
@[simp] theorem updRing_walkCaches (r : Nat) (f : Ring → Ring) : (updRing s r f).walkCaches = s.walkCaches := rfl
@[simp] theorem updRing_firstRead (r : Nat) (f : Ring → Ring) : (updRing s r f).firstRead = s.firstRead := rfl
@[simp] theorem updRing_invs (r : Nat) (f : Ring → Ring) : (updRing s r f).invs = s.invs := rfl
@[simp] theorem updRing_jobs (r : Nat) (f : Ring → Ring) : (updRing s r f).jobs = s.jobs := rfl
@[simp] theorem updRing_images (r : Nat) (f : Ring → Ring) : (updRing s r f).images = s.images := rfl
@[simp] theorem updRing_restores (r : Nat) (f : Ring → Ring) : (updRing s r f).restores = s.restores := rfl
@[simp] theorem updRing_requests (r : Nat) (f : Ring → Ring) : (updRing s r f).requests = s.requests := rfl
@[simp] theorem updRing_rxHeld (r : Nat) (f : Ring → Ring) : (updRing s r f).rxHeld = s.rxHeld := rfl
@[simp] theorem updRing_rxFailed (r : Nat) (f : Ring → Ring) : (updRing s r f).rxFailed = s.rxFailed := rfl
@[simp] theorem updRing_nextRtag (r : Nat) (f : Ring → Ring) : (updRing s r f).nextRtag = s.nextRtag := rfl
@[simp] theorem updRing_links (r : Nat) (f : Ring → Ring) : (updRing s r f).links = s.links := rfl
@[simp] theorem updRing_arbiters (r : Nat) (f : Ring → Ring) : (updRing s r f).arbiters = s.arbiters := rfl
@[simp] theorem updRing_published (r : Nat) (f : Ring → Ring) : (updRing s r f).published = s.published := rfl
@[simp] theorem updRing_pfAccepted (r : Nat) (f : Ring → Ring) : (updRing s r f).pfAccepted = s.pfAccepted := rfl
@[simp] theorem updRing_pfAllowed (r : Nat) (f : Ring → Ring) : (updRing s r f).pfAllowed = s.pfAllowed := rfl
@[simp] theorem updRing_weights (r : Nat) (f : Ring → Ring) : (updRing s r f).weights = s.weights := rfl
@[simp] theorem updRing_commit (r : Nat) (f : Ring → Ring) : (updRing s r f).commit = s.commit := rfl
@[simp] theorem updRing_ifst (r : Nat) (f : Ring → Ring) : (updRing s r f).ifst = s.ifst := rfl
@[simp] theorem updRing_s2faultq (r : Nat) (f : Ring → Ring) : (updRing s r f).s2faultq = s.s2faultq := rfl
@[simp] theorem updRing_syslog (r : Nat) (f : Ring → Ring) : (updRing s r f).syslog = s.syslog := rfl
@[simp] theorem updRing_recovery (r : Nat) (f : Ring → Ring) : (updRing s r f).recovery = s.recovery := rfl
@[simp] theorem updRing_recoveryAddr (r : Nat) (f : Ring → Ring) : (updRing s r f).recoveryAddr = s.recoveryAddr := rfl
@[simp] theorem updRing_recoveryLen (r : Nat) (f : Ring → Ring) : (updRing s r f).recoveryLen = s.recoveryLen := rfl
@[simp] theorem updRing_recoveryStatus (r : Nat) (f : Ring → Ring) : (updRing s r f).recoveryStatus = s.recoveryStatus := rfl
@[simp] theorem updRing_svn (r : Nat) (f : Ring → Ring) : (updRing s r f).svn = s.svn := rfl
@[simp] theorem updRing_svnFloor (r : Nat) (f : Ring → Ring) : (updRing s r f).svnFloor = s.svnFloor := rfl
@[simp] theorem updRing_revoked (r : Nat) (f : Ring → Ring) : (updRing s r f).revoked = s.revoked := rfl
@[simp] theorem updRing_digests (r : Nat) (f : Ring → Ring) : (updRing s r f).digests = s.digests := rfl
@[simp] theorem updRing_lmsIndex (r : Nat) (f : Ring → Ring) : (updRing s r f).lmsIndex = s.lmsIndex := rfl
@[simp] theorem updRing_heldDies (r : Nat) (f : Ring → Ring) : (updRing s r f).heldDies = s.heldDies := rfl
@[simp] theorem updRing_hotDies (r : Nat) (f : Ring → Ring) : (updRing s r f).hotDies = s.hotDies := rfl
@[simp] theorem updRing_unitLanes (r : Nat) (f : Ring → Ring) : (updRing s r f).unitLanes = s.unitLanes := rfl
@[simp] theorem updRing_dies (r : Nat) (f : Ring → Ring) : (updRing s r f).dies = s.dies := rfl
@[simp] theorem updRing_out (r : Nat) (f : Ring → Ring) : (updRing s r f).out = s.out := rfl
@[simp] theorem updRing_agenda (r : Nat) (f : Ring → Ring) : (updRing s r f).agenda = s.agenda := rfl
@[simp] theorem updRing_cur (r : Nat) (f : Ring → Ring) : (updRing s r f).cur = s.cur := rfl
@[simp] theorem updRing_weak (r : Nat) (f : Ring → Ring) : (updRing s r f).weak = s.weak := rfl
@[simp] theorem updRing_free (r : Nat) (f : Ring → Ring) : (updRing s r f).free = s.free := rfl
@[simp] theorem updRing_turnNo (r : Nat) (f : Ring → Ring) : (updRing s r f).turnNo = s.turnNo := rfl

/-! updLink leaves every field but links. -/

@[simp] theorem updLink_clock (l : Nat) (f : Link → Link) : (updLink s l f).clock = s.clock := rfl
@[simp] theorem updLink_wallBase (l : Nat) (f : Link → Link) : (updLink s l f).wallBase = s.wallBase := rfl
@[simp] theorem updLink_mem (l : Nat) (f : Link → Link) : (updLink s l f).mem = s.mem := rfl
@[simp] theorem updLink_tags (l : Nat) (f : Link → Link) : (updLink s l f).tags = s.tags := rfl
@[simp] theorem updLink_latent (l : Nat) (f : Link → Link) : (updLink s l f).latent = s.latent := rfl
@[simp] theorem updLink_granules (l : Nat) (f : Link → Link) : (updLink s l f).granules = s.granules := rfl
@[simp] theorem updLink_tier2Granules (l : Nat) (f : Link → Link) : (updLink s l f).tier2Granules = s.tier2Granules := rfl
@[simp] theorem updLink_frames (l : Nat) (f : Link → Link) : (updLink s l f).frames = s.frames := rfl
@[simp] theorem updLink_tier2 (l : Nat) (f : Link → Link) : (updLink s l f).tier2 = s.tier2 := rfl
@[simp] theorem updLink_tier2Tags (l : Nat) (f : Link → Link) : (updLink s l f).tier2Tags = s.tier2Tags := rfl
@[simp] theorem updLink_window (l : Nat) (f : Link → Link) : (updLink s l f).window = s.window := rfl
@[simp] theorem updLink_hostMem (l : Nat) (f : Link → Link) : (updLink s l f).hostMem = s.hostMem := rfl
@[simp] theorem updLink_hostBus (l : Nat) (f : Link → Link) : (updLink s l f).hostBus = s.hostBus := rfl
@[simp] theorem updLink_hostLines (l : Nat) (f : Link → Link) : (updLink s l f).hostLines = s.hostLines := rfl
@[simp] theorem updLink_pendStores (l : Nat) (f : Link → Link) : (updLink s l f).pendStores = s.pendStores := rfl
@[simp] theorem updLink_clusters (l : Nat) (f : Link → Link) : (updLink s l f).clusters = s.clusters := rfl
@[simp] theorem updLink_quadcap (l : Nat) (f : Link → Link) : (updLink s l f).quadcap = s.quadcap := rfl
@[simp] theorem updLink_vdevs (l : Nat) (f : Link → Link) : (updLink s l f).vdevs = s.vdevs := rfl
@[simp] theorem updLink_rings (l : Nat) (f : Link → Link) : (updLink s l f).rings = s.rings := rfl
@[simp] theorem updLink_hoop (l : Nat) (f : Link → Link) : (updLink s l f).hoop = s.hoop := rfl
@[simp] theorem updLink_hoopAt (l : Nat) (f : Link → Link) : (updLink s l f).hoopAt = s.hoopAt := rfl
@[simp] theorem updLink_records (l : Nat) (f : Link → Link) : (updLink s l f).records = s.records := rfl
@[simp] theorem updLink_contexts (l : Nat) (f : Link → Link) : (updLink s l f).contexts = s.contexts := rfl
@[simp] theorem updLink_motifs (l : Nat) (f : Link → Link) : (updLink s l f).motifs = s.motifs := rfl
@[simp] theorem updLink_nextUid (l : Nat) (f : Link → Link) : (updLink s l f).nextUid = s.nextUid := rfl
@[simp] theorem updLink_faults (l : Nat) (f : Link → Link) : (updLink s l f).faults = s.faults := rfl
@[simp] theorem updLink_nextTag (l : Nat) (f : Link → Link) : (updLink s l f).nextTag = s.nextTag := rfl
@[simp] theorem updLink_ats (l : Nat) (f : Link → Link) : (updLink s l f).ats = s.ats := rfl
@[simp] theorem updLink_pri (l : Nat) (f : Link → Link) : (updLink s l f).pri = s.pri := rfl
@[simp] theorem updLink_hostTlbSuccess (l : Nat) (f : Link → Link) : (updLink s l f).hostTlbSuccess = s.hostTlbSuccess := rfl
@[simp] theorem updLink_hostRefused (l : Nat) (f : Link → Link) : (updLink s l f).hostRefused = s.hostRefused := rfl
@[simp] theorem updLink_walkCaches (l : Nat) (f : Link → Link) : (updLink s l f).walkCaches = s.walkCaches := rfl
@[simp] theorem updLink_firstRead (l : Nat) (f : Link → Link) : (updLink s l f).firstRead = s.firstRead := rfl
@[simp] theorem updLink_invs (l : Nat) (f : Link → Link) : (updLink s l f).invs = s.invs := rfl
@[simp] theorem updLink_jobs (l : Nat) (f : Link → Link) : (updLink s l f).jobs = s.jobs := rfl
@[simp] theorem updLink_images (l : Nat) (f : Link → Link) : (updLink s l f).images = s.images := rfl
@[simp] theorem updLink_restores (l : Nat) (f : Link → Link) : (updLink s l f).restores = s.restores := rfl
@[simp] theorem updLink_requests (l : Nat) (f : Link → Link) : (updLink s l f).requests = s.requests := rfl
@[simp] theorem updLink_rxHeld (l : Nat) (f : Link → Link) : (updLink s l f).rxHeld = s.rxHeld := rfl
@[simp] theorem updLink_rxFailed (l : Nat) (f : Link → Link) : (updLink s l f).rxFailed = s.rxFailed := rfl
@[simp] theorem updLink_nextRtag (l : Nat) (f : Link → Link) : (updLink s l f).nextRtag = s.nextRtag := rfl
@[simp] theorem updLink_arbiters (l : Nat) (f : Link → Link) : (updLink s l f).arbiters = s.arbiters := rfl
@[simp] theorem updLink_published (l : Nat) (f : Link → Link) : (updLink s l f).published = s.published := rfl
@[simp] theorem updLink_pfAccepted (l : Nat) (f : Link → Link) : (updLink s l f).pfAccepted = s.pfAccepted := rfl
@[simp] theorem updLink_pfAllowed (l : Nat) (f : Link → Link) : (updLink s l f).pfAllowed = s.pfAllowed := rfl
@[simp] theorem updLink_weights (l : Nat) (f : Link → Link) : (updLink s l f).weights = s.weights := rfl
@[simp] theorem updLink_commit (l : Nat) (f : Link → Link) : (updLink s l f).commit = s.commit := rfl
@[simp] theorem updLink_ifst (l : Nat) (f : Link → Link) : (updLink s l f).ifst = s.ifst := rfl
@[simp] theorem updLink_s2faultq (l : Nat) (f : Link → Link) : (updLink s l f).s2faultq = s.s2faultq := rfl
@[simp] theorem updLink_syslog (l : Nat) (f : Link → Link) : (updLink s l f).syslog = s.syslog := rfl
@[simp] theorem updLink_recovery (l : Nat) (f : Link → Link) : (updLink s l f).recovery = s.recovery := rfl
@[simp] theorem updLink_recoveryAddr (l : Nat) (f : Link → Link) : (updLink s l f).recoveryAddr = s.recoveryAddr := rfl
@[simp] theorem updLink_recoveryLen (l : Nat) (f : Link → Link) : (updLink s l f).recoveryLen = s.recoveryLen := rfl
@[simp] theorem updLink_recoveryStatus (l : Nat) (f : Link → Link) : (updLink s l f).recoveryStatus = s.recoveryStatus := rfl
@[simp] theorem updLink_svn (l : Nat) (f : Link → Link) : (updLink s l f).svn = s.svn := rfl
@[simp] theorem updLink_svnFloor (l : Nat) (f : Link → Link) : (updLink s l f).svnFloor = s.svnFloor := rfl
@[simp] theorem updLink_revoked (l : Nat) (f : Link → Link) : (updLink s l f).revoked = s.revoked := rfl
@[simp] theorem updLink_digests (l : Nat) (f : Link → Link) : (updLink s l f).digests = s.digests := rfl
@[simp] theorem updLink_lmsIndex (l : Nat) (f : Link → Link) : (updLink s l f).lmsIndex = s.lmsIndex := rfl
@[simp] theorem updLink_heldDies (l : Nat) (f : Link → Link) : (updLink s l f).heldDies = s.heldDies := rfl
@[simp] theorem updLink_hotDies (l : Nat) (f : Link → Link) : (updLink s l f).hotDies = s.hotDies := rfl
@[simp] theorem updLink_unitLanes (l : Nat) (f : Link → Link) : (updLink s l f).unitLanes = s.unitLanes := rfl
@[simp] theorem updLink_dies (l : Nat) (f : Link → Link) : (updLink s l f).dies = s.dies := rfl
@[simp] theorem updLink_out (l : Nat) (f : Link → Link) : (updLink s l f).out = s.out := rfl
@[simp] theorem updLink_agenda (l : Nat) (f : Link → Link) : (updLink s l f).agenda = s.agenda := rfl
@[simp] theorem updLink_cur (l : Nat) (f : Link → Link) : (updLink s l f).cur = s.cur := rfl
@[simp] theorem updLink_weak (l : Nat) (f : Link → Link) : (updLink s l f).weak = s.weak := rfl
@[simp] theorem updLink_free (l : Nat) (f : Link → Link) : (updLink s l f).free = s.free := rfl
@[simp] theorem updLink_turnNo (l : Nat) (f : Link → Link) : (updLink s l f).turnNo = s.turnNo := rfl

/-! updRecord leaves every field but records. -/

@[simp] theorem updRecord_clock (ring n : Nat) (f : Record → Record) : (updRecord s ring n f).clock = s.clock := rfl
@[simp] theorem updRecord_wallBase (ring n : Nat) (f : Record → Record) : (updRecord s ring n f).wallBase = s.wallBase := rfl
@[simp] theorem updRecord_mem (ring n : Nat) (f : Record → Record) : (updRecord s ring n f).mem = s.mem := rfl
@[simp] theorem updRecord_tags (ring n : Nat) (f : Record → Record) : (updRecord s ring n f).tags = s.tags := rfl
@[simp] theorem updRecord_latent (ring n : Nat) (f : Record → Record) : (updRecord s ring n f).latent = s.latent := rfl
@[simp] theorem updRecord_granules (ring n : Nat) (f : Record → Record) : (updRecord s ring n f).granules = s.granules := rfl
@[simp] theorem updRecord_tier2Granules (ring n : Nat) (f : Record → Record) : (updRecord s ring n f).tier2Granules = s.tier2Granules := rfl
@[simp] theorem updRecord_frames (ring n : Nat) (f : Record → Record) : (updRecord s ring n f).frames = s.frames := rfl
@[simp] theorem updRecord_tier2 (ring n : Nat) (f : Record → Record) : (updRecord s ring n f).tier2 = s.tier2 := rfl
@[simp] theorem updRecord_tier2Tags (ring n : Nat) (f : Record → Record) : (updRecord s ring n f).tier2Tags = s.tier2Tags := rfl
@[simp] theorem updRecord_window (ring n : Nat) (f : Record → Record) : (updRecord s ring n f).window = s.window := rfl
@[simp] theorem updRecord_hostMem (ring n : Nat) (f : Record → Record) : (updRecord s ring n f).hostMem = s.hostMem := rfl
@[simp] theorem updRecord_hostBus (ring n : Nat) (f : Record → Record) : (updRecord s ring n f).hostBus = s.hostBus := rfl
@[simp] theorem updRecord_hostLines (ring n : Nat) (f : Record → Record) : (updRecord s ring n f).hostLines = s.hostLines := rfl
@[simp] theorem updRecord_pendStores (ring n : Nat) (f : Record → Record) : (updRecord s ring n f).pendStores = s.pendStores := rfl
@[simp] theorem updRecord_clusters (ring n : Nat) (f : Record → Record) : (updRecord s ring n f).clusters = s.clusters := rfl
@[simp] theorem updRecord_quadcap (ring n : Nat) (f : Record → Record) : (updRecord s ring n f).quadcap = s.quadcap := rfl
@[simp] theorem updRecord_vdevs (ring n : Nat) (f : Record → Record) : (updRecord s ring n f).vdevs = s.vdevs := rfl
@[simp] theorem updRecord_rings (ring n : Nat) (f : Record → Record) : (updRecord s ring n f).rings = s.rings := rfl
@[simp] theorem updRecord_hoop (ring n : Nat) (f : Record → Record) : (updRecord s ring n f).hoop = s.hoop := rfl
@[simp] theorem updRecord_hoopAt (ring n : Nat) (f : Record → Record) : (updRecord s ring n f).hoopAt = s.hoopAt := rfl
@[simp] theorem updRecord_contexts (ring n : Nat) (f : Record → Record) : (updRecord s ring n f).contexts = s.contexts := rfl
@[simp] theorem updRecord_motifs (ring n : Nat) (f : Record → Record) : (updRecord s ring n f).motifs = s.motifs := rfl
@[simp] theorem updRecord_nextUid (ring n : Nat) (f : Record → Record) : (updRecord s ring n f).nextUid = s.nextUid := rfl
@[simp] theorem updRecord_faults (ring n : Nat) (f : Record → Record) : (updRecord s ring n f).faults = s.faults := rfl
@[simp] theorem updRecord_nextTag (ring n : Nat) (f : Record → Record) : (updRecord s ring n f).nextTag = s.nextTag := rfl
@[simp] theorem updRecord_ats (ring n : Nat) (f : Record → Record) : (updRecord s ring n f).ats = s.ats := rfl
@[simp] theorem updRecord_pri (ring n : Nat) (f : Record → Record) : (updRecord s ring n f).pri = s.pri := rfl
@[simp] theorem updRecord_hostTlbSuccess (ring n : Nat) (f : Record → Record) : (updRecord s ring n f).hostTlbSuccess = s.hostTlbSuccess := rfl
@[simp] theorem updRecord_hostRefused (ring n : Nat) (f : Record → Record) : (updRecord s ring n f).hostRefused = s.hostRefused := rfl
@[simp] theorem updRecord_walkCaches (ring n : Nat) (f : Record → Record) : (updRecord s ring n f).walkCaches = s.walkCaches := rfl
@[simp] theorem updRecord_firstRead (ring n : Nat) (f : Record → Record) : (updRecord s ring n f).firstRead = s.firstRead := rfl
@[simp] theorem updRecord_invs (ring n : Nat) (f : Record → Record) : (updRecord s ring n f).invs = s.invs := rfl
@[simp] theorem updRecord_jobs (ring n : Nat) (f : Record → Record) : (updRecord s ring n f).jobs = s.jobs := rfl
@[simp] theorem updRecord_images (ring n : Nat) (f : Record → Record) : (updRecord s ring n f).images = s.images := rfl
@[simp] theorem updRecord_restores (ring n : Nat) (f : Record → Record) : (updRecord s ring n f).restores = s.restores := rfl
@[simp] theorem updRecord_requests (ring n : Nat) (f : Record → Record) : (updRecord s ring n f).requests = s.requests := rfl
@[simp] theorem updRecord_rxHeld (ring n : Nat) (f : Record → Record) : (updRecord s ring n f).rxHeld = s.rxHeld := rfl
@[simp] theorem updRecord_rxFailed (ring n : Nat) (f : Record → Record) : (updRecord s ring n f).rxFailed = s.rxFailed := rfl
@[simp] theorem updRecord_nextRtag (ring n : Nat) (f : Record → Record) : (updRecord s ring n f).nextRtag = s.nextRtag := rfl
@[simp] theorem updRecord_links (ring n : Nat) (f : Record → Record) : (updRecord s ring n f).links = s.links := rfl
@[simp] theorem updRecord_arbiters (ring n : Nat) (f : Record → Record) : (updRecord s ring n f).arbiters = s.arbiters := rfl
@[simp] theorem updRecord_published (ring n : Nat) (f : Record → Record) : (updRecord s ring n f).published = s.published := rfl
@[simp] theorem updRecord_pfAccepted (ring n : Nat) (f : Record → Record) : (updRecord s ring n f).pfAccepted = s.pfAccepted := rfl
@[simp] theorem updRecord_pfAllowed (ring n : Nat) (f : Record → Record) : (updRecord s ring n f).pfAllowed = s.pfAllowed := rfl
@[simp] theorem updRecord_weights (ring n : Nat) (f : Record → Record) : (updRecord s ring n f).weights = s.weights := rfl
@[simp] theorem updRecord_commit (ring n : Nat) (f : Record → Record) : (updRecord s ring n f).commit = s.commit := rfl
@[simp] theorem updRecord_ifst (ring n : Nat) (f : Record → Record) : (updRecord s ring n f).ifst = s.ifst := rfl
@[simp] theorem updRecord_s2faultq (ring n : Nat) (f : Record → Record) : (updRecord s ring n f).s2faultq = s.s2faultq := rfl
@[simp] theorem updRecord_syslog (ring n : Nat) (f : Record → Record) : (updRecord s ring n f).syslog = s.syslog := rfl
@[simp] theorem updRecord_recovery (ring n : Nat) (f : Record → Record) : (updRecord s ring n f).recovery = s.recovery := rfl
@[simp] theorem updRecord_recoveryAddr (ring n : Nat) (f : Record → Record) : (updRecord s ring n f).recoveryAddr = s.recoveryAddr := rfl
@[simp] theorem updRecord_recoveryLen (ring n : Nat) (f : Record → Record) : (updRecord s ring n f).recoveryLen = s.recoveryLen := rfl
@[simp] theorem updRecord_recoveryStatus (ring n : Nat) (f : Record → Record) : (updRecord s ring n f).recoveryStatus = s.recoveryStatus := rfl
@[simp] theorem updRecord_svn (ring n : Nat) (f : Record → Record) : (updRecord s ring n f).svn = s.svn := rfl
@[simp] theorem updRecord_svnFloor (ring n : Nat) (f : Record → Record) : (updRecord s ring n f).svnFloor = s.svnFloor := rfl
@[simp] theorem updRecord_revoked (ring n : Nat) (f : Record → Record) : (updRecord s ring n f).revoked = s.revoked := rfl
@[simp] theorem updRecord_digests (ring n : Nat) (f : Record → Record) : (updRecord s ring n f).digests = s.digests := rfl
@[simp] theorem updRecord_lmsIndex (ring n : Nat) (f : Record → Record) : (updRecord s ring n f).lmsIndex = s.lmsIndex := rfl
@[simp] theorem updRecord_heldDies (ring n : Nat) (f : Record → Record) : (updRecord s ring n f).heldDies = s.heldDies := rfl
@[simp] theorem updRecord_hotDies (ring n : Nat) (f : Record → Record) : (updRecord s ring n f).hotDies = s.hotDies := rfl
@[simp] theorem updRecord_unitLanes (ring n : Nat) (f : Record → Record) : (updRecord s ring n f).unitLanes = s.unitLanes := rfl
@[simp] theorem updRecord_dies (ring n : Nat) (f : Record → Record) : (updRecord s ring n f).dies = s.dies := rfl
@[simp] theorem updRecord_out (ring n : Nat) (f : Record → Record) : (updRecord s ring n f).out = s.out := rfl
@[simp] theorem updRecord_agenda (ring n : Nat) (f : Record → Record) : (updRecord s ring n f).agenda = s.agenda := rfl
@[simp] theorem updRecord_cur (ring n : Nat) (f : Record → Record) : (updRecord s ring n f).cur = s.cur := rfl
@[simp] theorem updRecord_weak (ring n : Nat) (f : Record → Record) : (updRecord s ring n f).weak = s.weak := rfl
@[simp] theorem updRecord_free (ring n : Nat) (f : Record → Record) : (updRecord s ring n f).free = s.free := rfl
@[simp] theorem updRecord_turnNo (ring n : Nat) (f : Record → Record) : (updRecord s ring n f).turnNo = s.turnNo := rfl

/-! updCtx leaves every field but contexts. -/

@[simp] theorem updCtx_clock (cid : Cid) (f : Ctx → Ctx) : (updCtx s cid f).clock = s.clock := by unfold updCtx; split <;> rfl
@[simp] theorem updCtx_wallBase (cid : Cid) (f : Ctx → Ctx) : (updCtx s cid f).wallBase = s.wallBase := by unfold updCtx; split <;> rfl
@[simp] theorem updCtx_mem (cid : Cid) (f : Ctx → Ctx) : (updCtx s cid f).mem = s.mem := by unfold updCtx; split <;> rfl
@[simp] theorem updCtx_tags (cid : Cid) (f : Ctx → Ctx) : (updCtx s cid f).tags = s.tags := by unfold updCtx; split <;> rfl
@[simp] theorem updCtx_latent (cid : Cid) (f : Ctx → Ctx) : (updCtx s cid f).latent = s.latent := by unfold updCtx; split <;> rfl
@[simp] theorem updCtx_granules (cid : Cid) (f : Ctx → Ctx) : (updCtx s cid f).granules = s.granules := by unfold updCtx; split <;> rfl
@[simp] theorem updCtx_tier2Granules (cid : Cid) (f : Ctx → Ctx) : (updCtx s cid f).tier2Granules = s.tier2Granules := by unfold updCtx; split <;> rfl
@[simp] theorem updCtx_frames (cid : Cid) (f : Ctx → Ctx) : (updCtx s cid f).frames = s.frames := by unfold updCtx; split <;> rfl
@[simp] theorem updCtx_tier2 (cid : Cid) (f : Ctx → Ctx) : (updCtx s cid f).tier2 = s.tier2 := by unfold updCtx; split <;> rfl
@[simp] theorem updCtx_tier2Tags (cid : Cid) (f : Ctx → Ctx) : (updCtx s cid f).tier2Tags = s.tier2Tags := by unfold updCtx; split <;> rfl
@[simp] theorem updCtx_window (cid : Cid) (f : Ctx → Ctx) : (updCtx s cid f).window = s.window := by unfold updCtx; split <;> rfl
@[simp] theorem updCtx_hostMem (cid : Cid) (f : Ctx → Ctx) : (updCtx s cid f).hostMem = s.hostMem := by unfold updCtx; split <;> rfl
@[simp] theorem updCtx_hostBus (cid : Cid) (f : Ctx → Ctx) : (updCtx s cid f).hostBus = s.hostBus := by unfold updCtx; split <;> rfl
@[simp] theorem updCtx_hostLines (cid : Cid) (f : Ctx → Ctx) : (updCtx s cid f).hostLines = s.hostLines := by unfold updCtx; split <;> rfl
@[simp] theorem updCtx_pendStores (cid : Cid) (f : Ctx → Ctx) : (updCtx s cid f).pendStores = s.pendStores := by unfold updCtx; split <;> rfl
@[simp] theorem updCtx_clusters (cid : Cid) (f : Ctx → Ctx) : (updCtx s cid f).clusters = s.clusters := by unfold updCtx; split <;> rfl
@[simp] theorem updCtx_quadcap (cid : Cid) (f : Ctx → Ctx) : (updCtx s cid f).quadcap = s.quadcap := by unfold updCtx; split <;> rfl
@[simp] theorem updCtx_vdevs (cid : Cid) (f : Ctx → Ctx) : (updCtx s cid f).vdevs = s.vdevs := by unfold updCtx; split <;> rfl
@[simp] theorem updCtx_rings (cid : Cid) (f : Ctx → Ctx) : (updCtx s cid f).rings = s.rings := by unfold updCtx; split <;> rfl
@[simp] theorem updCtx_hoop (cid : Cid) (f : Ctx → Ctx) : (updCtx s cid f).hoop = s.hoop := by unfold updCtx; split <;> rfl
@[simp] theorem updCtx_hoopAt (cid : Cid) (f : Ctx → Ctx) : (updCtx s cid f).hoopAt = s.hoopAt := by unfold updCtx; split <;> rfl
@[simp] theorem updCtx_records (cid : Cid) (f : Ctx → Ctx) : (updCtx s cid f).records = s.records := by unfold updCtx; split <;> rfl
@[simp] theorem updCtx_motifs (cid : Cid) (f : Ctx → Ctx) : (updCtx s cid f).motifs = s.motifs := by unfold updCtx; split <;> rfl
@[simp] theorem updCtx_nextUid (cid : Cid) (f : Ctx → Ctx) : (updCtx s cid f).nextUid = s.nextUid := by unfold updCtx; split <;> rfl
@[simp] theorem updCtx_faults (cid : Cid) (f : Ctx → Ctx) : (updCtx s cid f).faults = s.faults := by unfold updCtx; split <;> rfl
@[simp] theorem updCtx_nextTag (cid : Cid) (f : Ctx → Ctx) : (updCtx s cid f).nextTag = s.nextTag := by unfold updCtx; split <;> rfl
@[simp] theorem updCtx_ats (cid : Cid) (f : Ctx → Ctx) : (updCtx s cid f).ats = s.ats := by unfold updCtx; split <;> rfl
@[simp] theorem updCtx_pri (cid : Cid) (f : Ctx → Ctx) : (updCtx s cid f).pri = s.pri := by unfold updCtx; split <;> rfl
@[simp] theorem updCtx_hostTlbSuccess (cid : Cid) (f : Ctx → Ctx) : (updCtx s cid f).hostTlbSuccess = s.hostTlbSuccess := by unfold updCtx; split <;> rfl
@[simp] theorem updCtx_hostRefused (cid : Cid) (f : Ctx → Ctx) : (updCtx s cid f).hostRefused = s.hostRefused := by unfold updCtx; split <;> rfl
@[simp] theorem updCtx_walkCaches (cid : Cid) (f : Ctx → Ctx) : (updCtx s cid f).walkCaches = s.walkCaches := by unfold updCtx; split <;> rfl
@[simp] theorem updCtx_firstRead (cid : Cid) (f : Ctx → Ctx) : (updCtx s cid f).firstRead = s.firstRead := by unfold updCtx; split <;> rfl
@[simp] theorem updCtx_invs (cid : Cid) (f : Ctx → Ctx) : (updCtx s cid f).invs = s.invs := by unfold updCtx; split <;> rfl
@[simp] theorem updCtx_jobs (cid : Cid) (f : Ctx → Ctx) : (updCtx s cid f).jobs = s.jobs := by unfold updCtx; split <;> rfl
@[simp] theorem updCtx_images (cid : Cid) (f : Ctx → Ctx) : (updCtx s cid f).images = s.images := by unfold updCtx; split <;> rfl
@[simp] theorem updCtx_restores (cid : Cid) (f : Ctx → Ctx) : (updCtx s cid f).restores = s.restores := by unfold updCtx; split <;> rfl
@[simp] theorem updCtx_requests (cid : Cid) (f : Ctx → Ctx) : (updCtx s cid f).requests = s.requests := by unfold updCtx; split <;> rfl
@[simp] theorem updCtx_rxHeld (cid : Cid) (f : Ctx → Ctx) : (updCtx s cid f).rxHeld = s.rxHeld := by unfold updCtx; split <;> rfl
@[simp] theorem updCtx_rxFailed (cid : Cid) (f : Ctx → Ctx) : (updCtx s cid f).rxFailed = s.rxFailed := by unfold updCtx; split <;> rfl
@[simp] theorem updCtx_nextRtag (cid : Cid) (f : Ctx → Ctx) : (updCtx s cid f).nextRtag = s.nextRtag := by unfold updCtx; split <;> rfl
@[simp] theorem updCtx_links (cid : Cid) (f : Ctx → Ctx) : (updCtx s cid f).links = s.links := by unfold updCtx; split <;> rfl
@[simp] theorem updCtx_arbiters (cid : Cid) (f : Ctx → Ctx) : (updCtx s cid f).arbiters = s.arbiters := by unfold updCtx; split <;> rfl
@[simp] theorem updCtx_published (cid : Cid) (f : Ctx → Ctx) : (updCtx s cid f).published = s.published := by unfold updCtx; split <;> rfl
@[simp] theorem updCtx_pfAccepted (cid : Cid) (f : Ctx → Ctx) : (updCtx s cid f).pfAccepted = s.pfAccepted := by unfold updCtx; split <;> rfl
@[simp] theorem updCtx_pfAllowed (cid : Cid) (f : Ctx → Ctx) : (updCtx s cid f).pfAllowed = s.pfAllowed := by unfold updCtx; split <;> rfl
@[simp] theorem updCtx_weights (cid : Cid) (f : Ctx → Ctx) : (updCtx s cid f).weights = s.weights := by unfold updCtx; split <;> rfl
@[simp] theorem updCtx_commit (cid : Cid) (f : Ctx → Ctx) : (updCtx s cid f).commit = s.commit := by unfold updCtx; split <;> rfl
@[simp] theorem updCtx_ifst (cid : Cid) (f : Ctx → Ctx) : (updCtx s cid f).ifst = s.ifst := by unfold updCtx; split <;> rfl
@[simp] theorem updCtx_s2faultq (cid : Cid) (f : Ctx → Ctx) : (updCtx s cid f).s2faultq = s.s2faultq := by unfold updCtx; split <;> rfl
@[simp] theorem updCtx_syslog (cid : Cid) (f : Ctx → Ctx) : (updCtx s cid f).syslog = s.syslog := by unfold updCtx; split <;> rfl
@[simp] theorem updCtx_recovery (cid : Cid) (f : Ctx → Ctx) : (updCtx s cid f).recovery = s.recovery := by unfold updCtx; split <;> rfl
@[simp] theorem updCtx_recoveryAddr (cid : Cid) (f : Ctx → Ctx) : (updCtx s cid f).recoveryAddr = s.recoveryAddr := by unfold updCtx; split <;> rfl
@[simp] theorem updCtx_recoveryLen (cid : Cid) (f : Ctx → Ctx) : (updCtx s cid f).recoveryLen = s.recoveryLen := by unfold updCtx; split <;> rfl
@[simp] theorem updCtx_recoveryStatus (cid : Cid) (f : Ctx → Ctx) : (updCtx s cid f).recoveryStatus = s.recoveryStatus := by unfold updCtx; split <;> rfl
@[simp] theorem updCtx_svn (cid : Cid) (f : Ctx → Ctx) : (updCtx s cid f).svn = s.svn := by unfold updCtx; split <;> rfl
@[simp] theorem updCtx_svnFloor (cid : Cid) (f : Ctx → Ctx) : (updCtx s cid f).svnFloor = s.svnFloor := by unfold updCtx; split <;> rfl
@[simp] theorem updCtx_revoked (cid : Cid) (f : Ctx → Ctx) : (updCtx s cid f).revoked = s.revoked := by unfold updCtx; split <;> rfl
@[simp] theorem updCtx_digests (cid : Cid) (f : Ctx → Ctx) : (updCtx s cid f).digests = s.digests := by unfold updCtx; split <;> rfl
@[simp] theorem updCtx_lmsIndex (cid : Cid) (f : Ctx → Ctx) : (updCtx s cid f).lmsIndex = s.lmsIndex := by unfold updCtx; split <;> rfl
@[simp] theorem updCtx_heldDies (cid : Cid) (f : Ctx → Ctx) : (updCtx s cid f).heldDies = s.heldDies := by unfold updCtx; split <;> rfl
@[simp] theorem updCtx_hotDies (cid : Cid) (f : Ctx → Ctx) : (updCtx s cid f).hotDies = s.hotDies := by unfold updCtx; split <;> rfl
@[simp] theorem updCtx_unitLanes (cid : Cid) (f : Ctx → Ctx) : (updCtx s cid f).unitLanes = s.unitLanes := by unfold updCtx; split <;> rfl
@[simp] theorem updCtx_dies (cid : Cid) (f : Ctx → Ctx) : (updCtx s cid f).dies = s.dies := by unfold updCtx; split <;> rfl
@[simp] theorem updCtx_out (cid : Cid) (f : Ctx → Ctx) : (updCtx s cid f).out = s.out := by unfold updCtx; split <;> rfl
@[simp] theorem updCtx_agenda (cid : Cid) (f : Ctx → Ctx) : (updCtx s cid f).agenda = s.agenda := by unfold updCtx; split <;> rfl
@[simp] theorem updCtx_cur (cid : Cid) (f : Ctx → Ctx) : (updCtx s cid f).cur = s.cur := by unfold updCtx; split <;> rfl
@[simp] theorem updCtx_weak (cid : Cid) (f : Ctx → Ctx) : (updCtx s cid f).weak = s.weak := by unfold updCtx; split <;> rfl
@[simp] theorem updCtx_free (cid : Cid) (f : Ctx → Ctx) : (updCtx s cid f).free = s.free := by unfold updCtx; split <;> rfl
@[simp] theorem updCtx_turnNo (cid : Cid) (f : Ctx → Ctx) : (updCtx s cid f).turnNo = s.turnNo := by unfold updCtx; split <;> rfl

/-! updJob leaves every field but jobs. -/

@[simp] theorem updJob_clock (cid : Cid) (f : Job → Job) : (updJob s cid f).clock = s.clock := by unfold updJob; split <;> rfl
@[simp] theorem updJob_wallBase (cid : Cid) (f : Job → Job) : (updJob s cid f).wallBase = s.wallBase := by unfold updJob; split <;> rfl
@[simp] theorem updJob_mem (cid : Cid) (f : Job → Job) : (updJob s cid f).mem = s.mem := by unfold updJob; split <;> rfl
@[simp] theorem updJob_tags (cid : Cid) (f : Job → Job) : (updJob s cid f).tags = s.tags := by unfold updJob; split <;> rfl
@[simp] theorem updJob_latent (cid : Cid) (f : Job → Job) : (updJob s cid f).latent = s.latent := by unfold updJob; split <;> rfl
@[simp] theorem updJob_granules (cid : Cid) (f : Job → Job) : (updJob s cid f).granules = s.granules := by unfold updJob; split <;> rfl
@[simp] theorem updJob_tier2Granules (cid : Cid) (f : Job → Job) : (updJob s cid f).tier2Granules = s.tier2Granules := by unfold updJob; split <;> rfl
@[simp] theorem updJob_frames (cid : Cid) (f : Job → Job) : (updJob s cid f).frames = s.frames := by unfold updJob; split <;> rfl
@[simp] theorem updJob_tier2 (cid : Cid) (f : Job → Job) : (updJob s cid f).tier2 = s.tier2 := by unfold updJob; split <;> rfl
@[simp] theorem updJob_tier2Tags (cid : Cid) (f : Job → Job) : (updJob s cid f).tier2Tags = s.tier2Tags := by unfold updJob; split <;> rfl
@[simp] theorem updJob_window (cid : Cid) (f : Job → Job) : (updJob s cid f).window = s.window := by unfold updJob; split <;> rfl
@[simp] theorem updJob_hostMem (cid : Cid) (f : Job → Job) : (updJob s cid f).hostMem = s.hostMem := by unfold updJob; split <;> rfl
@[simp] theorem updJob_hostBus (cid : Cid) (f : Job → Job) : (updJob s cid f).hostBus = s.hostBus := by unfold updJob; split <;> rfl
@[simp] theorem updJob_hostLines (cid : Cid) (f : Job → Job) : (updJob s cid f).hostLines = s.hostLines := by unfold updJob; split <;> rfl
@[simp] theorem updJob_pendStores (cid : Cid) (f : Job → Job) : (updJob s cid f).pendStores = s.pendStores := by unfold updJob; split <;> rfl
@[simp] theorem updJob_clusters (cid : Cid) (f : Job → Job) : (updJob s cid f).clusters = s.clusters := by unfold updJob; split <;> rfl
@[simp] theorem updJob_quadcap (cid : Cid) (f : Job → Job) : (updJob s cid f).quadcap = s.quadcap := by unfold updJob; split <;> rfl
@[simp] theorem updJob_vdevs (cid : Cid) (f : Job → Job) : (updJob s cid f).vdevs = s.vdevs := by unfold updJob; split <;> rfl
@[simp] theorem updJob_rings (cid : Cid) (f : Job → Job) : (updJob s cid f).rings = s.rings := by unfold updJob; split <;> rfl
@[simp] theorem updJob_hoop (cid : Cid) (f : Job → Job) : (updJob s cid f).hoop = s.hoop := by unfold updJob; split <;> rfl
@[simp] theorem updJob_hoopAt (cid : Cid) (f : Job → Job) : (updJob s cid f).hoopAt = s.hoopAt := by unfold updJob; split <;> rfl
@[simp] theorem updJob_records (cid : Cid) (f : Job → Job) : (updJob s cid f).records = s.records := by unfold updJob; split <;> rfl
@[simp] theorem updJob_contexts (cid : Cid) (f : Job → Job) : (updJob s cid f).contexts = s.contexts := by unfold updJob; split <;> rfl
@[simp] theorem updJob_motifs (cid : Cid) (f : Job → Job) : (updJob s cid f).motifs = s.motifs := by unfold updJob; split <;> rfl
@[simp] theorem updJob_nextUid (cid : Cid) (f : Job → Job) : (updJob s cid f).nextUid = s.nextUid := by unfold updJob; split <;> rfl
@[simp] theorem updJob_faults (cid : Cid) (f : Job → Job) : (updJob s cid f).faults = s.faults := by unfold updJob; split <;> rfl
@[simp] theorem updJob_nextTag (cid : Cid) (f : Job → Job) : (updJob s cid f).nextTag = s.nextTag := by unfold updJob; split <;> rfl
@[simp] theorem updJob_ats (cid : Cid) (f : Job → Job) : (updJob s cid f).ats = s.ats := by unfold updJob; split <;> rfl
@[simp] theorem updJob_pri (cid : Cid) (f : Job → Job) : (updJob s cid f).pri = s.pri := by unfold updJob; split <;> rfl
@[simp] theorem updJob_hostTlbSuccess (cid : Cid) (f : Job → Job) : (updJob s cid f).hostTlbSuccess = s.hostTlbSuccess := by unfold updJob; split <;> rfl
@[simp] theorem updJob_hostRefused (cid : Cid) (f : Job → Job) : (updJob s cid f).hostRefused = s.hostRefused := by unfold updJob; split <;> rfl
@[simp] theorem updJob_walkCaches (cid : Cid) (f : Job → Job) : (updJob s cid f).walkCaches = s.walkCaches := by unfold updJob; split <;> rfl
@[simp] theorem updJob_firstRead (cid : Cid) (f : Job → Job) : (updJob s cid f).firstRead = s.firstRead := by unfold updJob; split <;> rfl
@[simp] theorem updJob_invs (cid : Cid) (f : Job → Job) : (updJob s cid f).invs = s.invs := by unfold updJob; split <;> rfl
@[simp] theorem updJob_images (cid : Cid) (f : Job → Job) : (updJob s cid f).images = s.images := by unfold updJob; split <;> rfl
@[simp] theorem updJob_restores (cid : Cid) (f : Job → Job) : (updJob s cid f).restores = s.restores := by unfold updJob; split <;> rfl
@[simp] theorem updJob_requests (cid : Cid) (f : Job → Job) : (updJob s cid f).requests = s.requests := by unfold updJob; split <;> rfl
@[simp] theorem updJob_rxHeld (cid : Cid) (f : Job → Job) : (updJob s cid f).rxHeld = s.rxHeld := by unfold updJob; split <;> rfl
@[simp] theorem updJob_rxFailed (cid : Cid) (f : Job → Job) : (updJob s cid f).rxFailed = s.rxFailed := by unfold updJob; split <;> rfl
@[simp] theorem updJob_nextRtag (cid : Cid) (f : Job → Job) : (updJob s cid f).nextRtag = s.nextRtag := by unfold updJob; split <;> rfl
@[simp] theorem updJob_links (cid : Cid) (f : Job → Job) : (updJob s cid f).links = s.links := by unfold updJob; split <;> rfl
@[simp] theorem updJob_arbiters (cid : Cid) (f : Job → Job) : (updJob s cid f).arbiters = s.arbiters := by unfold updJob; split <;> rfl
@[simp] theorem updJob_published (cid : Cid) (f : Job → Job) : (updJob s cid f).published = s.published := by unfold updJob; split <;> rfl
@[simp] theorem updJob_pfAccepted (cid : Cid) (f : Job → Job) : (updJob s cid f).pfAccepted = s.pfAccepted := by unfold updJob; split <;> rfl
@[simp] theorem updJob_pfAllowed (cid : Cid) (f : Job → Job) : (updJob s cid f).pfAllowed = s.pfAllowed := by unfold updJob; split <;> rfl
@[simp] theorem updJob_weights (cid : Cid) (f : Job → Job) : (updJob s cid f).weights = s.weights := by unfold updJob; split <;> rfl
@[simp] theorem updJob_commit (cid : Cid) (f : Job → Job) : (updJob s cid f).commit = s.commit := by unfold updJob; split <;> rfl
@[simp] theorem updJob_ifst (cid : Cid) (f : Job → Job) : (updJob s cid f).ifst = s.ifst := by unfold updJob; split <;> rfl
@[simp] theorem updJob_s2faultq (cid : Cid) (f : Job → Job) : (updJob s cid f).s2faultq = s.s2faultq := by unfold updJob; split <;> rfl
@[simp] theorem updJob_syslog (cid : Cid) (f : Job → Job) : (updJob s cid f).syslog = s.syslog := by unfold updJob; split <;> rfl
@[simp] theorem updJob_recovery (cid : Cid) (f : Job → Job) : (updJob s cid f).recovery = s.recovery := by unfold updJob; split <;> rfl
@[simp] theorem updJob_recoveryAddr (cid : Cid) (f : Job → Job) : (updJob s cid f).recoveryAddr = s.recoveryAddr := by unfold updJob; split <;> rfl
@[simp] theorem updJob_recoveryLen (cid : Cid) (f : Job → Job) : (updJob s cid f).recoveryLen = s.recoveryLen := by unfold updJob; split <;> rfl
@[simp] theorem updJob_recoveryStatus (cid : Cid) (f : Job → Job) : (updJob s cid f).recoveryStatus = s.recoveryStatus := by unfold updJob; split <;> rfl
@[simp] theorem updJob_svn (cid : Cid) (f : Job → Job) : (updJob s cid f).svn = s.svn := by unfold updJob; split <;> rfl
@[simp] theorem updJob_svnFloor (cid : Cid) (f : Job → Job) : (updJob s cid f).svnFloor = s.svnFloor := by unfold updJob; split <;> rfl
@[simp] theorem updJob_revoked (cid : Cid) (f : Job → Job) : (updJob s cid f).revoked = s.revoked := by unfold updJob; split <;> rfl
@[simp] theorem updJob_digests (cid : Cid) (f : Job → Job) : (updJob s cid f).digests = s.digests := by unfold updJob; split <;> rfl
@[simp] theorem updJob_lmsIndex (cid : Cid) (f : Job → Job) : (updJob s cid f).lmsIndex = s.lmsIndex := by unfold updJob; split <;> rfl
@[simp] theorem updJob_heldDies (cid : Cid) (f : Job → Job) : (updJob s cid f).heldDies = s.heldDies := by unfold updJob; split <;> rfl
@[simp] theorem updJob_hotDies (cid : Cid) (f : Job → Job) : (updJob s cid f).hotDies = s.hotDies := by unfold updJob; split <;> rfl
@[simp] theorem updJob_unitLanes (cid : Cid) (f : Job → Job) : (updJob s cid f).unitLanes = s.unitLanes := by unfold updJob; split <;> rfl
@[simp] theorem updJob_dies (cid : Cid) (f : Job → Job) : (updJob s cid f).dies = s.dies := by unfold updJob; split <;> rfl
@[simp] theorem updJob_out (cid : Cid) (f : Job → Job) : (updJob s cid f).out = s.out := by unfold updJob; split <;> rfl
@[simp] theorem updJob_agenda (cid : Cid) (f : Job → Job) : (updJob s cid f).agenda = s.agenda := by unfold updJob; split <;> rfl
@[simp] theorem updJob_cur (cid : Cid) (f : Job → Job) : (updJob s cid f).cur = s.cur := by unfold updJob; split <;> rfl
@[simp] theorem updJob_weak (cid : Cid) (f : Job → Job) : (updJob s cid f).weak = s.weak := by unfold updJob; split <;> rfl
@[simp] theorem updJob_free (cid : Cid) (f : Job → Job) : (updJob s cid f).free = s.free := by unfold updJob; split <;> rfl
@[simp] theorem updJob_turnNo (cid : Cid) (f : Job → Job) : (updJob s cid f).turnNo = s.turnNo := by unfold updJob; split <;> rfl

/-! send leaves every field but out. -/

@[simp] theorem send_clock (o : Out) : (send s o).clock = s.clock := rfl
@[simp] theorem send_wallBase (o : Out) : (send s o).wallBase = s.wallBase := rfl
@[simp] theorem send_mem (o : Out) : (send s o).mem = s.mem := rfl
@[simp] theorem send_tags (o : Out) : (send s o).tags = s.tags := rfl
@[simp] theorem send_latent (o : Out) : (send s o).latent = s.latent := rfl
@[simp] theorem send_granules (o : Out) : (send s o).granules = s.granules := rfl
@[simp] theorem send_tier2Granules (o : Out) : (send s o).tier2Granules = s.tier2Granules := rfl
@[simp] theorem send_frames (o : Out) : (send s o).frames = s.frames := rfl
@[simp] theorem send_tier2 (o : Out) : (send s o).tier2 = s.tier2 := rfl
@[simp] theorem send_tier2Tags (o : Out) : (send s o).tier2Tags = s.tier2Tags := rfl
@[simp] theorem send_window (o : Out) : (send s o).window = s.window := rfl
@[simp] theorem send_hostMem (o : Out) : (send s o).hostMem = s.hostMem := rfl
@[simp] theorem send_hostBus (o : Out) : (send s o).hostBus = s.hostBus := rfl
@[simp] theorem send_hostLines (o : Out) : (send s o).hostLines = s.hostLines := rfl
@[simp] theorem send_pendStores (o : Out) : (send s o).pendStores = s.pendStores := rfl
@[simp] theorem send_clusters (o : Out) : (send s o).clusters = s.clusters := rfl
@[simp] theorem send_quadcap (o : Out) : (send s o).quadcap = s.quadcap := rfl
@[simp] theorem send_vdevs (o : Out) : (send s o).vdevs = s.vdevs := rfl
@[simp] theorem send_rings (o : Out) : (send s o).rings = s.rings := rfl
@[simp] theorem send_hoop (o : Out) : (send s o).hoop = s.hoop := rfl
@[simp] theorem send_hoopAt (o : Out) : (send s o).hoopAt = s.hoopAt := rfl
@[simp] theorem send_records (o : Out) : (send s o).records = s.records := rfl
@[simp] theorem send_contexts (o : Out) : (send s o).contexts = s.contexts := rfl
@[simp] theorem send_motifs (o : Out) : (send s o).motifs = s.motifs := rfl
@[simp] theorem send_nextUid (o : Out) : (send s o).nextUid = s.nextUid := rfl
@[simp] theorem send_faults (o : Out) : (send s o).faults = s.faults := rfl
@[simp] theorem send_nextTag (o : Out) : (send s o).nextTag = s.nextTag := rfl
@[simp] theorem send_ats (o : Out) : (send s o).ats = s.ats := rfl
@[simp] theorem send_pri (o : Out) : (send s o).pri = s.pri := rfl
@[simp] theorem send_hostTlbSuccess (o : Out) : (send s o).hostTlbSuccess = s.hostTlbSuccess := rfl
@[simp] theorem send_hostRefused (o : Out) : (send s o).hostRefused = s.hostRefused := rfl
@[simp] theorem send_walkCaches (o : Out) : (send s o).walkCaches = s.walkCaches := rfl
@[simp] theorem send_firstRead (o : Out) : (send s o).firstRead = s.firstRead := rfl
@[simp] theorem send_invs (o : Out) : (send s o).invs = s.invs := rfl
@[simp] theorem send_jobs (o : Out) : (send s o).jobs = s.jobs := rfl
@[simp] theorem send_images (o : Out) : (send s o).images = s.images := rfl
@[simp] theorem send_restores (o : Out) : (send s o).restores = s.restores := rfl
@[simp] theorem send_requests (o : Out) : (send s o).requests = s.requests := rfl
@[simp] theorem send_rxHeld (o : Out) : (send s o).rxHeld = s.rxHeld := rfl
@[simp] theorem send_rxFailed (o : Out) : (send s o).rxFailed = s.rxFailed := rfl
@[simp] theorem send_nextRtag (o : Out) : (send s o).nextRtag = s.nextRtag := rfl
@[simp] theorem send_links (o : Out) : (send s o).links = s.links := rfl
@[simp] theorem send_arbiters (o : Out) : (send s o).arbiters = s.arbiters := rfl
@[simp] theorem send_published (o : Out) : (send s o).published = s.published := rfl
@[simp] theorem send_pfAccepted (o : Out) : (send s o).pfAccepted = s.pfAccepted := rfl
@[simp] theorem send_pfAllowed (o : Out) : (send s o).pfAllowed = s.pfAllowed := rfl
@[simp] theorem send_weights (o : Out) : (send s o).weights = s.weights := rfl
@[simp] theorem send_commit (o : Out) : (send s o).commit = s.commit := rfl
@[simp] theorem send_ifst (o : Out) : (send s o).ifst = s.ifst := rfl
@[simp] theorem send_s2faultq (o : Out) : (send s o).s2faultq = s.s2faultq := rfl
@[simp] theorem send_syslog (o : Out) : (send s o).syslog = s.syslog := rfl
@[simp] theorem send_recovery (o : Out) : (send s o).recovery = s.recovery := rfl
@[simp] theorem send_recoveryAddr (o : Out) : (send s o).recoveryAddr = s.recoveryAddr := rfl
@[simp] theorem send_recoveryLen (o : Out) : (send s o).recoveryLen = s.recoveryLen := rfl
@[simp] theorem send_recoveryStatus (o : Out) : (send s o).recoveryStatus = s.recoveryStatus := rfl
@[simp] theorem send_svn (o : Out) : (send s o).svn = s.svn := rfl
@[simp] theorem send_svnFloor (o : Out) : (send s o).svnFloor = s.svnFloor := rfl
@[simp] theorem send_revoked (o : Out) : (send s o).revoked = s.revoked := rfl
@[simp] theorem send_digests (o : Out) : (send s o).digests = s.digests := rfl
@[simp] theorem send_lmsIndex (o : Out) : (send s o).lmsIndex = s.lmsIndex := rfl
@[simp] theorem send_heldDies (o : Out) : (send s o).heldDies = s.heldDies := rfl
@[simp] theorem send_hotDies (o : Out) : (send s o).hotDies = s.hotDies := rfl
@[simp] theorem send_unitLanes (o : Out) : (send s o).unitLanes = s.unitLanes := rfl
@[simp] theorem send_dies (o : Out) : (send s o).dies = s.dies := rfl
@[simp] theorem send_agenda (o : Out) : (send s o).agenda = s.agenda := rfl
@[simp] theorem send_cur (o : Out) : (send s o).cur = s.cur := rfl
@[simp] theorem send_weak (o : Out) : (send s o).weak = s.weak := rfl
@[simp] theorem send_free (o : Out) : (send s o).free = s.free := rfl
@[simp] theorem send_turnNo (o : Out) : (send s o).turnNo = s.turnNo := rfl

/-! charge leaves every field but vdevs. -/

@[simp] theorem charge_clock (vd idx n : Nat) : (charge s vd idx n).clock = s.clock := rfl
@[simp] theorem charge_wallBase (vd idx n : Nat) : (charge s vd idx n).wallBase = s.wallBase := rfl
@[simp] theorem charge_mem (vd idx n : Nat) : (charge s vd idx n).mem = s.mem := rfl
@[simp] theorem charge_tags (vd idx n : Nat) : (charge s vd idx n).tags = s.tags := rfl
@[simp] theorem charge_latent (vd idx n : Nat) : (charge s vd idx n).latent = s.latent := rfl
@[simp] theorem charge_granules (vd idx n : Nat) : (charge s vd idx n).granules = s.granules := rfl
@[simp] theorem charge_tier2Granules (vd idx n : Nat) : (charge s vd idx n).tier2Granules = s.tier2Granules := rfl
@[simp] theorem charge_frames (vd idx n : Nat) : (charge s vd idx n).frames = s.frames := rfl
@[simp] theorem charge_tier2 (vd idx n : Nat) : (charge s vd idx n).tier2 = s.tier2 := rfl
@[simp] theorem charge_tier2Tags (vd idx n : Nat) : (charge s vd idx n).tier2Tags = s.tier2Tags := rfl
@[simp] theorem charge_window (vd idx n : Nat) : (charge s vd idx n).window = s.window := rfl
@[simp] theorem charge_hostMem (vd idx n : Nat) : (charge s vd idx n).hostMem = s.hostMem := rfl
@[simp] theorem charge_hostBus (vd idx n : Nat) : (charge s vd idx n).hostBus = s.hostBus := rfl
@[simp] theorem charge_hostLines (vd idx n : Nat) : (charge s vd idx n).hostLines = s.hostLines := rfl
@[simp] theorem charge_pendStores (vd idx n : Nat) : (charge s vd idx n).pendStores = s.pendStores := rfl
@[simp] theorem charge_clusters (vd idx n : Nat) : (charge s vd idx n).clusters = s.clusters := rfl
@[simp] theorem charge_quadcap (vd idx n : Nat) : (charge s vd idx n).quadcap = s.quadcap := rfl
@[simp] theorem charge_rings (vd idx n : Nat) : (charge s vd idx n).rings = s.rings := rfl
@[simp] theorem charge_hoop (vd idx n : Nat) : (charge s vd idx n).hoop = s.hoop := rfl
@[simp] theorem charge_hoopAt (vd idx n : Nat) : (charge s vd idx n).hoopAt = s.hoopAt := rfl
@[simp] theorem charge_records (vd idx n : Nat) : (charge s vd idx n).records = s.records := rfl
@[simp] theorem charge_contexts (vd idx n : Nat) : (charge s vd idx n).contexts = s.contexts := rfl
@[simp] theorem charge_motifs (vd idx n : Nat) : (charge s vd idx n).motifs = s.motifs := rfl
@[simp] theorem charge_nextUid (vd idx n : Nat) : (charge s vd idx n).nextUid = s.nextUid := rfl
@[simp] theorem charge_faults (vd idx n : Nat) : (charge s vd idx n).faults = s.faults := rfl
@[simp] theorem charge_nextTag (vd idx n : Nat) : (charge s vd idx n).nextTag = s.nextTag := rfl
@[simp] theorem charge_ats (vd idx n : Nat) : (charge s vd idx n).ats = s.ats := rfl
@[simp] theorem charge_pri (vd idx n : Nat) : (charge s vd idx n).pri = s.pri := rfl
@[simp] theorem charge_hostTlbSuccess (vd idx n : Nat) : (charge s vd idx n).hostTlbSuccess = s.hostTlbSuccess := rfl
@[simp] theorem charge_hostRefused (vd idx n : Nat) : (charge s vd idx n).hostRefused = s.hostRefused := rfl
@[simp] theorem charge_walkCaches (vd idx n : Nat) : (charge s vd idx n).walkCaches = s.walkCaches := rfl
@[simp] theorem charge_firstRead (vd idx n : Nat) : (charge s vd idx n).firstRead = s.firstRead := rfl
@[simp] theorem charge_invs (vd idx n : Nat) : (charge s vd idx n).invs = s.invs := rfl
@[simp] theorem charge_jobs (vd idx n : Nat) : (charge s vd idx n).jobs = s.jobs := rfl
@[simp] theorem charge_images (vd idx n : Nat) : (charge s vd idx n).images = s.images := rfl
@[simp] theorem charge_restores (vd idx n : Nat) : (charge s vd idx n).restores = s.restores := rfl
@[simp] theorem charge_requests (vd idx n : Nat) : (charge s vd idx n).requests = s.requests := rfl
@[simp] theorem charge_rxHeld (vd idx n : Nat) : (charge s vd idx n).rxHeld = s.rxHeld := rfl
@[simp] theorem charge_rxFailed (vd idx n : Nat) : (charge s vd idx n).rxFailed = s.rxFailed := rfl
@[simp] theorem charge_nextRtag (vd idx n : Nat) : (charge s vd idx n).nextRtag = s.nextRtag := rfl
@[simp] theorem charge_links (vd idx n : Nat) : (charge s vd idx n).links = s.links := rfl
@[simp] theorem charge_arbiters (vd idx n : Nat) : (charge s vd idx n).arbiters = s.arbiters := rfl
@[simp] theorem charge_published (vd idx n : Nat) : (charge s vd idx n).published = s.published := rfl
@[simp] theorem charge_pfAccepted (vd idx n : Nat) : (charge s vd idx n).pfAccepted = s.pfAccepted := rfl
@[simp] theorem charge_pfAllowed (vd idx n : Nat) : (charge s vd idx n).pfAllowed = s.pfAllowed := rfl
@[simp] theorem charge_weights (vd idx n : Nat) : (charge s vd idx n).weights = s.weights := rfl
@[simp] theorem charge_commit (vd idx n : Nat) : (charge s vd idx n).commit = s.commit := rfl
@[simp] theorem charge_ifst (vd idx n : Nat) : (charge s vd idx n).ifst = s.ifst := rfl
@[simp] theorem charge_s2faultq (vd idx n : Nat) : (charge s vd idx n).s2faultq = s.s2faultq := rfl
@[simp] theorem charge_syslog (vd idx n : Nat) : (charge s vd idx n).syslog = s.syslog := rfl
@[simp] theorem charge_recovery (vd idx n : Nat) : (charge s vd idx n).recovery = s.recovery := rfl
@[simp] theorem charge_recoveryAddr (vd idx n : Nat) : (charge s vd idx n).recoveryAddr = s.recoveryAddr := rfl
@[simp] theorem charge_recoveryLen (vd idx n : Nat) : (charge s vd idx n).recoveryLen = s.recoveryLen := rfl
@[simp] theorem charge_recoveryStatus (vd idx n : Nat) : (charge s vd idx n).recoveryStatus = s.recoveryStatus := rfl
@[simp] theorem charge_svn (vd idx n : Nat) : (charge s vd idx n).svn = s.svn := rfl
@[simp] theorem charge_svnFloor (vd idx n : Nat) : (charge s vd idx n).svnFloor = s.svnFloor := rfl
@[simp] theorem charge_revoked (vd idx n : Nat) : (charge s vd idx n).revoked = s.revoked := rfl
@[simp] theorem charge_digests (vd idx n : Nat) : (charge s vd idx n).digests = s.digests := rfl
@[simp] theorem charge_lmsIndex (vd idx n : Nat) : (charge s vd idx n).lmsIndex = s.lmsIndex := rfl
@[simp] theorem charge_heldDies (vd idx n : Nat) : (charge s vd idx n).heldDies = s.heldDies := rfl
@[simp] theorem charge_hotDies (vd idx n : Nat) : (charge s vd idx n).hotDies = s.hotDies := rfl
@[simp] theorem charge_unitLanes (vd idx n : Nat) : (charge s vd idx n).unitLanes = s.unitLanes := rfl
@[simp] theorem charge_dies (vd idx n : Nat) : (charge s vd idx n).dies = s.dies := rfl
@[simp] theorem charge_out (vd idx n : Nat) : (charge s vd idx n).out = s.out := rfl
@[simp] theorem charge_agenda (vd idx n : Nat) : (charge s vd idx n).agenda = s.agenda := rfl
@[simp] theorem charge_cur (vd idx n : Nat) : (charge s vd idx n).cur = s.cur := rfl
@[simp] theorem charge_weak (vd idx n : Nat) : (charge s vd idx n).weak = s.weak := rfl
@[simp] theorem charge_free (vd idx n : Nat) : (charge s vd idx n).free = s.free := rfl
@[simp] theorem charge_turnNo (vd idx n : Nat) : (charge s vd idx n).turnNo = s.turnNo := rfl

/-! spend leaves every field but clock and clusters. -/

@[simp] theorem spend_wallBase (m : Motif) (n : Nat) : (spend s m n).wallBase = s.wallBase := rfl
@[simp] theorem spend_mem (m : Motif) (n : Nat) : (spend s m n).mem = s.mem := rfl
@[simp] theorem spend_tags (m : Motif) (n : Nat) : (spend s m n).tags = s.tags := rfl
@[simp] theorem spend_latent (m : Motif) (n : Nat) : (spend s m n).latent = s.latent := rfl
@[simp] theorem spend_granules (m : Motif) (n : Nat) : (spend s m n).granules = s.granules := rfl
@[simp] theorem spend_tier2Granules (m : Motif) (n : Nat) : (spend s m n).tier2Granules = s.tier2Granules := rfl
@[simp] theorem spend_frames (m : Motif) (n : Nat) : (spend s m n).frames = s.frames := rfl
@[simp] theorem spend_tier2 (m : Motif) (n : Nat) : (spend s m n).tier2 = s.tier2 := rfl
@[simp] theorem spend_tier2Tags (m : Motif) (n : Nat) : (spend s m n).tier2Tags = s.tier2Tags := rfl
@[simp] theorem spend_window (m : Motif) (n : Nat) : (spend s m n).window = s.window := rfl
@[simp] theorem spend_hostMem (m : Motif) (n : Nat) : (spend s m n).hostMem = s.hostMem := rfl
@[simp] theorem spend_hostBus (m : Motif) (n : Nat) : (spend s m n).hostBus = s.hostBus := rfl
@[simp] theorem spend_hostLines (m : Motif) (n : Nat) : (spend s m n).hostLines = s.hostLines := rfl
@[simp] theorem spend_pendStores (m : Motif) (n : Nat) : (spend s m n).pendStores = s.pendStores := rfl
@[simp] theorem spend_quadcap (m : Motif) (n : Nat) : (spend s m n).quadcap = s.quadcap := rfl
@[simp] theorem spend_vdevs (m : Motif) (n : Nat) : (spend s m n).vdevs = s.vdevs := rfl
@[simp] theorem spend_rings (m : Motif) (n : Nat) : (spend s m n).rings = s.rings := rfl
@[simp] theorem spend_hoop (m : Motif) (n : Nat) : (spend s m n).hoop = s.hoop := rfl
@[simp] theorem spend_hoopAt (m : Motif) (n : Nat) : (spend s m n).hoopAt = s.hoopAt := rfl
@[simp] theorem spend_records (m : Motif) (n : Nat) : (spend s m n).records = s.records := rfl
@[simp] theorem spend_contexts (m : Motif) (n : Nat) : (spend s m n).contexts = s.contexts := rfl
@[simp] theorem spend_motifs (m : Motif) (n : Nat) : (spend s m n).motifs = s.motifs := rfl
@[simp] theorem spend_nextUid (m : Motif) (n : Nat) : (spend s m n).nextUid = s.nextUid := rfl
@[simp] theorem spend_faults (m : Motif) (n : Nat) : (spend s m n).faults = s.faults := rfl
@[simp] theorem spend_nextTag (m : Motif) (n : Nat) : (spend s m n).nextTag = s.nextTag := rfl
@[simp] theorem spend_ats (m : Motif) (n : Nat) : (spend s m n).ats = s.ats := rfl
@[simp] theorem spend_pri (m : Motif) (n : Nat) : (spend s m n).pri = s.pri := rfl
@[simp] theorem spend_hostTlbSuccess (m : Motif) (n : Nat) : (spend s m n).hostTlbSuccess = s.hostTlbSuccess := rfl
@[simp] theorem spend_hostRefused (m : Motif) (n : Nat) : (spend s m n).hostRefused = s.hostRefused := rfl
@[simp] theorem spend_walkCaches (m : Motif) (n : Nat) : (spend s m n).walkCaches = s.walkCaches := rfl
@[simp] theorem spend_firstRead (m : Motif) (n : Nat) : (spend s m n).firstRead = s.firstRead := rfl
@[simp] theorem spend_invs (m : Motif) (n : Nat) : (spend s m n).invs = s.invs := rfl
@[simp] theorem spend_jobs (m : Motif) (n : Nat) : (spend s m n).jobs = s.jobs := rfl
@[simp] theorem spend_images (m : Motif) (n : Nat) : (spend s m n).images = s.images := rfl
@[simp] theorem spend_restores (m : Motif) (n : Nat) : (spend s m n).restores = s.restores := rfl
@[simp] theorem spend_requests (m : Motif) (n : Nat) : (spend s m n).requests = s.requests := rfl
@[simp] theorem spend_rxHeld (m : Motif) (n : Nat) : (spend s m n).rxHeld = s.rxHeld := rfl
@[simp] theorem spend_rxFailed (m : Motif) (n : Nat) : (spend s m n).rxFailed = s.rxFailed := rfl
@[simp] theorem spend_nextRtag (m : Motif) (n : Nat) : (spend s m n).nextRtag = s.nextRtag := rfl
@[simp] theorem spend_links (m : Motif) (n : Nat) : (spend s m n).links = s.links := rfl
@[simp] theorem spend_arbiters (m : Motif) (n : Nat) : (spend s m n).arbiters = s.arbiters := rfl
@[simp] theorem spend_published (m : Motif) (n : Nat) : (spend s m n).published = s.published := rfl
@[simp] theorem spend_pfAccepted (m : Motif) (n : Nat) : (spend s m n).pfAccepted = s.pfAccepted := rfl
@[simp] theorem spend_pfAllowed (m : Motif) (n : Nat) : (spend s m n).pfAllowed = s.pfAllowed := rfl
@[simp] theorem spend_weights (m : Motif) (n : Nat) : (spend s m n).weights = s.weights := rfl
@[simp] theorem spend_commit (m : Motif) (n : Nat) : (spend s m n).commit = s.commit := rfl
@[simp] theorem spend_ifst (m : Motif) (n : Nat) : (spend s m n).ifst = s.ifst := rfl
@[simp] theorem spend_s2faultq (m : Motif) (n : Nat) : (spend s m n).s2faultq = s.s2faultq := rfl
@[simp] theorem spend_syslog (m : Motif) (n : Nat) : (spend s m n).syslog = s.syslog := rfl
@[simp] theorem spend_recovery (m : Motif) (n : Nat) : (spend s m n).recovery = s.recovery := rfl
@[simp] theorem spend_recoveryAddr (m : Motif) (n : Nat) : (spend s m n).recoveryAddr = s.recoveryAddr := rfl
@[simp] theorem spend_recoveryLen (m : Motif) (n : Nat) : (spend s m n).recoveryLen = s.recoveryLen := rfl
@[simp] theorem spend_recoveryStatus (m : Motif) (n : Nat) : (spend s m n).recoveryStatus = s.recoveryStatus := rfl
@[simp] theorem spend_svn (m : Motif) (n : Nat) : (spend s m n).svn = s.svn := rfl
@[simp] theorem spend_svnFloor (m : Motif) (n : Nat) : (spend s m n).svnFloor = s.svnFloor := rfl
@[simp] theorem spend_revoked (m : Motif) (n : Nat) : (spend s m n).revoked = s.revoked := rfl
@[simp] theorem spend_digests (m : Motif) (n : Nat) : (spend s m n).digests = s.digests := rfl
@[simp] theorem spend_lmsIndex (m : Motif) (n : Nat) : (spend s m n).lmsIndex = s.lmsIndex := rfl
@[simp] theorem spend_heldDies (m : Motif) (n : Nat) : (spend s m n).heldDies = s.heldDies := rfl
@[simp] theorem spend_hotDies (m : Motif) (n : Nat) : (spend s m n).hotDies = s.hotDies := rfl
@[simp] theorem spend_unitLanes (m : Motif) (n : Nat) : (spend s m n).unitLanes = s.unitLanes := rfl
@[simp] theorem spend_dies (m : Motif) (n : Nat) : (spend s m n).dies = s.dies := rfl
@[simp] theorem spend_out (m : Motif) (n : Nat) : (spend s m n).out = s.out := rfl
@[simp] theorem spend_agenda (m : Motif) (n : Nat) : (spend s m n).agenda = s.agenda := rfl
@[simp] theorem spend_cur (m : Motif) (n : Nat) : (spend s m n).cur = s.cur := rfl
@[simp] theorem spend_weak (m : Motif) (n : Nat) : (spend s m n).weak = s.weak := rfl
@[simp] theorem spend_free (m : Motif) (n : Nat) : (spend s m n).free = s.free := rfl
@[simp] theorem spend_turnNo (m : Motif) (n : Nat) : (spend s m n).turnNo = s.turnNo := rfl

end Sys2Proof.Machine
end

