-- ==== Sys2Proof/Laws/Table.lean ====
section
/-! SUPPORT. Laws of sparse tables and byte memories: read after write, and the canonical form that every operation keeps. -/

namespace Sys2Proof.Machine

variable {α : Type}

@[simp] theorem tget_nil (d : α) (x : Nat) : tget d [] x = d := rfl

theorem tget_tdrop_same (d : α) (t : Table α) (x : Nat) : tget d (tdrop x t) x = d := by
  induction t with
  | nil => rfl
  | cons e t ih =>
    obtain ⟨k, w⟩ := e
    by_cases h : k = x
    · simpa [tdrop, h] using ih
    · simpa [tdrop, tget, h] using ih

theorem tget_tdrop_other (d : α) (t : Table α) {x y : Nat} (hxy : y ≠ x) : tget d (tdrop x t) y = tget d t y := by
  induction t with
  | nil => rfl
  | cons e t ih =>
    obtain ⟨k, w⟩ := e
    by_cases h : k = x
    · have h2 : ¬ x = y := fun e => hxy e.symm
      simpa [tdrop, tget, h, h2] using ih
    · have h4 : tdrop x ((k, w) :: t) = (k, w) :: tdrop x t := by simp [tdrop, h]
      rw [h4, tget, tget, ih]

theorem tget_tput_same (d : α) (t : Table α) (x : Nat) (v : α) (h : ∀ e ∈ t, e.1 ≠ x) : tget d (tput x v t) x = v := by
  induction t with
  | nil => simp [tput, tget]
  | cons e t ih =>
    obtain ⟨k, w⟩ := e
    have hk : k ≠ x := h (k, w) List.mem_cons_self
    by_cases h1 : x < k
    · simp [tput, tget, h1]
    · simpa [tput, tget, h1, hk] using ih fun e he => h e (List.mem_cons_of_mem _ he)

theorem tget_tput_other (d : α) (t : Table α) {x y : Nat} (v : α) (hxy : y ≠ x) : tget d (tput x v t) y = tget d t y := by
  have h2 : ¬ x = y := fun e => hxy e.symm
  induction t with
  | nil => simp [tput, tget, h2]
  | cons e t ih =>
    obtain ⟨k, w⟩ := e
    by_cases h1 : x < k
    · simp [tput, tget, h1, h2]
    · simp only [tput, h1, if_false]
      rw [tget, tget, ih]

theorem ne_of_mem_tdrop {x : Nat} {t : Table α} {e : Nat × α} (h : e ∈ tdrop x t) : e.1 ≠ x := by
  simpa using (List.mem_filter.mp h).2

/-- Reading the key that a write named gives the value written. -/
@[simp] theorem tget_tset_same [DecidableEq α] (d : α) (t : Table α) (x : Nat) (v : α) : tget d (tset d t x v) x = v := by
  unfold tset
  split
  · next h => rw [h, tget_tdrop_same]
  · exact tget_tput_same d _ x v fun e he => ne_of_mem_tdrop he

/-- Any other key reads as before. -/
@[simp] theorem tget_tset_other [DecidableEq α] (d : α) (t : Table α) {x y : Nat} (v : α) (hxy : y ≠ x) :
    tget d (tset d t x v) y = tget d t y := by
  unfold tset
  split
  · exact tget_tdrop_other d t hxy
  · rw [tget_tput_other d _ v hxy, tget_tdrop_other d t hxy]

/-- A read after a write. -/
theorem tget_tset [DecidableEq α] (d : α) (t : Table α) (x y : Nat) (v : α) :
    tget d (tset d t x v) y = if y = x then v else tget d t y := by
  by_cases h : y = x
  · simp [h]
  · simp [h]

theorem tableWfFrom_mono [DecidableEq α] (d : α) (t : Table α) {lo lo' : Nat} (h : tableWfFrom d lo t = true) (hl : lo' ≤ lo) :
    tableWfFrom d lo' t = true := by
  cases t with
  | nil => rfl
  | cons e t =>
    obtain ⟨k, w⟩ := e
    simp only [tableWfFrom, Bool.and_eq_true, decide_eq_true_eq] at h ⊢
    exact ⟨⟨by omega, h.1.2⟩, h.2⟩

theorem filter_wfFrom [DecidableEq α] (d : α) (p : Nat × α → Bool) (t : Table α) (lo : Nat) (h : tableWfFrom d lo t = true) :
    tableWfFrom d lo (t.filter p) = true := by
  induction t generalizing lo with
  | nil => rfl
  | cons e t ih =>
    obtain ⟨k, w⟩ := e
    simp only [tableWfFrom, Bool.and_eq_true, decide_eq_true_eq] at h
    by_cases hp : p (k, w)
    · simp only [List.filter_cons, hp, if_true, tableWfFrom, Bool.and_eq_true, decide_eq_true_eq]
      exact ⟨h.1, ih _ h.2⟩
    · simp only [List.filter_cons, hp]
      exact tableWfFrom_mono d _ (ih _ h.2) (by omega)

theorem tput_wfFrom [DecidableEq α] (d : α) (t : Table α) (lo x : Nat) (v : α) (h : tableWfFrom d lo t = true) (hx : lo ≤ x)
    (hv : v ≠ d) (hn : ∀ e ∈ t, e.1 ≠ x) : tableWfFrom d lo (tput x v t) = true := by
  induction t generalizing lo with
  | nil => simp [tput, tableWfFrom, hv, hx]
  | cons e t ih =>
    obtain ⟨k, w⟩ := e
    have hk : k ≠ x := hn (k, w) List.mem_cons_self
    simp only [tableWfFrom, Bool.and_eq_true, decide_eq_true_eq] at h
    by_cases h1 : x < k
    · simp only [tput, h1, if_true, tableWfFrom, Bool.and_eq_true, decide_eq_true_eq]
      exact ⟨⟨hx, hv⟩, ⟨by omega, h.1.2⟩, h.2⟩
    · simp only [tput, h1, if_false, tableWfFrom, Bool.and_eq_true, decide_eq_true_eq]
      exact ⟨h.1, ih (k + 1) h.2 (by omega) fun e he => hn e (List.mem_cons_of_mem _ he)⟩

/-- Removing entries keeps the canonical form. -/
@[simp] theorem filter_wf [DecidableEq α] (d : α) (p : Nat × α → Bool) (t : Table α) (h : tableWf d t = true) :
    tableWf d (t.filter p) = true := filter_wfFrom d p t 0 h

/-- A write keeps the canonical form. -/
@[simp] theorem tset_wf [DecidableEq α] (d : α) (t : Table α) (x : Nat) (v : α) (h : tableWf d t = true) :
    tableWf d (tset d t x v) = true := by
  unfold tset
  split
  · exact filter_wf d _ t h
  · next hv => exact tput_wfFrom d _ 0 x v (filter_wf d _ t h) (Nat.zero_le x) hv fun e he => ne_of_mem_tdrop he

/-- Several writes keep the canonical form. -/
@[simp] theorem tsetMany_wf [DecidableEq α] (d : α) (es : List (Nat × α)) (t : Table α) (h : tableWf d t = true) :
    tableWf d (tsetMany d t es) = true := by
  induction es generalizing t with
  | nil => exact h
  | cons e es ih =>
    obtain ⟨k, v⟩ := e
    exact ih _ (tset_wf d t k v h)

/-- Several writes leave every key that none of them names. -/
theorem tget_tsetMany_other [DecidableEq α] (d : α) (es : List (Nat × α)) (t : Table α) (y : Nat)
    (hy : ∀ e ∈ es, e.1 ≠ y) : tget d (tsetMany d t es) y = tget d t y := by
  induction es generalizing t with
  | nil => rfl
  | cons e es ih =>
    obtain ⟨k, v⟩ := e
    have h1 := ih (tset d t k v) (fun e he => hy e (List.mem_cons_of_mem _ he))
    have h2 : y ≠ k := fun he => hy (k, v) List.mem_cons_self he.symm
    simp only [tsetMany]
    rw [h1, tget_tset_other d t v h2]

@[simp] theorem tclear_wf [DecidableEq α] (d : α) (lo n : Nat) (t : Table α) (h : tableWf d t = true) :
    tableWf d (tclear lo n t) = true := filter_wf d _ t h

@[simp] theorem tableWf_nil [DecidableEq α] (d : α) : tableWf d ([] : Table α) = true := rfl

/-! ## Byte memories -/

@[simp] theorem memory_wf_nil : Memory.wf [] = true := rfl

@[simp] theorem readBytes_length (m : Memory) (a n : Nat) : (readBytes m a n).length = n := by
  induction n generalizing a with
  | zero => rfl
  | succ n ih => simp [readBytes, ih]

/-- Writing bytes keeps the canonical form of a memory. -/
@[simp] theorem writeBytes_wf (m : Memory) (a : Nat) (bs : List Byte) (h : Memory.wf m = true) :
    Memory.wf (writeBytes m a bs) = true := by
  induction bs generalizing m a with
  | nil => exact h
  | cons b bs ih => exact ih _ _ (tset_wf 0 m a b h)

@[simp] theorem memory_tset_wf (m : Memory) (a : Nat) (b : Byte) (h : Memory.wf m = true) :
    Memory.wf (tset 0 m a b) = true := tset_wf 0 m a b h

@[simp] theorem memory_tsetMany_wf (m : Memory) (es : List (Nat × Byte)) (h : Memory.wf m = true) :
    Memory.wf (tsetMany 0 m es) = true := tsetMany_wf 0 es m h

@[simp] theorem memory_filter_wf (m : Memory) (p : Nat × Byte → Bool) (h : Memory.wf m = true) :
    Memory.wf (m.filter p) = true := filter_wf 0 p m h

@[simp] theorem memory_tclear_wf (m : Memory) (lo n : Nat) (h : Memory.wf m = true) :
    Memory.wf (tclear lo n m) = true := tclear_wf 0 lo n m h

/-- A byte outside the bytes written reads as before. -/
theorem writeBytes_other (m : Memory) (a : Nat) (bs : List Byte) (x : Nat) (hx : x < a ∨ a + bs.length ≤ x) :
    tget 0 (writeBytes m a bs) x = tget 0 m x := by
  induction bs generalizing m a with
  | nil => rfl
  | cons b bs ih =>
    simp only [List.length_cons] at hx
    rw [writeBytes, ih _ _ (by omega), tget_tset_other 0 m b (by omega)]

/-- A byte written reads as the byte given. -/
theorem writeBytes_at (m : Memory) (a : Nat) (bs : List Byte) (i : Nat) (hi : i < bs.length) :
    tget 0 (writeBytes m a bs) (a + i) = bs[i] := by
  induction bs generalizing m a i with
  | nil => simp at hi
  | cons b bs ih =>
    cases i with
    | zero =>
      rw [writeBytes, writeBytes_other _ _ _ _ (by omega)]
      simp
    | succ i =>
      simp only [List.length_cons] at hi
      have := ih (tset 0 m a b) (a + 1) i (by omega)
      simpa [writeBytes, Nat.add_assoc, Nat.add_comm 1 i] using this

theorem readBytes_congr (m m' : Memory) (a n : Nat) (h : ∀ x, a ≤ x → x < a + n → tget 0 m x = tget 0 m' x) :
    readBytes m a n = readBytes m' a n := by
  induction n generalizing a with
  | zero => rfl
  | succ n ih =>
    rw [readBytes, readBytes, h a (by omega) (by omega), ih (a + 1) (fun x h1 h2 => h x (by omega) (by omega))]

/-- A read of bytes outside those written gives what it gave before. -/
theorem readBytes_writeBytes_other (m : Memory) (a : Nat) (bs : List Byte) (x n : Nat)
    (hx : x + n ≤ a ∨ a + bs.length ≤ x) : readBytes (writeBytes m a bs) x n = readBytes m x n :=
  readBytes_congr _ _ _ _ fun y h1 h2 => writeBytes_other m a bs y (by omega)

/-- A read of the bytes just written gives them. -/
theorem readBytes_writeBytes_same (m : Memory) (a : Nat) (bs : List Byte) :
    readBytes (writeBytes m a bs) a bs.length = bs := by
  induction bs generalizing m a with
  | nil => rfl
  | cons b bs ih =>
    have h1 : tget 0 (writeBytes m a (b :: bs)) a = b := by
      have := writeBytes_at m a (b :: bs) 0 (by simp)
      simpa using this
    rw [List.length_cons, readBytes, h1]
    congr 1
    exact ih (tset 0 m a b) (a + 1)

@[simp] theorem leBytes_length (n v : Nat) : (leBytes n v).length = n := by
  induction n generalizing v with
  | zero => rfl
  | succ n ih => simp [leBytes, ih]

/-- Reading back the little-endian bytes of a number (R5). -/
theorem leNat_leBytes (n v : Nat) : leNat (leBytes n v) = v % 2 ^ (8 * n) := by
  induction n generalizing v with
  | zero => simp [leBytes, leNat, Nat.mod_one]
  | succ n ih =>
    rw [leBytes, leNat, ih]
    have h : (2 : Nat) ^ (8 * (n + 1)) = 256 * 2 ^ (8 * n) := by rw [Nat.mul_succ, Nat.pow_add]; ring
    rw [h, Nat.mod_mul]
    simp

end Sys2Proof.Machine
end

