-- ==== Sys2Proof/Laws/Strand.lean ====
section
/-! SUPPORT. Laws of motifs and strands within the state, and of writing a strand's registers. -/

namespace Sys2Proof.Machine

/-! ## Finding and changing -/

theorem find_updFirst_same {α : Type} (p : α → Bool) (f : α → α) (h : ∀ x, p x = true → p (f x) = true) (l : List α) :
    (updFirst p f l).find? p = (l.find? p).map f := by
  induction l with
  | nil => rfl
  | cons x xs ih =>
    by_cases hp : p x = true
    · simp [updFirst, hp, h x hp]
    · simp [updFirst, hp, ih]

theorem find_updFirst_other {α : Type} (p r : α → Bool) (f : α → α) (h : ∀ x, r x = true → p x = false ∧ p (f x) = false)
    (l : List α) : (updFirst r f l).find? p = l.find? p := by
  induction l with
  | nil => rfl
  | cons x xs ih =>
    by_cases hr : r x = true
    · simp [updFirst, hr, (h x hr).1, (h x hr).2]
    · by_cases hp : p x = true
      · simp [updFirst, hr, hp]
      · simp [updFirst, hr, hp, ih]

/-- The motif changed is the motif that was there, changed. -/
theorem motifOf_updMotif_same (s : State) (uid : Nat) (f : Motif → Motif) (h : ∀ m, (f m).uid = m.uid) :
    motifOf (updMotif s uid f) uid = (motifOf s uid).map f := by
  unfold motifOf updMotif
  exact find_updFirst_same _ f (fun m hm => by simpa [h m] using hm) _

/-- Every other motif is as it was. -/
theorem motifOf_updMotif_other (s : State) (uid uid' : Nat) (f : Motif → Motif) (h : ∀ m, (f m).uid = m.uid) (hne : uid' ≠ uid) :
    motifOf (updMotif s uid f) uid' = motifOf s uid' := by
  unfold motifOf updMotif
  refine find_updFirst_other _ _ f (fun m hm => ?_) _
  have hm' : m.uid = uid := by simpa using hm
  constructor
  · simp [hm', Ne.symm hne]
  · simp [h m, hm', Ne.symm hne]

theorem motifOf_updStrand_same (s : State) (uid j : Nat) (f : Strand → Strand) :
    motifOf (updStrand s uid j f) uid =
      (motifOf s uid).map fun m => { m with strands := updFirst (fun t => t.index == j) f m.strands } :=
  motifOf_updMotif_same s uid _ fun _ => rfl

theorem motifOf_updStrand_other (s : State) (uid uid' j : Nat) (f : Strand → Strand) (hne : uid' ≠ uid) :
    motifOf (updStrand s uid j f) uid' = motifOf s uid' :=
  motifOf_updMotif_other s uid uid' _ (fun _ => rfl) hne

/-- The strand changed is the strand that was there, changed. -/
theorem strandAt_updStrand_same (s : State) (uid j : Nat) (f : Strand → Strand) (h : ∀ t, (f t).index = t.index) :
    strandAt (updStrand s uid j f) uid j = (strandAt s uid j).map f := by
  unfold strandAt
  rw [motifOf_updStrand_same]
  cases motifOf s uid with
  | none => rfl
  | some m => exact find_updFirst_same _ f (fun t ht => by simpa [h t] using ht) _

/-- Every other strand is as it was. -/
theorem strandAt_updStrand_other (s : State) (uid j uid' j' : Nat) (f : Strand → Strand) (h : ∀ t, (f t).index = t.index)
    (hne : uid' ≠ uid ∨ j' ≠ j) : strandAt (updStrand s uid j f) uid' j' = strandAt s uid' j' := by
  unfold strandAt
  by_cases hu : uid' = uid
  · subst hu
    have hj : j' ≠ j := by simpa using hne
    rw [motifOf_updStrand_same]
    cases motifOf s uid' with
    | none => rfl
    | some m =>
      refine find_updFirst_other _ _ f (fun t ht => ?_) _
      have ht' : t.index = j := by simpa using ht
      constructor
      · simp [ht', Ne.symm hj]
      · simp [h t, ht', Ne.symm hj]
  · rw [motifOf_updStrand_other s uid uid' j f hu]

/-! ## Registers -/

theorem vkey_inj {r r' l l' : Nat} (hl : l < 96) (hl' : l' < 96) : vkey r l = vkey r' l' ↔ r = r' ∧ l = l' := by
  unfold vkey; omega

@[simp] theorem wordsOf_length (n v : Nat) : (wordsOf n v).length = n := by
  induction n generalizing v with
  | zero => rfl
  | succ n ih => simp [wordsOf, ih]

theorem wordsOf_getElem (n v k : Nat) (h : k < (wordsOf n v).length) : (wordsOf n v)[k] = BitVec.ofNat 32 (v / 2 ^ (32 * k)) := by
  induction n generalizing v k with
  | zero => simp [wordsOf] at h
  | succ n ih =>
    cases k with
    | zero => simp [wordsOf]
    | succ k =>
      have h' : k < (wordsOf n (v / 2 ^ 32)).length := by simpa [wordsOf] using h
      simp only [wordsOf, List.getElem_cons_succ]
      rw [ih _ _ h', Nat.div_div_eq_div_mul, ← Nat.pow_add]
      congr 3
      omega

theorem tget_numbered {g : Nat → Nat} (hg : ∀ a b, g a = g b → a = b) (t : Table Word) (n : Nat) (ws : List Word) (x : Nat) :
    tget 0 (tsetMany 0 t ((numbered n ws).map fun e => (g e.1, e.2))) (g x) =
      if h : n ≤ x ∧ x - n < ws.length then ws[x - n]'h.2 else tget 0 t (g x) := by
  induction ws generalizing t n with
  | nil => simp [numbered, tsetMany]
  | cons w ws ih =>
    simp only [numbered, List.map_cons, tsetMany]
    rw [ih]
    by_cases h1 : n + 1 ≤ x ∧ x - (n + 1) < ws.length
    · have h2 : n ≤ x ∧ x - n < (w :: ws).length := by simp only [List.length_cons]; omega
      have h3 : x - n = (x - (n + 1)) + 1 := by omega
      simp only [h1, h2, and_self, dif_pos]
      simp only [h3, List.getElem_cons_succ]
    · rw [dif_neg h1]
      by_cases h4 : x = n
      · subst h4
        simp
      · have h5 : ¬(n ≤ x ∧ x - n < (w :: ws).length) := by simp only [List.length_cons]; omega
        rw [dif_neg h5, tget_tset_other]
        exact fun e => h4 (hg _ _ e)

theorem tget_numbered_off {g : Nat → Nat} (t : Table Word) (n : Nat) (ws : List Word) (y : Nat) (hy : ∀ a, g a ≠ y) :
    tget 0 (tsetMany 0 t ((numbered n ws).map fun e => (g e.1, e.2))) y = tget 0 t y := by
  refine tget_tsetMany_other 0 _ t y fun e he => ?_
  simp only [List.mem_map] at he
  obtain ⟨a, _, rfl⟩ := he
  exact hy a.1

/-- One lane's vector registers after a write of them, and every other as before. -/
theorem vreg_setVec (t : Strand) (r l : Nat) (ws : List Word) (r' l' : Nat) (hl : l < 96) (hl' : l' < 96) :
    (t.setVec r l ws).vreg r' l' =
      if h : l' = l ∧ r ≤ r' ∧ r' - r < ws.length then ws[r' - r]'h.2.2 else t.vreg r' l' := by
  unfold Strand.vreg Strand.setVec
  simp only
  by_cases h1 : l' = l
  · subst h1
    by_cases h2 : r ≤ r'
    · have h3 : vkey r' l' = (fun a => vkey (r + a) l') (r' - r) := by
        simp only; congr 1; omega
      rw [h3, tget_numbered (g := fun a => vkey (r + a) l')]
      · simp only [Nat.zero_le, Nat.sub_zero, true_and, h2]
      · intro a b hab
        simp only [vkey] at hab
        omega
    · rw [tget_numbered_off (g := fun a => vkey (r + a) l')]
      · simp [h2]
      · intro a hab
        simp only [vkey] at hab
        omega
  · rw [tget_numbered_off (g := fun a => vkey (r + a) l)]
    · simp [h1]
    · intro a hab
      exact h1 ((vkey_inj hl hl').mp hab).2.symm

/-- A per-lane write lane by lane: a lane of the list holds its value, any other register of any lane is as before. -/
theorem vreg_foldVec (r w : Nat) (val : Nat → List Word) (hw : ∀ l, (val l).length = w) (ls : List Nat) (hls : ∀ l ∈ ls, l < 96)
    (t : Strand) (r' l' : Nat) (hl' : l' < 96) :
    (ls.foldl (fun t l => t.setVec r l (val l)) t).vreg r' l' =
      if h : l' ∈ ls ∧ r ≤ r' ∧ r' - r < w then (val l')[r' - r]'(by rw [hw]; exact h.2.2) else t.vreg r' l' := by
  induction ls generalizing t with
  | nil => simp
  | cons a ls ih =>
    simp only [List.foldl_cons]
    rw [ih (fun l hl => hls l (List.mem_cons_of_mem _ hl))]
    by_cases h1 : l' ∈ ls ∧ r ≤ r' ∧ r' - r < w
    · have h2 : l' ∈ a :: ls ∧ r ≤ r' ∧ r' - r < w := ⟨List.mem_cons_of_mem _ h1.1, h1.2⟩
      rw [dif_pos h1, dif_pos h2]
    · rw [dif_neg h1, vreg_setVec t r a (val a) r' l' (hls a List.mem_cons_self) hl']
      by_cases h3 : l' = a ∧ r ≤ r' ∧ r' - r < (val a).length
      · obtain ⟨rfl, h4, h5⟩ := h3
        have h6 : l' ∈ l' :: ls ∧ r ≤ r' ∧ r' - r < w := ⟨List.mem_cons_self, h4, by rw [← hw l']; exact h5⟩
        rw [dif_pos ⟨rfl, h4, h5⟩, dif_pos h6]
      · rw [dif_neg h3]
        have h7 : ¬(l' ∈ a :: ls ∧ r ≤ r' ∧ r' - r < w) := by
          rintro ⟨hm, h8, h9⟩
          rcases List.mem_cons.mp hm with rfl | hm
          · exact h3 ⟨rfl, h8, by rw [hw]; exact h9⟩
          · exact h1 ⟨hm, h8, h9⟩
        rw [dif_neg h7]

theorem foldVec_rest (r : Nat) (val : Nat → List Word) (ls : List Nat) (t : Strand) :
    ls.foldl (fun t l => t.setVec r l (val l)) t =
      { t with vregs := (ls.foldl (fun t l => t.setVec r l (val l)) t).vregs } := by
  induction ls generalizing t with
  | nil => rfl
  | cons a ls ih => exact ih (t.setVec r a (val a))

@[simp] theorem mem_lanesOf (m : LaneMask) (l : Nat) : l ∈ lanesOf m ↔ l < 96 ∧ m.getLsbD l = true := by
  simp [lanesOf]

theorem vectors_eq (t : Strand) (r w lane v : Nat) (h : ∀ k < w, t.vreg (r + k) lane = BitVec.ofNat 32 (v / 2 ^ (32 * k))) :
    t.vectors r w lane = v % 2 ^ (32 * w) := by
  unfold Strand.vectors
  induction w with
  | zero => simp [Nat.mod_one]
  | succ w ih =>
    rw [List.range_succ, List.map_append, List.sum_append, ih fun k hk => h k (by omega)]
    simp only [List.map_cons, List.map_nil, List.sum_cons, List.sum_nil, Nat.add_zero]
    rw [h w (by omega), BitVec.toNat_ofNat]
    have h2 : 32 * (w + 1) = 32 * w + 32 := by omega
    rw [h2, Nat.pow_add, Nat.mod_mul]
    ring

end Sys2Proof.Machine
end

