-- ==== Sys2Proof/Laws/Issue.lean ====
section
/-! SUPPORT. Laws of the frame of a strand instruction: what a write of registers leaves, and what a register
instruction leaves when nothing stops it. -/

namespace Sys2Proof.Machine

/-! ## Scalars and masks -/

theorem find_numbered (n : Nat) (ws : List Word) (x : Nat) :
    (numbered n ws).find? (fun e => e.1 == x) = if h : n ≤ x ∧ x - n < ws.length then some (x, ws[x - n]'h.2) else none := by
  induction ws generalizing n with
  | nil => simp [numbered]
  | cons w ws ih =>
    by_cases h1 : n = x
    · subst h1; simp [numbered]
    · simp only [numbered, List.find?_cons]
      have h2 : ((n, w).1 == x) = false := by simpa using h1
      simp only [h2, ih]
      by_cases h3 : n + 1 ≤ x ∧ x - (n + 1) < ws.length
      · have h4 : n ≤ x ∧ x - n < (w :: ws).length := by simp only [List.length_cons]; omega
        have h5 : x - n = (x - (n + 1)) + 1 := by omega
        rw [dif_pos h3, dif_pos h4]
        simp only [h5, List.getElem_cons_succ]
      · have h4 : ¬(n ≤ x ∧ x - n < (w :: ws).length) := by simp only [List.length_cons]; omega
        rw [dif_neg h3, dif_neg h4]

theorem mem_numbered (n : Nat) (ws : List Word) (e : Nat × Word) (h : e ∈ numbered n ws) : n ≤ e.1 ∧ e.1 < n + ws.length := by
  induction ws generalizing n with
  | nil => simp [numbered] at h
  | cons w ws ih =>
    simp only [numbered, List.mem_cons] at h
    rcases h with rfl | h
    · simp
    · have := ih _ h
      simp only [List.length_cons]; omega

/-- A bit of the mask image of a write of some of m0 to m2. -/
theorem maskImage_bit (old : LaneMask) (n : Nat) (ws : List Word) (l : Nat) (hl : l < 96) :
    (maskImage old (numbered n ws)).getLsbD l =
      if h : n ≤ 29 + l / 32 ∧ 29 + l / 32 - n < ws.length then (ws[29 + l / 32 - n]'h.2).getLsbD (l % 32) else old.getLsbD l := by
  have hpart : ∀ i, ((((numbered n ws).find? fun e => e.1 == 29 + i).map (·.2)).getD (old.extractLsb' (32 * i) 32)).getLsbD (l % 32) =
      if h : n ≤ 29 + i ∧ 29 + i - n < ws.length then (ws[29 + i - n]'h.2).getLsbD (l % 32) else old.getLsbD (32 * i + l % 32) := by
    intro i
    rw [find_numbered]
    split
    · next h => simp
    · next h => simp [Nat.mod_lt]
  unfold maskImage
  simp only
  have h3 : l / 32 = 0 ∨ l / 32 = 1 ∨ l / 32 = 2 := by omega
  rw [BitVec.getLsbD_append]
  rcases h3 with h | h | h
  · have h1 : l < 32 := by omega
    have h2 := hpart 0
    have h4 : l % 32 = l := by omega
    rw [h4] at h2
    simp only [h1, decide_true, cond_true, h2, h, h4]
    simp
  · have h1 : ¬ l < 32 := by omega
    have h2 := hpart 1
    have h4 : l % 32 = l - 32 := by omega
    have h6 : 32 * 1 + l % 32 = l := by omega
    rw [h6] at h2
    simp only [h1, decide_false, cond_false]
    rw [BitVec.getLsbD_append]
    have h5 : l - 32 < 32 := by omega
    have h7 : l % 32 < 32 := Nat.mod_lt _ (by omega)
    simp only [h5, decide_true, cond_true, ← h4, h2, h]
    simp [h7]
  · have h1 : ¬ l < 32 := by omega
    have h2 := hpart 2
    have h4 : l % 32 = l - 32 - 32 := by omega
    have h6 : 32 * 2 + l % 32 = l := by omega
    rw [h6] at h2
    simp only [h1, decide_false, cond_false]
    rw [BitVec.getLsbD_append]
    have h5 : ¬ l - 32 < 32 := by omega
    simp only [h5, decide_false, cond_false, ← h4, h2, h]
    simp

theorem filter_numbered (n : Nat) (ws : List Word) (p : Nat → Bool) (t : Table Word) (x : Nat) (hx : p x = true) :
    tget 0 (tsetMany 0 t ((numbered n ws).filter fun e => p e.1)) x =
      if h : n ≤ x ∧ x - n < ws.length then ws[x - n]'h.2 else tget 0 t x := by
  induction ws generalizing t n with
  | nil => simp [numbered, tsetMany]
  | cons w ws ih =>
    simp only [numbered, List.filter_cons]
    by_cases hp : p n = true
    · simp only [hp, if_true, tsetMany]
      rw [ih]
      by_cases h1 : n + 1 ≤ x ∧ x - (n + 1) < ws.length
      · have h2 : n ≤ x ∧ x - n < (w :: ws).length := by simp only [List.length_cons]; omega
        have h3 : x - n = (x - (n + 1)) + 1 := by omega
        rw [dif_pos h1, dif_pos h2]
        simp only [h3, List.getElem_cons_succ]
      · rw [dif_neg h1]
        by_cases h4 : x = n
        · subst h4; simp
        · have h5 : ¬(n ≤ x ∧ x - n < (w :: ws).length) := by simp only [List.length_cons]; omega
          rw [dif_neg h5, tget_tset_other _ _ _ h4]
    · have hne : x ≠ n := fun e => hp (e ▸ hx)
      simp only [hp]
      rw [if_neg (by simp), ih]
      by_cases h1 : n + 1 ≤ x ∧ x - (n + 1) < ws.length
      · have h2 : n ≤ x ∧ x - n < (w :: ws).length := by simp only [List.length_cons]; omega
        have h3 : x - n = (x - (n + 1)) + 1 := by omega
        rw [dif_pos h1, dif_pos h2]
        simp only [h3, List.getElem_cons_succ]
      · have h5 : ¬(n ≤ x ∧ x - n < (w :: ws).length) := by simp only [List.length_cons]; omega
        rw [dif_neg h1, dif_neg h5]

/-- What a write of scalar registers leaves, when it leaves the slot a lane (R13, R14, R128). -/
theorem setScalars_spec (t t' : Strand) (members : LaneMask) (n : Nat) (ws : List Word)
    (h : t.setScalars members n ws = some t') (hpair : ¬(n = 0 ∧ ws.length = 2)) :
    (∀ x, 1 ≤ x → x ≤ 28 → tget 0 t'.sregs x =
      if h : n ≤ x ∧ x - n < ws.length then ws[x - n]'h.2 else tget 0 t.sregs x) ∧
    (∀ l < 96, t'.mask.getLsbD l =
      if h : n ≤ 29 + l / 32 ∧ 29 + l / 32 - n < ws.length then
        (if members.getLsbD l then (ws[29 + l / 32 - n]'h.2).getLsbD (l % 32) else t.mask.getLsbD l)
      else t.mask.getLsbD l) ∧
    t' = { t with sregs := t'.sregs, mask := t'.mask } ∧
    (n + ws.length ≤ 1 → t'.sregs = t.sregs) := by
  unfold Strand.setScalars at h
  rw [if_neg hpair] at h
  simp only at h
  have hregs : ∀ x, 1 ≤ x → x ≤ 28 →
      tget 0 (tsetMany 0 t.sregs ((numbered n ws).filter fun e => decide (1 ≤ e.1 ∧ e.1 ≤ 28))) x =
        if h : n ≤ x ∧ x - n < ws.length then ws[x - n]'h.2 else tget 0 t.sregs x := by
    intro x h1 h2
    exact filter_numbered n ws (fun k => decide (1 ≤ k ∧ k ≤ 28)) t.sregs x (by simp [h1, h2])
  have hnone : n + ws.length ≤ 1 → (numbered n ws).filter (fun e => decide (1 ≤ e.1 ∧ e.1 ≤ 28)) = [] := by
    intro h0
    refine List.filter_eq_nil_iff.mpr fun e he => ?_
    have := mem_numbered n ws e he
    simp; omega
  split at h
  · split at h
    · cases h
    · next hany hne =>
      cases h
      refine ⟨hregs, fun l hl => ?_, rfl, fun h0 => by show tsetMany 0 t.sregs _ = t.sregs; rw [hnone h0]; rfl⟩
      simp only [BitVec.getLsbD_or, BitVec.getLsbD_and, BitVec.getLsbD_not, maskImage_bit _ _ _ _ hl, hl, decide_true, Bool.true_and]
      split
      · next h1 => cases members.getLsbD l <;> simp
      · next h1 => cases members.getLsbD l <;> simp
  · next hany =>
    cases h
    refine ⟨hregs, fun l hl => ?_, rfl, fun h0 => by show tsetMany 0 t.sregs _ = t.sregs; rw [hnone h0]; rfl⟩
    split
    · next h1 =>
      exfalso
      apply hany
      have hf := find_numbered n ws (29 + l / 32)
      rw [dif_pos h1] at hf
      have hm := List.mem_of_find?_eq_some hf
      exact List.any_eq_true.mpr ⟨_, hm, by simp⟩
    · rfl

/-! ## A register instruction's result written to its destination -/

theorem raise_rest (t : Strand) (f : Flags) : t.raise f = { t with fflags := t.fflags ||| f.setWidth 32 } := rfl

theorem setGen_with (t : Strand) (l : Nat) (g : BitVec 24) (x : Table (BitVec 24)) :
    { t.setGen l g with gens := x } = { t with gens := x } := rfl

theorem setGens_cons (t : Strand) (l : Nat) (g : BitVec 24) (gs : List (Nat × BitVec 24)) :
    t.setGens ((l, g) :: gs) = (t.setGen l g).setGens gs := by simp only [Strand.setGens]

theorem setGens_with (gs : List (Nat × BitVec 24)) (t : Strand) : ∃ x, t.setGens gs = { t with gens := x } := by
  induction gs generalizing t with
  | nil => exact ⟨t.gens, rfl⟩
  | cons e gs ih =>
    obtain ⟨l, g⟩ := e
    obtain ⟨x, hx⟩ := ih (t.setGen l g)
    exact ⟨x, by rw [setGens_cons, hx, setGen_with]⟩

theorem setGens_rest (t : Strand) (gs : List (Nat × BitVec 24)) : t.setGens gs = { t with gens := (t.setGens gs).gens } := by
  obtain ⟨x, hx⟩ := setGens_with gs t
  rw [hx]

theorem isVector_not_scalar {r : Reg} (h : r.isVector = true) : r.isScalar = false := by
  unfold Reg.isVector at h; unfold Reg.isScalar
  simp only [decide_eq_true_eq, decide_eq_false_iff_not] at h ⊢; omega

theorem isQueue_not_vector {r : Reg} (h : r.isQueue = true) : r.isVector = false := by
  unfold Reg.isQueue at h; unfold Reg.isVector
  simp only [decide_eq_true_eq, decide_eq_false_iff_not] at h ⊢; omega

theorem isQueue_not_scalar {r : Reg} (h : r.isQueue = true) : r.isScalar = false := by
  unfold Reg.isQueue at h; unfold Reg.isScalar
  simp only [decide_eq_true_eq, decide_eq_false_iff_not] at h ⊢; omega

theorem reg_kinds (r : Reg) : r.isVector = true ∨ r.isQueue = true ∨ r.isScalar = true := by
  unfold Reg.isVector Reg.isQueue Reg.isScalar
  simp only [decide_eq_true_eq]; omega

theorem scalarNo_lt {r : Reg} (h : r.isScalar = true) : scalarNo r < 32 ∧ r.toNat = scalarNo r + 96 := by
  unfold Reg.isScalar at h; unfold scalarNo
  simp only [decide_eq_true_eq] at h
  have := r.isLt
  omega

/-- The lane values of a result: the active lanes of a per-lane run, one value of a uniform one. -/
def laneVals (q : Iss) (d : Reg) (val : Nat → Nat) (vals : List (Nat × Nat)) : Prop :=
  (d.isVector → vals = (lanesOf q.act).map fun l => (l, val l)) ∧ (d.isScalar → ∃ rest, vals = (0, val 0) :: rest) ∧
  (d.isQueue → vals = (lanesOf q.act).map fun l => (l, val l))

/-- The write of a vector destination (R12, R69, R89). -/
theorem writeVec_wrote (q : Iss) (t : Strand) (d : Reg) (w : Nat) (val : Nat → Nat) (hd : d.isVector = true)
    (hs : t.sregs = q.t.sregs) (hv : t.vregs = q.t.vregs) (hm : t.mask = q.t.mask)
    (ho : t = { q.t with fflags := t.fflags, gens := t.gens, lastPop := t.lastPop }) :
    Wrote q (t.writeVec q.act q.z (q.t.wb + d.toNat) w ((lanesOf q.act).map fun l => (l, val l))) d w val := by
  have hnscal := isVector_not_scalar hd
  have hfold : ((lanesOf q.act).map fun l => (l, val l)).foldl (fun t e => t.setVec (q.t.wb + d.toNat) e.1 (wordsOf w e.2)) t =
      (lanesOf q.act).foldl (fun t l => t.setVec (q.t.wb + d.toNat) l (wordsOf w (val l))) t := by rw [List.foldl_map]
  have hvr : ∀ r l, t.vreg r l = q.t.vreg r l := fun r l => by unfold Strand.vreg; rw [hv]
  have hact : ∀ r' l' (hl' : l' < 96),
      ((lanesOf q.act).foldl (fun t l => t.setVec (q.t.wb + d.toNat) l (wordsOf w (val l))) t).vreg r' l' =
        if h : l' ∈ lanesOf q.act ∧ q.t.wb + d.toNat ≤ r' ∧ r' - (q.t.wb + d.toNat) < w then
          (wordsOf w (val l'))[r' - (q.t.wb + d.toNat)]'(by rw [wordsOf_length]; exact h.2.2) else q.t.vreg r' l' := by
    intro r' l' hl'
    rw [vreg_foldVec _ w (fun l => wordsOf w (val l)) (fun l => wordsOf_length w (val l)) _ (fun l hl => ((mem_lanesOf _ _).mp hl).1) t r' l' hl', hvr]
  have hall : ∀ r' l', l' < 96 →
      (t.writeVec q.act q.z (q.t.wb + d.toNat) w ((lanesOf q.act).map fun l => (l, val l))).vreg r' l' =
        if q.t.wb + d.toNat ≤ r' ∧ r' - (q.t.wb + d.toNat) < w then
          (if q.act.getLsbD l' then BitVec.ofNat 32 (val l' / 2 ^ (32 * (r' - (q.t.wb + d.toNat))))
           else if q.z then 0 else q.t.vreg r' l')
        else q.t.vreg r' l' := by
    intro r' l' hl'
    unfold Strand.writeVec
    simp only [hfold]
    split
    · next hz =>
      rw [vreg_foldVec _ w (fun _ => List.replicate w 0) (fun _ => List.length_replicate)
        _ (fun l hl => by have := (List.mem_filter.mp hl).1; simpa using this) _ r' l' hl', hact r' l' hl']
      by_cases ha : q.act.getLsbD l' = true
      · by_cases hr : q.t.wb + d.toNat ≤ r' ∧ r' - (q.t.wb + d.toNat) < w
        · rw [dif_neg (by simp [ha]), dif_pos ⟨by simp [ha, hl'], hr⟩, if_pos hr, if_pos ha, wordsOf_getElem]
        · rw [dif_neg (by simp [ha]), dif_neg (fun h => hr h.2), if_neg hr]
      · by_cases hr : q.t.wb + d.toNat ≤ r' ∧ r' - (q.t.wb + d.toNat) < w
        · rw [dif_pos ⟨List.mem_filter.mpr ⟨List.mem_range.mpr hl', by rw [Bool.eq_false_iff.mpr ha]; rfl⟩, hr⟩, if_pos hr,
            if_neg ha]
          simp
        · rw [dif_neg (fun h => hr h.2), dif_neg (fun h => hr h.2), if_neg hr]
    · next hz =>
      rw [hact r' l' hl']
      by_cases ha : q.act.getLsbD l' = true
      · by_cases hr : q.t.wb + d.toNat ≤ r' ∧ r' - (q.t.wb + d.toNat) < w
        · rw [dif_pos ⟨by simp [ha, hl'], hr⟩, if_pos hr, if_pos ha, wordsOf_getElem]
        · rw [dif_neg (fun h => hr h.2), if_neg hr]
      · rw [dif_neg (by simp [ha])]
        simp [ha, hz]
  have hrest : t.writeVec q.act q.z (q.t.wb + d.toNat) w ((lanesOf q.act).map fun l => (l, val l)) =
      { t with vregs := (t.writeVec q.act q.z (q.t.wb + d.toNat) w ((lanesOf q.act).map fun l => (l, val l))).vregs } := by
    unfold Strand.writeVec
    simp only [hfold]
    split
    · rw [foldVec_rest _ (fun _ => List.replicate w 0), foldVec_rest _ (fun l => wordsOf w (val l))]
    · exact foldVec_rest _ (fun l => wordsOf w (val l)) _ t
  generalize t.writeVec q.act q.z (q.t.wb + d.toNat) w ((lanesOf q.act).map fun l => (l, val l)) = u at hall hrest
  have hsr : u.sregs = q.t.sregs := by rw [hrest]; exact hs
  have hmk : u.mask = q.t.mask := by rw [hrest]; exact hm
  constructor
  · intro _ l hl ha
    refine vectors_eq u _ w l _ fun k hk => ?_
    rw [hall _ _ hl, if_pos (by omega), if_pos ha]
    congr 3; omega
  · intro _ hz l hl ha
    have := vectors_eq u (q.t.wb + d.toNat) w l 0 fun k hk => by
      rw [hall _ _ hl, if_pos (by omega), if_neg (by simp [ha]), if_pos hz]; simp
    simpa using this
  · intro r l hl hno
    rw [hall _ _ hl]
    split
    · next hr =>
      have h1 : ¬(q.act.getLsbD l = true ∨ q.z = true) := fun h => hno ⟨hd, hr.1, by omega, h⟩
      have h2 : q.act.getLsbD l = false := by simpa using fun h => h1 (.inl h)
      have h3 : q.z = false := by simpa using fun h => h1 (.inr h)
      simp [h2, h3]
    · rfl
  · intro h; simp [hnscal] at h
  · intro h; subst h; simp [Reg.isVector] at hd
  · intro n hn _
    unfold Strand.sreg; rw [hsr, hmk]
  · intro l hl
    rw [hmk, if_neg (by simp [hnscal])]
  · rw [hrest, ho]

/-- The write of a scalar destination (R13, R14, R128). -/
theorem setScalars_wrote (q : Iss) (t u : Strand) (d : Reg) (w : Nat) (val : Nat → Nat) (hd : d.isScalar = true)
    (hs : t.sregs = q.t.sregs) (hv : t.vregs = q.t.vregs) (hm : t.mask = q.t.mask)
    (ho : t = { q.t with fflags := t.fflags, gens := t.gens, lastPop := t.lastPop })
    (h : t.setScalars q.x.members (scalarNo d) (wordsOf w (val 0)) = some u) (hw : w ≤ 4) : Wrote q u d w val := by
  have hnvec : d.isVector = false := by
    cases hv' : d.isVector
    · rfl
    · have := isVector_not_scalar hv'; simp [hd] at this
  have hno := scalarNo_lt hd
  by_cases hpair : scalarNo d = 0 ∧ (wordsOf w (val 0)).length = 2
  · have h0 := hpair.1
    have hw2 : w = 2 := by simpa using hpair.2
    have hu : u = t := by
      unfold Strand.setScalars at h
      rw [if_pos hpair] at h
      simpa using h.symm
    subst hu
    constructor
    · intro h'; simp [hnvec] at h'
    · intro h'; simp [hnvec] at h'
    · intro r l _ _; unfold Strand.vreg; rw [hv]
    · intro _ hne k hk h1 h2
      exfalso
      have : d = 96 := by apply BitVec.eq_of_toNat_eq; simp [hno.2, h0]
      exact hne this hw2
    · intro _ _; exact hs
    · intro n _ _; unfold Strand.sreg; rw [hs, hm]
    · intro l hl
      rw [hm, if_neg]
      rintro ⟨_, _, _, h4⟩
      omega
    · exact ho.trans (by rw [hs, hv, hm])
  · obtain ⟨h1, h2, h3, h4⟩ := setScalars_spec t u q.x.members (scalarNo d) _ h hpair
    have hvr : u.vregs = t.vregs := by rw [h3]
    constructor
    · intro h'; simp [hnvec] at h'
    · intro h'; simp [hnvec] at h'
    · intro r l _ _; unfold Strand.vreg; rw [hvr, hv]
    · intro _ _ k hk hk1 hk2
      have hx := h1 (scalarNo d + k) hk1 hk2
      rw [dif_pos ⟨by omega, by rw [wordsOf_length]; omega⟩, wordsOf_getElem] at hx
      unfold Strand.sreg
      rw [if_neg (by omega), if_pos hk2, hx]
      congr 3; omega
    · intro hz hw2
      have h0 : scalarNo d = 0 := by subst hz; rfl
      have hl : (wordsOf w (val 0)).length ≤ 1 := by
        rw [wordsOf_length]
        rcases Nat.lt_or_ge w 2 with h | h
        · omega
        · exact absurd ⟨h0, by rw [wordsOf_length]; omega⟩ hpair
      rw [h4 (by omega), hs]
    · intro n hn hout
      have hout' : ¬(scalarNo d ≤ n ∧ n < scalarNo d + w) := fun h => hout ⟨hd, h.1, h.2⟩
      unfold Strand.sreg
      by_cases hn0 : n = 0
      · simp [hn0]
      · by_cases hn28 : n ≤ 28
        · rw [if_neg hn0, if_neg hn0, if_pos hn28, if_pos hn28, h1 n (by omega) hn28]
          rw [dif_neg (by rw [wordsOf_length]; omega), hs]
        · rw [if_neg hn0, if_neg hn0, if_neg hn28, if_neg hn28]
          apply BitVec.eq_of_getLsbD_eq
          intro b hb
          simp only [BitVec.getLsbD_extractLsb', hb, decide_true, Bool.true_and]
          have hlt : 32 * (n - 29) + b < 96 := by omega
          rw [h2 _ hlt, hm]
          have hq : (32 * (n - 29) + b) / 32 = n - 29 := by omega
          rw [dif_neg]
          rw [hq, wordsOf_length]
          omega
    · intro l hl
      rw [h2 l hl]
      by_cases hr : scalarNo d ≤ 29 + l / 32 ∧ 29 + l / 32 < scalarNo d + w
      · rw [dif_pos ⟨hr.1, by rw [wordsOf_length]; omega⟩, wordsOf_getElem, hm]
        by_cases hmem : q.x.members.getLsbD l = true
        · rw [if_pos hmem, if_pos ⟨hd, hmem, hr⟩]
          have h5 : l % 32 < 32 := Nat.mod_lt _ (by omega)
          rw [BitVec.getLsbD_ofNat]
          simp only [h5, decide_true, Bool.true_and]
        · rw [if_neg hmem, if_neg (fun h => hmem h.2.1)]
      · rw [dif_neg (by rw [wordsOf_length]; omega), if_neg (fun h => hr h.2.2), hm]
    · rw [h3, ho]

/-- A result written to its destination, whatever its kind (R89). -/
theorem write_wrote (q : Iss) (t u : Strand) (o : RegOut) (val : Nat → Nat)
    (hs : t.sregs = q.t.sregs) (hv : t.vregs = q.t.vregs) (hm : t.mask = q.t.mask)
    (ho : t = { q.t with fflags := t.fflags, gens := t.gens, lastPop := t.lastPop }) (hw : o.width ≤ 4)
    (hvals : laneVals q o.dst val o.vals) (h : q.write t o = .ok u) : Wrote q u o.dst o.width val := by
  obtain ⟨h1, h2, h3⟩ := hvals
  unfold Iss.write at h
  rcases reg_kinds o.dst with hk | hk | hk
  · rw [if_pos hk, h1 hk] at h
    cases h
    exact writeVec_wrote q t o.dst o.width val hk hs hv hm ho
  · have hnv := isQueue_not_vector hk
    have hns := isQueue_not_scalar hk
    rw [if_neg (by simp [hnv]), if_pos hk] at h
    cases h
    constructor
    · intro h'; simp [hnv] at h'
    · intro h'; simp [hnv] at h'
    · intro r l _ _; unfold Strand.vreg; rw [hv]
    · intro h'; simp [hns] at h'
    · intro h'; rw [h'] at hns; simp [Reg.isScalar] at hns
    · intro n _ _; unfold Strand.sreg; rw [hs, hm]
    · intro l hl; rw [hm, if_neg (fun h' => by simp [hns] at h')]
    · exact ho.trans (by rw [hs, hv, hm])
  · obtain ⟨rest, hr⟩ := h2 hk
    have hnv : o.dst.isVector = false := by
      cases hv' : o.dst.isVector
      · rfl
      · have := isVector_not_scalar hv'; simp [hk] at this
    have hnq : o.dst.isQueue = false := by
      cases hv' : o.dst.isQueue
      · rfl
      · have := isQueue_not_scalar hv'; simp [hk] at this
    rw [if_neg (by simp [hnv]), if_neg (by simp [hnq]), hr] at h
    simp only at h
    split at h
    · next t' ht' =>
      cases h
      exact setScalars_wrote q t u o.dst o.width val hk hs hv hm ho ht' hw
    · cases h

theorem setScalars_isSome (t t' : Strand) (members : LaneMask) (n : Nat) (ws : List Word) (hm : t.mask = t'.mask) :
    (t.setScalars members n ws).isSome = (t'.setScalars members n ws).isSome := by
  unfold Strand.setScalars
  simp only [hm]
  split
  · rfl
  · split
    · split <;> rfl
    · rfl

theorem write_ok (q : Iss) (t : Strand) (o : RegOut) (val : Nat → Nat) (hm : t.mask = q.t.mask) (hvals : laneVals q o.dst val o.vals)
    (hkeep : o.dst.isScalar → (q.t.setScalars q.x.members (scalarNo o.dst) (wordsOf o.width (val 0))).isSome) :
    ∃ u, q.write t o = .ok u := by
  obtain ⟨h1, h2, h3⟩ := hvals
  unfold Iss.write
  rcases reg_kinds o.dst with hk | hk | hk
  · exact ⟨_, if_pos hk⟩
  · have hnv := isQueue_not_vector hk
    exact ⟨t, by rw [if_neg (by simp [hnv]), if_pos hk]⟩
  · obtain ⟨rest, hr⟩ := h2 hk
    have hnv : o.dst.isVector = false := by
      cases hv' : o.dst.isVector
      · rfl
      · have := isVector_not_scalar hv'; simp [hk] at this
    have hnq : o.dst.isQueue = false := by
      cases hv' : o.dst.isQueue
      · rfl
      · have := isQueue_not_scalar hv'; simp [hk] at this
    rw [if_neg (by simp [hnv]), if_neg (by simp [hnq]), hr]
    simp only
    have := hkeep hk
    rw [← setScalars_isSome t q.t _ _ _ hm] at this
    obtain ⟨t', ht'⟩ := Option.isSome_iff_exists.mp this
    exact ⟨t', by rw [ht']⟩

/-- A write of the destination leaves the flags, the generators and the last-pop count. -/
theorem write_keeps (q : Iss) (t u : Strand) (o : RegOut) (h : q.write t o = .ok u) :
    u.fflags = t.fflags ∧ u.gens = t.gens ∧ u.lastPop = t.lastPop := by
  unfold Iss.write at h
  split at h
  · cases h
    unfold Strand.writeVec
    have h1 := foldVec_rest (q.t.wb + o.dst.toNat)
    have hf : ∀ vals : List (Nat × Nat), ∀ t : Strand,
        vals.foldl (fun t e => t.setVec (q.t.wb + o.dst.toNat) e.1 (wordsOf o.width e.2)) t =
          { t with vregs := (vals.foldl (fun t e => t.setVec (q.t.wb + o.dst.toNat) e.1 (wordsOf o.width e.2)) t).vregs } := by
      intro vals
      induction vals with
      | nil => intro t; rfl
      | cons e es ih => intro t; exact ih (t.setVec (q.t.wb + o.dst.toNat) e.1 (wordsOf o.width e.2))
    simp only
    split
    · rw [h1 (fun _ => List.replicate o.width 0), hf]; exact ⟨rfl, rfl, rfl⟩
    · rw [hf]; exact ⟨rfl, rfl, rfl⟩
  · split at h
    · cases h; exact ⟨rfl, rfl, rfl⟩
    · split at h
      · cases h; exact ⟨rfl, rfl, rfl⟩
      · split at h
        · next t' ht' =>
          cases h
          unfold Strand.setScalars at ht'
          split at ht'
          · cases ht'; exact ⟨rfl, rfl, rfl⟩
          · simp only at ht'
            split at ht'
            · split at ht'
              · cases ht'
              · cases ht'; exact ⟨rfl, rfl, rfl⟩
            · cases ht'; exact ⟨rfl, rfl, rfl⟩
        · cases h

/-! ## A strand instruction that nothing stops -/

theorem issues_issuer {s : State} {i : Instr} {q : Iss} (h : Issues s i q) :
    ∃ q0, issuerOf s = some q0 ∧ q0.enter i = q := by
  have := h.slot
  cases hi : issuerOf s with
  | none => rw [hi] at this; cases this
  | some q0 => rw [hi] at this; exact ⟨q0, rfl, by simpa using this⟩

/-- An issue that nothing stops waits for no register of its prefix's triple. -/
theorem issues_triple {s : State} {i : Instr} {q : Iss} (h : Issues s i q) {q0 : Iss} (he : q0.enter i = q)
    {e : Option Pfx × Shape} (hsh : i.shape = some e) : tripleStop s q.t q.p = none := by
  have hp : q.p = e.1 := by rw [← he]; unfold Iss.enter; simp [hsh]
  have hs := h.status e hsh
  unfold statusStop at hs
  rw [Option.map_eq_none_iff, List.find?_eq_none] at hs
  unfold tripleStop
  rw [Option.map_eq_none_iff, List.find?_eq_none, hp]
  intro n hn
  refine hs n ?_
  unfold touchedScalars
  cases hpe : e.1 with
  | none => rw [hpe] at hn; simp at hn
  | some p =>
    rw [hpe] at hn
    simp only at hn
    simp only [List.mem_append]
    refine .inl (.inr ?_)
    split at hn
    · simp at hn
    · next hm => simp only [if_neg hm]; exact hn

/-- The frame of a strand instruction whose body answers a state: that state, the slot advanced, the issue ended. -/
theorem strandStep_ok {s s' : State} {i : Instr} {q q0 : Iss} (moves : Bool) (body : Iss → State → Except Stop State) (h : Issues s i q)
    (h0 : issuerOf s = some q0) (he : q0.enter i = q) {e : Option Pfx × Shape} (hsh : i.shape = some e) (hb : body q s = .ok s') :
    strandStep i moves body q0 s = afterIssue q e.2 (shapeUses e.1 e.2) (if moves then s' else advance q s') := by
  obtain ⟨p, sh⟩ := e
  unfold strandStep
  simp only [he, issues_triple h he hsh]
  rw [if_neg h.lanes]
  simp only [hsh, h.features, h.place _ hsh, h.operands _ hsh, h.status _ hsh, hb]

/-- The frame of a strand instruction whose body stops it. -/
theorem strandStep_error {s : State} {i : Instr} {q q0 : Iss} (moves : Bool) (body : Iss → State → Except Stop State) (h : Issues s i q)
    (h0 : issuerOf s = some q0) (he : q0.enter i = q) {e : Option Pfx × Shape} (hsh : i.shape = some e) {x : Stop} (hb : body q s = .error x) :
    strandStep i moves body q0 s = afterStop q e.2 (shapeUses e.1 e.2) s x := by
  obtain ⟨p, sh⟩ := e
  unfold strandStep
  simp only [he, issues_triple h he hsh]
  rw [if_neg h.lanes]
  simp only [hsh, h.features, h.place _ hsh, h.operands _ hsh, h.status _ hsh, hb]

/-- A strand instruction whose body answers a state completes. -/
theorem runStrand_next {s s' : State} {i : Instr} {q : Iss} (body : Iss → State → Except Stop State) (h : Issues s i q)
    (hsh : i.shape.isSome) (hb : body q s = .ok s') : runStrand i body s = .next (retire q i s') := by
  obtain ⟨q0, h0, he⟩ := issues_issuer h
  obtain ⟨e, hs⟩ := Option.isSome_iff_exists.mp hsh
  unfold runStrand
  rw [h0]
  simp only
  rw [strandStep_ok false body h h0 he hs hb]
  simp [retire, hs]

/-- Popping the queue sources changes nothing of the issue but what they gave. -/
theorem popSources_issue (us : List Use) (s : State) (q : Iss) : ∃ x, (popSources us s q).2.1 = { q with popped := x } := by
  unfold popSources
  generalize queueSources us = vs
  suffices h : ∀ (r : State × Iss × Option Nat), (∃ x, r.2.1 = { q with popped := x }) → ∃ x,
      (vs.foldl (fun r u =>
        let p := popQueue r.1 r.2.1 u.reg
        (p.1, { r.2.1 with popped := tset [] r.2.1.popped u.reg.toNat p.2.1 }, some p.2.2)) r).2.1 = { q with popped := x } from
    h (s, q, none) ⟨q.popped, rfl⟩
  induction vs with
  | nil => exact fun r h => h
  | cons u vs ih =>
    rintro ⟨s, q', n⟩ ⟨x, rfl⟩
    exact ih _ ⟨_, rfl⟩

/-- A count is known exactly when a queue source stands among the operands. -/
theorem popSources_isSome (us : List Use) (s : State) (q : Iss) :
    (popSources us s q).2.2.isSome = !(queueSources us).isEmpty := by
  unfold popSources
  generalize queueSources us = vs
  suffices h : ∀ (r : State × Iss × Option Nat),
      (vs.foldl (fun r u =>
        let p := popQueue r.1 r.2.1 u.reg
        (p.1, { r.2.1 with popped := tset [] r.2.1.popped u.reg.toNat p.2.1 }, some p.2.2)) r).2.2.isSome =
        (r.2.2.isSome || !vs.isEmpty) by simpa using h (s, q, none)
  induction vs with
  | nil => simp
  | cons u vs ih => intro r; rw [List.foldl_cons, ih]; simp

/-- A register instruction completes with its result written (R49, R89, R145). -/
theorem runReg_next {s : State} {i : Instr} {q : Iss} (f : Iss → Except Stop RegOut) (o : RegOut) (val : Nat → Nat)
    (h : Issues s i q) (hsh : i.shape.isSome) (hq : queueStops s q.m (laneCount q.act) (instrUses i) = none)
    (hf : f (sourced s q i).2 = .ok o) (hw : o.width ≤ 4) (hvals : laneVals q o.dst val o.vals)
    (htrap : q.t.arithTraps o.flags = false)
    (hkeep : o.dst.isScalar → (q.t.setScalars q.x.members (scalarNo o.dst) (wordsOf o.width (val 0))).isSome) :
    ∃ u, runReg i f s = .next (retire q i (delivered q i o.dst u (o.vals.map fun e => BitVec.ofNat 32 e.2) (sourced s q i).1)) ∧
      Wrote q u o.dst o.width val ∧ u.fflags = q.t.fflags ||| o.flags.setWidth 32 ∧
      u.gens = (q.t.setGens o.gens).gens ∧ u.lastPop = poppedCount s q i := by
  have hgr := setGens_rest q.t o.gens
  generalize hT : ({ ((q.t.setGens o.gens).raise o.flags) with lastPop := poppedCount s q i } : Strand) = T
  have hTs : T.sregs = q.t.sregs := by rw [← hT, hgr]; rfl
  have hTv : T.vregs = q.t.vregs := by rw [← hT, hgr]; rfl
  have hTm : T.mask = q.t.mask := by rw [← hT, hgr]; rfl
  have hTo : T = { q.t with fflags := T.fflags, gens := T.gens, lastPop := T.lastPop } := by rw [← hT, hgr]; rfl
  have hTf : T.fflags = q.t.fflags ||| o.flags.setWidth 32 := by rw [← hT, hgr]; rfl
  have hTg : T.gens = (q.t.setGens o.gens).gens := by rw [← hT]; rfl
  have hTp : T.lastPop = poppedCount s q i := by rw [← hT]
  obtain ⟨u, hu⟩ := write_ok q T o val hTm hvals hkeep
  have hW := write_wrote q T u o val hTs hTv hTm hTo hw hvals hu
  refine ⟨u, ?_, hW, ?_, ?_, ?_⟩
  · have hbody : regBody i f q s = .ok (delivered q i o.dst u (o.vals.map fun e => BitVec.ofNat 32 e.2) (sourced s q i).1) := by
      have hpop : (popSources (instrUses i) s q).2.2.isSome = popsQueue i := popSources_isSome _ s q
      have hiss : ∃ x, (popSources (instrUses i) s q).2.1 = { q with popped := x } := popSources_issue _ s q
      unfold regBody
      simp only [hq]
      unfold sourced at hf
      simp only at hf
      rw [hf]
      simp only
      have hT' : ({ ((q.t.setGens o.gens).raise o.flags) with
          lastPop := ((popSources (instrUses i) s q).2.2.map (BitVec.ofNat 32)).getD q.t.lastPop } : Strand) = T := hT
      rw [hT']
      have hu' : (popSources (instrUses i) s q).2.1.write T o = .ok u := by
        obtain ⟨x, hx⟩ := hiss; rw [hx]; exact hu
      rw [hu']
      simp only [htrap, Bool.false_eq_true, if_false, hpop]
      unfold delivered sourced
      split <;> rfl
    exact runStrand_next _ h hsh hbody
  · rw [(write_keeps q T u o hu).1, hTf]
  · rw [(write_keeps q T u o hu).2.1, hTg]
  · rw [(write_keeps q T u o hu).2.2, hTp]

end Sys2Proof.Machine
end

