-- ==== Sys2Proof/Laws/Compute.lean ====
section
/-! SUPPORT. From a register instruction's function to the statement that it completes with those values. -/

namespace Sys2Proof.Machine

/-- Popping the queue sources changes nothing of the issue but what they gave. -/
theorem sourced_issue (s : State) (q : Iss) (i : Instr) : ∃ x, (sourced s q i).2 = { q with popped := x } :=
  popSources_issue _ s q

@[simp] theorem sourced_act (s : State) (q : Iss) (i : Instr) : (sourced s q i).2.act = q.act := by
  obtain ⟨x, h⟩ := sourced_issue s q i; rw [h]

@[simp] theorem sourced_t (s : State) (q : Iss) (i : Instr) : (sourced s q i).2.t = q.t := by
  obtain ⟨x, h⟩ := sourced_issue s q i; rw [h]

@[simp] theorem sourced_m (s : State) (q : Iss) (i : Instr) : (sourced s q i).2.m = q.m := by
  obtain ⟨x, h⟩ := sourced_issue s q i; rw [h]

@[simp] theorem sourced_x (s : State) (q : Iss) (i : Instr) : (sourced s q i).2.x = q.x := by
  obtain ⟨x, h⟩ := sourced_issue s q i; rw [h]

@[simp] theorem sourced_p (s : State) (q : Iss) (i : Instr) : (sourced s q i).2.p = q.p := by
  obtain ⟨x, h⟩ := sourced_issue s q i; rw [h]

@[simp] theorem sourced_next (s : State) (q : Iss) (i : Instr) : (sourced s q i).2.next = q.next := by
  obtain ⟨x, h⟩ := sourced_issue s q i; rw [h]

@[simp] theorem sourced_pc (s : State) (q : Iss) (i : Instr) : (sourced s q i).2.pc = q.pc := by
  obtain ⟨x, h⟩ := sourced_issue s q i; rw [h]

/-- With no queue among the sources nothing is popped. -/
theorem sourced_none (s : State) (q : Iss) (i : Instr) (h : popsQueue i = false) : sourced s q i = (s, q) := by
  have h' : queueSources (instrUses i) = [] := by simpa [popsQueue] using h
  simp [sourced, popSources, h']

theorem perLaneReg_of_not_scalar {r : Reg} (h : r.isScalar = false) : perLaneReg r = true := by
  unfold perLaneReg
  rcases reg_kinds r with h1 | h1 | h1
  · simp [h1]
  · simp [h1]
  · rw [h] at h1; cases h1

theorem not_perLaneReg_of_scalar {r : Reg} (h : r.isScalar = true) : perLaneReg r = false := by
  cases h1 : perLaneReg r
  · rfl
  · unfold perLaneReg at h1
    rw [Bool.or_eq_true] at h1
    rcases h1 with h1 | h1
    · have := isVector_not_scalar h1; simp [h] at this
    · have := isQueue_not_scalar h1; simp [h] at this

/-- A destination that is not scalar makes an instruction run per lane (R23, R87). -/
theorem runsPerLane_of_dest {i : Instr} {u : Use} (hu : u ∈ instrUses i) (h : u.reg.isScalar = false) : runsPerLane i = true :=
  List.any_eq_true.mpr ⟨u, hu, perLaneReg_of_not_scalar h⟩

/-- A scalar destination makes an instruction run once, since a vector or queue source beside it is an operand trap
(R23, R92, R145). -/
theorem runsOnce_of_dest {s : State} {i : Instr} {q : Iss} (h : Issues s i q) {e : Option Pfx × Shape} (hsh : i.shape = some e)
    {u : Use} (hu : u ∈ instrUses i) (hw : u.write = true) (hs : u.reg.isScalar = true)
    (hall : ∀ v ∈ instrUses i, v.write = true → v.reg = u.reg) (hop : scalarFromVector e.2.op = false) : runsPerLane i = false := by
  obtain ⟨p, sh⟩ := e
  have hstop := h.operands _ hsh
  have huses : instrUses i = shapeUses p sh := by unfold instrUses; rw [hsh]
  rw [huses] at hu hall
  unfold runsPerLane
  rw [huses]
  cases hany : (shapeUses p sh).any fun u => perLaneReg u.reg
  · rfl
  · exfalso
    obtain ⟨v, hv, hvp⟩ := List.any_eq_true.mp hany
    have hvw : v.write = false := by
      cases hvw : v.write
      · rfl
      · have := hall v hv hvw
        rw [this, not_perLaneReg_of_scalar hs] at hvp; cases hvp
    unfold operandStop at hstop
    simp only at hop hstop
    split at hstop
    · cases hstop
    · split at hstop
      · cases hstop
      · rw [Option.map_eq_none_iff] at hstop
        unfold scalarClash at hstop
        have := List.find?_eq_none.mp hstop u hu
        apply this
        rw [hw, hs]
        simp only [Bool.true_and]
        refine List.any_eq_true.mpr ⟨v, hv, ?_⟩
        rw [hvw, hop]
        unfold perLaneReg at hvp
        rw [Bool.or_comm] at hvp
        simpa using hvp

/-- The lanes that an instruction computes are those its destination takes. -/
theorem laneMap_vals {s : State} {i : Instr} {q : Iss} (h : Issues s i q) {e : Option Pfx × Shape} (hsh : i.shape = some e) (d : Reg)
    {u : Use} (hu : u ∈ instrUses i) (hw : u.write = true) (hd : u.reg = d)
    (hall : ∀ v ∈ instrUses i, v.write = true → v.reg = u.reg) (hop : scalarFromVector e.2.op = false) (val : Nat → Nat) :
    laneVals q d val ((q.lanes i).map fun l => (l, val l)) ∧
      (d.isQueue = true → ((q.lanes i).map fun l => (l, val l)).map (fun e => BitVec.ofNat 32 e.2) =
        (lanesOf q.act).map fun l => BitVec.ofNat 32 (val l)) := by
  subst hd
  have hper : u.reg.isScalar = false → (q.lanes i) = lanesOf q.act := fun hs => by
    unfold Iss.lanes; rw [runsPerLane_of_dest hu hs]; rfl
  refine ⟨⟨fun hv => ?_, fun hs => ?_, fun hq => ?_⟩, fun hq => ?_⟩
  · rw [hper (isVector_not_scalar hv)]
  · have : q.lanes i = [0] := by unfold Iss.lanes; rw [runsOnce_of_dest h hsh hu hw hs hall hop]; rfl
    rw [this]; exact ⟨[], rfl⟩
  · rw [hper (isQueue_not_scalar hq)]
  · rw [hper (isQueue_not_scalar hq), List.map_map]; rfl

/-- What a register instruction's function has to answer for the instruction to complete with given values. -/
def Answers (i : Instr) (f : Iss → Except Stop RegOut) (d : Reg) (w : Nat) (val : Iss → Nat → Nat) (flags : Iss → Flags)
    (gens : Iss → List (Nat × BitVec 24)) : Prop :=
  ∀ s q, Issues s i q → ∃ vals r,
    f (sourced s q i).2 =
      .ok { dst := d, width := w, vals := vals, flags := flags (sourced s q i).2, gens := gens (sourced s q i).2, field := r } ∧
      laneVals q d (val (sourced s q i).2) vals ∧
      (d.isQueue = true → vals.map (fun e => BitVec.ofNat 32 e.2) =
        (lanesOf q.act).map fun l => BitVec.ofNat 32 (val (sourced s q i).2 l))

/-- A register instruction completes with the values its function answers. -/
theorem computes_of_answers {i : Instr} {f : Iss → Except Stop RegOut} {d : Reg} {w : Nat} {val : Iss → Nat → Nat}
    {flags : Iss → Flags} {gens : Iss → List (Nat × BitVec 24)} (hx : ∀ s, exec i s = runReg i f s) (hsh : i.shape.isSome)
    (hw : w ≤ 4) (h : Answers i f d w val flags gens) : Computes i d w val flags gens := by
  intro s q hi hq r htrap hkeep
  obtain ⟨vals, r', hf, hvals, hpush⟩ := h s q hi
  obtain ⟨u, hrun, hrest⟩ := runReg_next f _ (val r) hi hsh hq hf hw hvals htrap hkeep
  refine ⟨u, ?_, hrest⟩
  rw [hx, hrun]
  unfold delivered
  by_cases hd : d.isQueue = true
  · simp only [hd, if_true, hpush hd]; rfl
  · simp only [hd]; rfl

/-- A lane by lane function that raises no flag answers its values. -/
theorem answers_laneMap {i : Instr} {d : Reg} {w : Nat} {val : Iss → Nat → Nat} {e : Option Pfx × Shape} (hsh : i.shape = some e)
    {u : Use} (hu : u ∈ instrUses i) (hw : u.write = true) (hd : u.reg = d)
    (hall : ∀ v ∈ instrUses i, v.write = true → v.reg = u.reg) (hop : scalarFromVector e.2.op = false) :
    Answers i (fun q => laneMap q i d w (val q)) d w val (fun _ => 0) (fun _ => []) := by
  intro s q hi
  have hl : (sourced s q i).2.lanes i = q.lanes i := by unfold Iss.lanes; rw [sourced_act]
  obtain ⟨h1, h2⟩ := laneMap_vals hi hsh d hu hw hd hall hop (val (sourced s q i).2)
  exact ⟨_, d, by unfold laneMap; simp only [hl], h1, h2⟩

theorem mod_split (c d v v' : Nat) (hc : 0 < c) (h : v % (c * d) = v' % (c * d)) : v % c = v' % c ∧ v / c % d = v' / c % d := by
  have h1 : v % c = v' % c := by rw [← Nat.mod_mul_right_mod v c d, ← Nat.mod_mul_right_mod v' c d, h]
  refine ⟨h1, ?_⟩
  rw [Nat.mod_mul, Nat.mod_mul, h1] at h
  exact Nat.eq_of_mul_eq_mul_left hc (Nat.add_left_cancel h)

theorem wordsOf_mod (w v v' : Nat) (h : v % 2 ^ (32 * w) = v' % 2 ^ (32 * w)) : wordsOf w v = wordsOf w v' := by
  induction w generalizing v v' with
  | zero => rfl
  | succ w ih =>
    rw [show 32 * (w + 1) = 32 + 32 * w by omega, Nat.pow_add] at h
    obtain ⟨h2, h3⟩ := mod_split _ _ _ _ (Nat.two_pow_pos 32) h
    rw [wordsOf, wordsOf, ih _ _ h3]
    congr 1
    apply BitVec.eq_of_toNat_eq
    rw [BitVec.toNat_ofNat, BitVec.toNat_ofNat, h2]

theorem bit_of_word {v v' : Nat} (h : BitVec.ofNat 32 v = BitVec.ofNat 32 v') {b : Nat} (hb : b < 32) : v.testBit b = v'.testBit b := by
  have := congrArg (fun x : BitVec 32 => x.getLsbD b) h
  rw [BitVec.getLsbD_ofNat, BitVec.getLsbD_ofNat] at this
  simpa [hb] using this

theorem word_eq_of_mod {w v v' k : Nat} (h : v % 2 ^ (32 * w) = v' % 2 ^ (32 * w)) (hk : k < w) :
    BitVec.ofNat 32 (v / 2 ^ (32 * k)) = BitVec.ofNat 32 (v' / 2 ^ (32 * k)) := by
  have h1 := wordsOf_mod w v v' h
  have h2 : k < (wordsOf w v).length := by rw [wordsOf_length]; exact hk
  have h3 : k < (wordsOf w v').length := by rw [wordsOf_length]; exact hk
  rw [← wordsOf_getElem w v k h2, ← wordsOf_getElem w v' k h3]
  simp only [h1]

/-- Only the bits that a destination holds of a value count. -/
theorem Computes_congr {i : Instr} {d : Reg} {w : Nat} {val val' : Iss → Nat → Nat} {flags : Iss → Flags}
    {gens : Iss → List (Nat × BitVec 24)} (hw : 1 ≤ w)
    (h : ∀ s q, Issues s i q → ∀ l, val (sourced s q i).2 l % 2 ^ (32 * w) = val' (sourced s q i).2 l % 2 ^ (32 * w))
    (hc : Computes i d w val flags gens) : Computes i d w val' flags gens := by
  intro s q hi hq r htrap hkeep
  have hh := h s q hi
  obtain ⟨u, hrun, hW, hrest⟩ := hc s q hi hq htrap (fun hs => by rw [wordsOf_mod w _ _ (hh 0)]; exact hkeep hs)
  refine ⟨u, ?_, ?_, hrest⟩
  · have hl : ((lanesOf q.act).map fun l => BitVec.ofNat 32 (val r l)) = (lanesOf q.act).map fun l => BitVec.ofNat 32 (val' r l) := by
      refine List.map_congr_left fun l _ => ?_
      simpa using word_eq_of_mod (hh l) (k := 0) (by omega)
    rw [hrun, ← hl]
  · constructor
    · intro hd l hl ha; rw [hW.vector hd l hl ha, hh]
    · exact hW.zeroed
    · exact hW.otherVectors
    · intro hd hp k hk h1 h2; rw [hW.scalar hd hp k hk h1 h2, word_eq_of_mod (hh 0) hk]
    · exact hW.zero
    · exact hW.otherScalars
    · intro l hl
      rw [hW.masks l hl]
      split
      · next hc =>
        exact bit_of_word (word_eq_of_mod (hh 0) (by omega)) (Nat.mod_lt _ (by omega))
      · rfl
    · exact hW.otherwise

end Sys2Proof.Machine
end

