-- ==== Sys2Proof/Laws/PerInstr.lean ====
section
/-! SUPPORT. The encoding of each instruction, one lemma per constructor: the word that the encoder gives it is read back
by the opcode map as that instruction, every field with it (R63, R69, R73, R74). -/

namespace Sys2Proof.Laws

theorem low_field {m n : Nat} (x : BitVec m) (y : BitVec n) : (x ++ y).extractLsb' 0 n = y := by
  ext i hi; simp [BitVec.getLsbD_append, hi]

theorem skip_field {m n : Nat} (x : BitVec m) (y : BitVec n) (lo k : Nat) :
    (x ++ y).extractLsb' (n + lo) k = x.extractLsb' lo k := by
  ext i hi; simp [BitVec.getLsbD_append, Nat.add_assoc]

theorem whole_field {n : Nat} (x : BitVec n) : x.extractLsb' 0 n = x := by simp

theorem toNat_opcode (x : BitVec 8) (n : Nat) (h : x = BitVec.ofNat 8 n) : x.toNat = n % 256 := by subst h; simp

theorem bit_field (w : Word) (i : Nat) (b : Bool) (h : w.extractLsb' i 1 = BitVec.ofBool b) : w.getLsbD i = b := by
  have := congrArg (fun x => x.getLsbD 0) h
  simpa using this

/-- The opcode of the word of a shape. -/
theorem wordOp_word (s : Shape) : wordOp s.word = s.op % 256 := by
  cases s
  · exact toNat_opcode _ _ ((skip_field _ _ 17 8).trans ((skip_field _ _ 10 8).trans ((skip_field _ _ 3 8).trans ((skip_field _ _ 0 8).trans (whole_field _)))))
  · exact toNat_opcode _ _ ((skip_field _ _ 14 8).trans ((skip_field _ _ 7 8).trans ((skip_field _ _ 0 8).trans (whole_field _))))
  · exact toNat_opcode _ _ ((skip_field _ _ 17 8).trans ((skip_field _ _ 14 8).trans ((skip_field _ _ 7 8).trans ((skip_field _ _ 0 8).trans (whole_field _)))))
  · exact toNat_opcode _ _ ((skip_field _ _ 19 8).trans ((skip_field _ _ 14 8).trans ((skip_field _ _ 7 8).trans ((skip_field _ _ 0 8).trans (whole_field _)))))
  · exact toNat_opcode _ _ ((skip_field _ _ 7 8).trans ((skip_field _ _ 0 8).trans (whole_field _)))
  · exact toNat_opcode _ _ ((skip_field _ _ 10 8).trans ((skip_field _ _ 3 8).trans ((skip_field _ _ 0 8).trans (whole_field _))))
  · exact toNat_opcode _ _ ((skip_field _ _ 0 8).trans (whole_field _))
  · exact toNat_opcode _ _ ((skip_field _ _ 17 8).trans ((skip_field _ _ 10 8).trans ((skip_field _ _ 3 8).trans ((skip_field _ _ 0 8).trans (whole_field _)))))

/-- Format A read back from its word. -/
theorem FmtA.ofWord_word (op : Nat) (w : FmtA) : FmtA.ofWord (Shape.a op w).word = w := by
  have h0 : (Shape.a op w).word.extractLsb' 0 7 = w.b :=
    low_field _ _
  have h1 : (Shape.a op w).word.extractLsb' 7 7 = w.a :=
    (skip_field _ _ 0 7).trans (low_field _ _)
  have h2 : (Shape.a op w).word.extractLsb' 14 7 = w.d :=
    (skip_field _ _ 7 7).trans ((skip_field _ _ 0 7).trans (low_field _ _))
  have h3 : (Shape.a op w).word.extractLsb' 21 3 = w.fn :=
    (skip_field _ _ 14 3).trans ((skip_field _ _ 7 3).trans ((skip_field _ _ 0 3).trans (low_field _ _)))
  unfold Sys2Proof.FmtA.ofWord; rw [h0, h1, h2, h3]

/-- Format B read back from its word. -/
theorem FmtB.ofWord_word (op : Nat) (w : FmtB) : FmtB.ofWord (Shape.b op w).word = w := by
  have h0 : (Shape.b op w).word.extractLsb' 0 10 = w.imm :=
    low_field _ _
  have h1 : (Shape.b op w).word.extractLsb' 10 7 = w.a :=
    (skip_field _ _ 0 7).trans (low_field _ _)
  have h2 : (Shape.b op w).word.extractLsb' 17 7 = w.d :=
    (skip_field _ _ 7 7).trans ((skip_field _ _ 0 7).trans (low_field _ _))
  unfold Sys2Proof.FmtB.ofWord; rw [h0, h1, h2]

/-- Format BC read back from its word. -/
theorem FmtBC.ofWord_word (op : Nat) (w : FmtBC) : FmtBC.ofWord (Shape.bc op w).word = w := by
  have h0 : (Shape.bc op w).word.extractLsb' 0 7 = w.imm :=
    low_field _ _
  have h1 : (Shape.bc op w).word.extractLsb' 7 3 = w.cond :=
    (skip_field _ _ 0 3).trans (low_field _ _)
  have h2 : (Shape.bc op w).word.extractLsb' 10 7 = w.a :=
    (skip_field _ _ 3 7).trans ((skip_field _ _ 0 7).trans (low_field _ _))
  have h3 : (Shape.bc op w).word.extractLsb' 17 7 = w.d :=
    (skip_field _ _ 10 7).trans ((skip_field _ _ 7 7).trans ((skip_field _ _ 0 7).trans (low_field _ _)))
  unfold Sys2Proof.FmtBC.ofWord; rw [h0, h1, h2, h3]

/-- Format BF read back from its word. -/
theorem FmtBF.ofWord_word (op : Nat) (w : FmtBF) : FmtBF.ofWord (Shape.bf op w).word = w := by
  have h0 : (Shape.bf op w).word.extractLsb' 0 5 = w.len :=
    low_field _ _
  have h1 : (Shape.bf op w).word.extractLsb' 5 5 = w.pos :=
    (skip_field _ _ 0 5).trans (low_field _ _)
  have h2 : (Shape.bf op w).word.extractLsb' 10 7 = w.a :=
    (skip_field _ _ 5 7).trans ((skip_field _ _ 0 7).trans (low_field _ _))
  have h3 : (Shape.bf op w).word.extractLsb' 17 7 = w.d :=
    (skip_field _ _ 12 7).trans ((skip_field _ _ 7 7).trans ((skip_field _ _ 0 7).trans (low_field _ _)))
  unfold Sys2Proof.FmtBF.ofWord; rw [h0, h1, h2, h3]

/-- Format U read back from its word. -/
theorem FmtU.ofWord_word (op : Nat) (w : FmtU) : FmtU.ofWord (Shape.u op w).word = w := by
  have h0 : (Shape.u op w).word.extractLsb' 0 17 = w.imm :=
    low_field _ _
  have h1 : (Shape.u op w).word.extractLsb' 17 7 = w.d :=
    (skip_field _ _ 0 7).trans (low_field _ _)
  unfold Sys2Proof.FmtU.ofWord; rw [h0, h1]

/-- Format J read back from its word. -/
theorem FmtJ.ofWord_word (op : Nat) (w : FmtJ) : FmtJ.ofWord (Shape.j op w).word = w := by
  have h0 : (Shape.j op w).word.extractLsb' 0 14 = w.off :=
    low_field _ _
  have h1 : (Shape.j op w).word.extractLsb' 14 7 = w.a :=
    (skip_field _ _ 0 7).trans (low_field _ _)
  have h2 : (Shape.j op w).word.extractLsb' 21 3 = w.fn :=
    (skip_field _ _ 7 3).trans ((skip_field _ _ 0 3).trans (low_field _ _))
  unfold Sys2Proof.FmtJ.ofWord; rw [h0, h1, h2]

/-- Format L read back from its word. -/
theorem FmtL.ofWord_word (op : Nat) (w : FmtL) : FmtL.ofWord (Shape.l op w).word = w := by
  have h0 : (Shape.l op w).word.extractLsb' 0 24 = w.off :=
    low_field _ _
  unfold Sys2Proof.FmtL.ofWord; rw [h0]

/-- Format M read back from its word. -/
theorem FmtM.ofWord_word (op : Nat) (w : FmtM) : FmtM.ofWord (Shape.m op w).word = w := by
  have h0 : (Shape.m op w).word.extractLsb' 0 7 = w.off :=
    low_field _ _
  have h1 : (Shape.m op w).word.extractLsb' 7 7 = w.a :=
    (skip_field _ _ 0 7).trans (low_field _ _)
  have h2 : (Shape.m op w).word.extractLsb' 14 7 = w.d :=
    (skip_field _ _ 7 7).trans ((skip_field _ _ 0 7).trans (low_field _ _))
  have h3 : (Shape.m op w).word.extractLsb' 21 3 = w.w :=
    (skip_field _ _ 14 3).trans ((skip_field _ _ 7 3).trans ((skip_field _ _ 0 3).trans (low_field _ _)))
  unfold Sys2Proof.FmtM.ofWord; rw [h0, h1, h2, h3]

/-- A prefix read back from its word (R69). -/
theorem Pfx.ofWord_word (p : Pfx) : Pfx.ofWord p.word = p := by
  have h0 : p.word.extractLsb' 0 4 = p.xl :=
    low_field _ _
  have h1 : p.word.extractLsb' 4 3 = p.mod :=
    (skip_field _ _ 0 3).trans (low_field _ _)
  have h2 : p.word.getLsbD 7 = p.sat := bit_field _ _ _ (
    (skip_field _ _ 3 1).trans ((skip_field _ _ 0 1).trans (low_field _ _)))
  have h3 : p.word.getLsbD 8 = p.z := bit_field _ _ _ (
    (skip_field _ _ 4 1).trans ((skip_field _ _ 1 1).trans ((skip_field _ _ 0 1).trans (low_field _ _))))
  have h4 : p.word.extractLsb' 9 7 = p.c :=
    (skip_field _ _ 5 7).trans ((skip_field _ _ 2 7).trans ((skip_field _ _ 1 7).trans ((skip_field _ _ 0 7).trans (low_field _ _))))
  have h5 : p.word.extractLsb' 16 3 = p.rm :=
    (skip_field _ _ 12 3).trans ((skip_field _ _ 9 3).trans ((skip_field _ _ 8 3).trans ((skip_field _ _ 7 3).trans ((skip_field _ _ 0 3).trans (low_field _ _)))))
  have h6 : p.word.extractLsb' 19 5 = p.mask :=
    (skip_field _ _ 15 5).trans ((skip_field _ _ 12 5).trans ((skip_field _ _ 11 5).trans ((skip_field _ _ 10 5).trans ((skip_field _ _ 3 5).trans ((skip_field _ _ 0 5).trans (low_field _ _))))))
  unfold Sys2Proof.Pfx.ofWord; rw [h0, h1, h2, h3, h4, h5, h6]

/-- The opcode of a prefix word is 0xFF. -/
theorem Pfx.wordOp_word (p : Pfx) : wordOp p.word = 0xFF :=
  toNat_opcode _ 0xFF ((skip_field _ _ 20 8).trans ((skip_field _ _ 17 8).trans ((skip_field _ _ 16 8).trans ((skip_field _ _ 15 8).trans ((skip_field _ _ 8 8).trans ((skip_field _ _ 5 8).trans ((skip_field _ _ 0 8).trans (whole_field _))))))))

/-- What is said of each instruction that has a word: its opcode is one byte and no prefix's, the opcode map reads its word
back as the instruction, and an instruction of the sequencer's stream has no prefix (R75, R78). -/
def Encoding.Statement (i : Instr) : Prop :=
  ∀ p s, i.shape = some (p, s) → i.tinvForm = true →
    s.op < 0xFF ∧ instrOf p s.word = some i ∧ (seqOpcode s.op = true → p = none)

section

set_option maxRecDepth 4000

theorem Encoding.add (p w) : Statement (.add p w) := by
  intro _ _ h t; cases h
  exact ⟨(by decide : 0x00 < 0xFF), by unfold instrOf; rw [wordOp_word, FmtA.ofWord_word]; rfl, fun h => absurd h (by decide : ¬seqOpcode 0x00 = true)⟩

theorem Encoding.sub (p w) : Statement (.sub p w) := by
  intro _ _ h t; cases h
  exact ⟨(by decide : 0x01 < 0xFF), by unfold instrOf; rw [wordOp_word, FmtA.ofWord_word]; rfl, fun h => absurd h (by decide : ¬seqOpcode 0x01 = true)⟩

theorem Encoding.mul (p w) : Statement (.mul p w) := by
  intro _ _ h t; cases h
  exact ⟨(by decide : 0x02 < 0xFF), by unfold instrOf; rw [wordOp_word, FmtA.ofWord_word]; rfl, fun h => absurd h (by decide : ¬seqOpcode 0x02 = true)⟩

theorem Encoding.mulh (p w) : Statement (.mulh p w) := by
  intro _ _ h t; cases h
  exact ⟨(by decide : 0x03 < 0xFF), by unfold instrOf; rw [wordOp_word, FmtA.ofWord_word]; rfl, fun h => absurd h (by decide : ¬seqOpcode 0x03 = true)⟩

theorem Encoding.mad (p w) : Statement (.mad p w) := by
  intro _ _ h t; cases h
  exact ⟨(by decide : 0x04 < 0xFF), by unfold instrOf; rw [wordOp_word, FmtA.ofWord_word]; rfl, fun h => absurd h (by decide : ¬seqOpcode 0x04 = true)⟩

theorem Encoding.div (p w) : Statement (.div p w) := by
  intro _ _ h t; cases h
  exact ⟨(by decide : 0x05 < 0xFF), by unfold instrOf; rw [wordOp_word, FmtA.ofWord_word]; rfl, fun h => absurd h (by decide : ¬seqOpcode 0x05 = true)⟩

theorem Encoding.rem (p w) : Statement (.rem p w) := by
  intro _ _ h t; cases h
  exact ⟨(by decide : 0x06 < 0xFF), by unfold instrOf; rw [wordOp_word, FmtA.ofWord_word]; rfl, fun h => absurd h (by decide : ¬seqOpcode 0x06 = true)⟩

theorem Encoding.min (p w) : Statement (.min p w) := by
  intro _ _ h t; cases h
  exact ⟨(by decide : 0x07 < 0xFF), by unfold instrOf; rw [wordOp_word, FmtA.ofWord_word]; rfl, fun h => absurd h (by decide : ¬seqOpcode 0x07 = true)⟩

theorem Encoding.max (p w) : Statement (.max p w) := by
  intro _ _ h t; cases h
  exact ⟨(by decide : 0x08 < 0xFF), by unfold instrOf; rw [wordOp_word, FmtA.ofWord_word]; rfl, fun h => absurd h (by decide : ¬seqOpcode 0x08 = true)⟩

theorem Encoding.absd (p w) : Statement (.absd p w) := by
  intro _ _ h t; cases h
  exact ⟨(by decide : 0x09 < 0xFF), by unfold instrOf; rw [wordOp_word, FmtA.ofWord_word]; rfl, fun h => absurd h (by decide : ¬seqOpcode 0x09 = true)⟩

theorem Encoding.and (p w) : Statement (.and p w) := by
  intro _ _ h t; cases h
  exact ⟨(by decide : 0x0A < 0xFF), by unfold instrOf; rw [wordOp_word, FmtA.ofWord_word]; rfl, fun h => absurd h (by decide : ¬seqOpcode 0x0A = true)⟩

theorem Encoding.or (p w) : Statement (.or p w) := by
  intro _ _ h t; cases h
  exact ⟨(by decide : 0x0B < 0xFF), by unfold instrOf; rw [wordOp_word, FmtA.ofWord_word]; rfl, fun h => absurd h (by decide : ¬seqOpcode 0x0B = true)⟩

theorem Encoding.xor (p w) : Statement (.xor p w) := by
  intro _ _ h t; cases h
  exact ⟨(by decide : 0x0C < 0xFF), by unfold instrOf; rw [wordOp_word, FmtA.ofWord_word]; rfl, fun h => absurd h (by decide : ¬seqOpcode 0x0C = true)⟩

theorem Encoding.andn (p w) : Statement (.andn p w) := by
  intro _ _ h t; cases h
  exact ⟨(by decide : 0x0D < 0xFF), by unfold instrOf; rw [wordOp_word, FmtA.ofWord_word]; rfl, fun h => absurd h (by decide : ¬seqOpcode 0x0D = true)⟩

theorem Encoding.shl (p w) : Statement (.shl p w) := by
  intro _ _ h t; cases h
  exact ⟨(by decide : 0x0E < 0xFF), by unfold instrOf; rw [wordOp_word, FmtA.ofWord_word]; rfl, fun h => absurd h (by decide : ¬seqOpcode 0x0E = true)⟩

theorem Encoding.shr (p w) : Statement (.shr p w) := by
  intro _ _ h t; cases h
  exact ⟨(by decide : 0x0F < 0xFF), by unfold instrOf; rw [wordOp_word, FmtA.ofWord_word]; rfl, fun h => absurd h (by decide : ¬seqOpcode 0x0F = true)⟩

theorem Encoding.sra (p w) : Statement (.sra p w) := by
  intro _ _ h t; cases h
  exact ⟨(by decide : 0x10 < 0xFF), by unfold instrOf; rw [wordOp_word, FmtA.ofWord_word]; rfl, fun h => absurd h (by decide : ¬seqOpcode 0x10 = true)⟩

theorem Encoding.rotl (p w) : Statement (.rotl p w) := by
  intro _ _ h t; cases h
  exact ⟨(by decide : 0x11 < 0xFF), by unfold instrOf; rw [wordOp_word, FmtA.ofWord_word]; rfl, fun h => absurd h (by decide : ¬seqOpcode 0x11 = true)⟩

theorem Encoding.clz (p w) : Statement (.clz p w) := by
  intro _ _ h t; cases h
  exact ⟨(by decide : 0x12 < 0xFF), by unfold instrOf; rw [wordOp_word, FmtA.ofWord_word]; rfl, fun h => absurd h (by decide : ¬seqOpcode 0x12 = true)⟩

theorem Encoding.popc (p w) : Statement (.popc p w) := by
  intro _ _ h t; cases h
  exact ⟨(by decide : 0x13 < 0xFF), by unfold instrOf; rw [wordOp_word, FmtA.ofWord_word]; rfl, fun h => absurd h (by decide : ¬seqOpcode 0x13 = true)⟩

theorem Encoding.brev (p w) : Statement (.brev p w) := by
  intro _ _ h t; cases h
  exact ⟨(by decide : 0x14 < 0xFF), by unfold instrOf; rw [wordOp_word, FmtA.ofWord_word]; rfl, fun h => absurd h (by decide : ¬seqOpcode 0x14 = true)⟩

theorem Encoding.bfe (p w) : Statement (.bfe p w) := by
  intro _ _ h t; cases h
  exact ⟨(by decide : 0x15 < 0xFF), by unfold instrOf; rw [wordOp_word, FmtA.ofWord_word]; rfl, fun h => absurd h (by decide : ¬seqOpcode 0x15 = true)⟩

theorem Encoding.bfi (p w) : Statement (.bfi p w) := by
  intro _ _ h t; cases h
  exact ⟨(by decide : 0x16 < 0xFF), by unfold instrOf; rw [wordOp_word, FmtA.ofWord_word]; rfl, fun h => absurd h (by decide : ¬seqOpcode 0x16 = true)⟩

theorem Encoding.sel (p w) : Statement (.sel p w) := by
  intro _ _ h t; cases h
  exact ⟨(by decide : 0x17 < 0xFF), by unfold instrOf; rw [wordOp_word, FmtA.ofWord_word]; rfl, fun h => absurd h (by decide : ¬seqOpcode 0x17 = true)⟩

theorem Encoding.cmp (p w) : Statement (.cmp p w) := by
  intro _ _ h t; cases h
  exact ⟨(by decide : 0x18 < 0xFF), by unfold instrOf; rw [wordOp_word, FmtA.ofWord_word]; rfl, fun h => absurd h (by decide : ¬seqOpcode 0x18 = true)⟩

theorem Encoding.setcc (p w) : Statement (.setcc p w) := by
  intro _ _ h t; cases h
  exact ⟨(by decide : 0x19 < 0xFF), by unfold instrOf; rw [wordOp_word, FmtA.ofWord_word]; rfl, fun h => absurd h (by decide : ¬seqOpcode 0x19 = true)⟩

theorem Encoding.lea (p w) : Statement (.lea p w) := by
  intro _ _ h t; cases h
  exact ⟨(by decide : 0x1A < 0xFF), by unfold instrOf; rw [wordOp_word, FmtA.ofWord_word]; rfl, fun h => absurd h (by decide : ¬seqOpcode 0x1A = true)⟩

theorem Encoding.mov (p w) : Statement (.mov p w) := by
  intro _ _ h t; cases h
  exact ⟨(by decide : 0x1B < 0xFF), by unfold instrOf; rw [wordOp_word, FmtA.ofWord_word]; rfl, fun h => absurd h (by decide : ¬seqOpcode 0x1B = true)⟩

theorem Encoding.readlane (p w) : Statement (.readlane p w) := by
  intro _ _ h t; cases h
  exact ⟨(by decide : 0x1C < 0xFF), by unfold instrOf; rw [wordOp_word, FmtA.ofWord_word]; rfl, fun h => absurd h (by decide : ¬seqOpcode 0x1C = true)⟩

theorem Encoding.writelane (p w) : Statement (.writelane p w) := by
  intro _ _ h t; cases h
  exact ⟨(by decide : 0x1D < 0xFF), by unfold instrOf; rw [wordOp_word, FmtA.ofWord_word]; rfl, fun h => absurd h (by decide : ¬seqOpcode 0x1D = true)⟩

theorem Encoding.prmt (p w) : Statement (.prmt p w) := by
  intro _ _ h t; cases h
  exact ⟨(by decide : 0x1E < 0xFF), by unfold instrOf; rw [wordOp_word, FmtA.ofWord_word]; rfl, fun h => absurd h (by decide : ¬seqOpcode 0x1E = true)⟩

theorem Encoding.dot4 (p w) : Statement (.dot4 p w) := by
  intro _ _ h t; cases h
  exact ⟨(by decide : 0x1F < 0xFF), by unfold instrOf; rw [wordOp_word, FmtA.ofWord_word]; rfl, fun h => absurd h (by decide : ¬seqOpcode 0x1F = true)⟩

theorem Encoding.addi (p w) : Statement (.addi p w) := by
  intro _ _ h t; cases h
  exact ⟨(by decide : 0x20 < 0xFF), by unfold instrOf; rw [wordOp_word, FmtB.ofWord_word]; rfl, fun h => absurd h (by decide : ¬seqOpcode 0x20 = true)⟩

theorem Encoding.muli (p w) : Statement (.muli p w) := by
  intro _ _ h t; cases h
  exact ⟨(by decide : 0x21 < 0xFF), by unfold instrOf; rw [wordOp_word, FmtB.ofWord_word]; rfl, fun h => absurd h (by decide : ¬seqOpcode 0x21 = true)⟩

theorem Encoding.andi (p w) : Statement (.andi p w) := by
  intro _ _ h t; cases h
  exact ⟨(by decide : 0x22 < 0xFF), by unfold instrOf; rw [wordOp_word, FmtB.ofWord_word]; rfl, fun h => absurd h (by decide : ¬seqOpcode 0x22 = true)⟩

theorem Encoding.ori (p w) : Statement (.ori p w) := by
  intro _ _ h t; cases h
  exact ⟨(by decide : 0x23 < 0xFF), by unfold instrOf; rw [wordOp_word, FmtB.ofWord_word]; rfl, fun h => absurd h (by decide : ¬seqOpcode 0x23 = true)⟩

theorem Encoding.xori (p w) : Statement (.xori p w) := by
  intro _ _ h t; cases h
  exact ⟨(by decide : 0x24 < 0xFF), by unfold instrOf; rw [wordOp_word, FmtB.ofWord_word]; rfl, fun h => absurd h (by decide : ¬seqOpcode 0x24 = true)⟩

theorem Encoding.shli (p w) : Statement (.shli p w) := by
  intro _ _ h t; cases h
  exact ⟨(by decide : 0x25 < 0xFF), by unfold instrOf; rw [wordOp_word, FmtB.ofWord_word]; rfl, fun h => absurd h (by decide : ¬seqOpcode 0x25 = true)⟩

theorem Encoding.shri (p w) : Statement (.shri p w) := by
  intro _ _ h t; cases h
  exact ⟨(by decide : 0x26 < 0xFF), by unfold instrOf; rw [wordOp_word, FmtB.ofWord_word]; rfl, fun h => absurd h (by decide : ¬seqOpcode 0x26 = true)⟩

theorem Encoding.srai (p w) : Statement (.srai p w) := by
  intro _ _ h t; cases h
  exact ⟨(by decide : 0x27 < 0xFF), by unfold instrOf; rw [wordOp_word, FmtB.ofWord_word]; rfl, fun h => absurd h (by decide : ¬seqOpcode 0x27 = true)⟩

theorem Encoding.cmpi (p w) : Statement (.cmpi p w) := by
  intro _ _ h t; cases h
  exact ⟨(by decide : 0x28 < 0xFF), by unfold instrOf; rw [wordOp_word, FmtBC.ofWord_word]; rfl, fun h => absurd h (by decide : ¬seqOpcode 0x28 = true)⟩

theorem Encoding.mini (p w) : Statement (.mini p w) := by
  intro _ _ h t; cases h
  exact ⟨(by decide : 0x29 < 0xFF), by unfold instrOf; rw [wordOp_word, FmtB.ofWord_word]; rfl, fun h => absurd h (by decide : ¬seqOpcode 0x29 = true)⟩

theorem Encoding.maxi (p w) : Statement (.maxi p w) := by
  intro _ _ h t; cases h
  exact ⟨(by decide : 0x2A < 0xFF), by unfold instrOf; rw [wordOp_word, FmtB.ofWord_word]; rfl, fun h => absurd h (by decide : ¬seqOpcode 0x2A = true)⟩

theorem Encoding.lui (p w) : Statement (.lui p w) := by
  intro _ _ h t; cases h
  exact ⟨(by decide : 0x2B < 0xFF), by unfold instrOf; rw [wordOp_word, FmtU.ofWord_word]; rfl, fun h => absurd h (by decide : ¬seqOpcode 0x2B = true)⟩

theorem Encoding.llo (p w) : Statement (.llo p w) := by
  intro _ _ h t; cases h
  exact ⟨(by decide : 0x2C < 0xFF), by unfold instrOf; rw [wordOp_word, FmtU.ofWord_word]; rfl, fun h => absurd h (by decide : ¬seqOpcode 0x2C = true)⟩

theorem Encoding.luih (p w) : Statement (.luih p w) := by
  intro _ _ h t; cases h
  exact ⟨(by decide : 0x2D < 0xFF), by unfold instrOf; rw [wordOp_word, FmtU.ofWord_word]; rfl, fun h => absurd h (by decide : ¬seqOpcode 0x2D = true)⟩

theorem Encoding.movs (p w) : Statement (.movs p w) := by
  intro _ _ h t; cases h
  exact ⟨(by decide : 0x2E < 0xFF), by unfold instrOf; rw [wordOp_word, FmtU.ofWord_word]; rfl, fun h => absurd h (by decide : ¬seqOpcode 0x2E = true)⟩

theorem Encoding.movsw (p w) : Statement (.movsw p w) := by
  intro _ _ h t; cases h
  exact ⟨(by decide : 0x2F < 0xFF), by unfold instrOf; rw [wordOp_word, FmtU.ofWord_word]; rfl, fun h => absurd h (by decide : ¬seqOpcode 0x2F = true)⟩

theorem Encoding.window (p w) : Statement (.window p w) := by
  intro _ _ h t; cases h
  exact ⟨(by decide : 0x30 < 0xFF), by unfold instrOf; rw [wordOp_word, FmtB.ofWord_word]; rfl, fun h => absurd h (by decide : ¬seqOpcode 0x30 = true)⟩

theorem Encoding.fli (p w) : Statement (.fli p w) := by
  intro _ _ h t; cases h
  exact ⟨(by decide : 0x31 < 0xFF), by unfold instrOf; rw [wordOp_word, FmtU.ofWord_word]; rfl, fun h => absurd h (by decide : ¬seqOpcode 0x31 = true)⟩

theorem Encoding.movi (p w) : Statement (.movi p w) := by
  intro _ _ h t; cases h
  exact ⟨(by decide : 0x32 < 0xFF), by unfold instrOf; rw [wordOp_word, FmtU.ofWord_word]; rfl, fun h => absurd h (by decide : ¬seqOpcode 0x32 = true)⟩

theorem Encoding.bfei (p w) : Statement (.bfei p w) := by
  intro _ _ h t; cases h
  exact ⟨(by decide : 0x33 < 0xFF), by unfold instrOf; rw [wordOp_word, FmtBF.ofWord_word]; rfl, fun h => absurd h (by decide : ¬seqOpcode 0x33 = true)⟩

theorem Encoding.bfii (p w) : Statement (.bfii p w) := by
  intro _ _ h t; cases h
  exact ⟨(by decide : 0x34 < 0xFF), by unfold instrOf; rw [wordOp_word, FmtBF.ofWord_word]; rfl, fun h => absurd h (by decide : ¬seqOpcode 0x34 = true)⟩

theorem Encoding.rotli (p w) : Statement (.rotli p w) := by
  intro _ _ h t; cases h
  exact ⟨(by decide : 0x35 < 0xFF), by unfold instrOf; rw [wordOp_word, FmtB.ofWord_word]; rfl, fun h => absurd h (by decide : ¬seqOpcode 0x35 = true)⟩

theorem Encoding.addip (p w) : Statement (.addip p w) := by
  intro _ _ h t; cases h
  exact ⟨(by decide : 0x36 < 0xFF), by unfold instrOf; rw [wordOp_word, FmtB.ofWord_word]; rfl, fun h => absurd h (by decide : ¬seqOpcode 0x36 = true)⟩

theorem Encoding.setcci (p w) : Statement (.setcci p w) := by
  intro _ _ h t; cases h
  exact ⟨(by decide : 0x37 < 0xFF), by unfold instrOf; rw [wordOp_word, FmtBC.ofWord_word]; rfl, fun h => absurd h (by decide : ¬seqOpcode 0x37 = true)⟩

theorem Encoding.mulw (p w) : Statement (.mulw p w) := by
  intro _ _ h t; cases h
  exact ⟨(by decide : 0x38 < 0xFF), by unfold instrOf; rw [wordOp_word, FmtA.ofWord_word]; rfl, fun h => absurd h (by decide : ¬seqOpcode 0x38 = true)⟩

theorem Encoding.madw (p w) : Statement (.madw p w) := by
  intro _ _ h t; cases h
  exact ⟨(by decide : 0x39 < 0xFF), by unfold instrOf; rw [wordOp_word, FmtA.ofWord_word]; rfl, fun h => absurd h (by decide : ¬seqOpcode 0x39 = true)⟩

theorem Encoding.addp (p w) : Statement (.addp p w) := by
  intro _ _ h t; cases h
  exact ⟨(by decide : 0x3A < 0xFF), by unfold instrOf; rw [wordOp_word, FmtA.ofWord_word]; rfl, fun h => absurd h (by decide : ¬seqOpcode 0x3A = true)⟩

theorem Encoding.shlp (p w) : Statement (.shlp p w) := by
  intro _ _ h t; cases h
  exact ⟨(by decide : 0x3B < 0xFF), by unfold instrOf; rw [wordOp_word, FmtB.ofWord_word]; rfl, fun h => absurd h (by decide : ¬seqOpcode 0x3B = true)⟩

theorem Encoding.shrp (p w) : Statement (.shrp p w) := by
  intro _ _ h t; cases h
  exact ⟨(by decide : 0x3C < 0xFF), by unfold instrOf; rw [wordOp_word, FmtB.ofWord_word]; rfl, fun h => absurd h (by decide : ¬seqOpcode 0x3C = true)⟩

theorem Encoding.bra (p w) : Statement (.bra p w) := by
  intro _ _ h t; cases h
  exact ⟨(by decide : 0x40 < 0xFF), by unfold instrOf; rw [wordOp_word, FmtJ.ofWord_word]; rfl, fun h => absurd h (by decide : ¬seqOpcode 0x40 = true)⟩

theorem Encoding.bdiv (p w) : Statement (.bdiv p w) := by
  intro _ _ h t; cases h
  exact ⟨(by decide : 0x41 < 0xFF), by unfold instrOf; rw [wordOp_word, FmtJ.ofWord_word]; rfl, fun h => absurd h (by decide : ¬seqOpcode 0x41 = true)⟩

theorem Encoding.join (p w) : Statement (.join p w) := by
  intro _ _ h t; cases h
  exact ⟨(by decide : 0x42 < 0xFF), by unfold instrOf; rw [wordOp_word, FmtA.ofWord_word]; rfl, fun h => absurd h (by decide : ¬seqOpcode 0x42 = true)⟩

theorem Encoding.call (p w) : Statement (.call p w) := by
  intro _ _ h t; cases h
  exact ⟨(by decide : 0x43 < 0xFF), by unfold instrOf; rw [wordOp_word, FmtL.ofWord_word]; rfl, fun h => absurd h (by decide : ¬seqOpcode 0x43 = true)⟩

theorem Encoding.calli (p w) : Statement (.calli p w) := by
  intro _ _ h t; cases h
  exact ⟨(by decide : 0x44 < 0xFF), by unfold instrOf; rw [wordOp_word, FmtA.ofWord_word]; rfl, fun h => absurd h (by decide : ¬seqOpcode 0x44 = true)⟩

theorem Encoding.ret (p w) : Statement (.ret p w) := by
  intro _ _ h t; cases h
  exact ⟨(by decide : 0x45 < 0xFF), by unfold instrOf; rw [wordOp_word, FmtA.ofWord_word]; rfl, fun h => absurd h (by decide : ¬seqOpcode 0x45 = true)⟩

theorem Encoding.jmpi (p w) : Statement (.jmpi p w) := by
  intro _ _ h t; cases h
  exact ⟨(by decide : 0x46 < 0xFF), by unfold instrOf; rw [wordOp_word, FmtA.ofWord_word]; rfl, fun h => absurd h (by decide : ¬seqOpcode 0x46 = true)⟩

theorem Encoding.exit (p w) : Statement (.exit p w) := by
  intro _ _ h t; cases h
  exact ⟨(by decide : 0x47 < 0xFF), by unfold instrOf; rw [wordOp_word, FmtA.ofWord_word]; rfl, fun h => absurd h (by decide : ¬seqOpcode 0x47 = true)⟩

theorem Encoding.yield (p w) : Statement (.yield p w) := by
  intro _ _ h t; cases h
  exact ⟨(by decide : 0x48 < 0xFF), by unfold instrOf; rw [wordOp_word, FmtA.ofWord_word]; rfl, fun h => absurd h (by decide : ¬seqOpcode 0x48 = true)⟩

theorem Encoding.nop (p w) : Statement (.nop p w) := by
  intro _ _ h t; cases h
  exact ⟨(by decide : 0x49 < 0xFF), by unfold instrOf; rw [wordOp_word, FmtA.ofWord_word]; rfl, fun h => absurd h (by decide : ¬seqOpcode 0x49 = true)⟩

theorem Encoding.bar (p w) : Statement (.bar p w) := by
  intro _ _ h t; cases h
  exact ⟨(by decide : 0x4A < 0xFF), by unfold instrOf; rw [wordOp_word, FmtB.ofWord_word]; rfl, fun h => absurd h (by decide : ¬seqOpcode 0x4A = true)⟩

theorem Encoding.boarr (p w) : Statement (.boarr p w) := by
  intro _ _ h t; cases h
  exact ⟨(by decide : 0x4B < 0xFF), by unfold instrOf; rw [wordOp_word, FmtA.ofWord_word]; rfl, fun h => absurd h (by decide : ¬seqOpcode 0x4B = true)⟩

theorem Encoding.bowait (p w) : Statement (.bowait p w) := by
  intro _ _ h t; cases h
  exact ⟨(by decide : 0x4C < 0xFF), by unfold instrOf; rw [wordOp_word, FmtA.ofWord_word]; rfl, fun h => absurd h (by decide : ¬seqOpcode 0x4C = true)⟩

theorem Encoding.tlwait (p w) : Statement (.tlwait p w) := by
  intro _ _ h t; cases h
  exact ⟨(by decide : 0x4D < 0xFF), by unfold instrOf; rw [wordOp_word, FmtA.ofWord_word]; rfl, fun h => absurd h (by decide : ¬seqOpcode 0x4D = true)⟩

theorem Encoding.trap (p w) : Statement (.trap p w) := by
  intro _ _ h t; cases h
  exact ⟨(by decide : 0x4E < 0xFF), by unfold instrOf; rw [wordOp_word, FmtU.ofWord_word]; rfl, fun h => absurd h (by decide : ¬seqOpcode 0x4E = true)⟩

theorem Encoding.brk (p w) : Statement (.brk p w) := by
  intro _ _ h t; cases h
  exact ⟨(by decide : 0x4F < 0xFF), by unfold instrOf; rw [wordOp_word, FmtU.ofWord_word]; rfl, fun h => absurd h (by decide : ¬seqOpcode 0x4F = true)⟩

theorem Encoding.rft (p w) : Statement (.rft p w) := by
  intro _ _ h t; cases h
  exact ⟨(by decide : 0x50 < 0xFF), by unfold instrOf; rw [wordOp_word, FmtA.ofWord_word]; rfl, fun h => absurd h (by decide : ¬seqOpcode 0x50 = true)⟩

theorem Encoding.qclose (p w) : Statement (.qclose p w) := by
  intro _ _ h t; cases h
  exact ⟨(by decide : 0x51 < 0xFF), by unfold instrOf; rw [wordOp_word, FmtA.ofWord_word]; rfl, fun h => absurd h (by decide : ¬seqOpcode 0x51 = true)⟩

theorem Encoding.qstat (p w) : Statement (.qstat p w) := by
  intro _ _ h t; cases h
  exact ⟨(by decide : 0x52 < 0xFF), by unfold instrOf; rw [wordOp_word, FmtA.ofWord_word]; rfl, fun h => absurd h (by decide : ¬seqOpcode 0x52 = true)⟩

theorem Encoding.getpc (p w) : Statement (.getpc p w) := by
  intro _ _ h t; cases h
  exact ⟨(by decide : 0x53 < 0xFF), by unfold instrOf; rw [wordOp_word, FmtB.ofWord_word]; rfl, fun h => absurd h (by decide : ¬seqOpcode 0x53 = true)⟩

theorem Encoding.loop (p w) : Statement (.loop p w) := by
  intro _ _ h t; cases h
  exact ⟨(by decide : 0x54 < 0xFF), by unfold instrOf; rw [wordOp_word, FmtJ.ofWord_word]; rfl, fun h => absurd h (by decide : ¬seqOpcode 0x54 = true)⟩

theorem Encoding.svc (p w) : Statement (.svc p w) := by
  intro _ _ h t; cases h
  exact ⟨(by decide : 0x55 < 0xFF), by unfold instrOf; rw [wordOp_word, FmtU.ofWord_word]; rfl, fun h => absurd h (by decide : ¬seqOpcode 0x55 = true)⟩

theorem Encoding.evwait (p w) : Statement (.evwait p w) := by
  intro _ _ h t; cases h
  exact ⟨(by decide : 0x56 < 0xFF), by unfold instrOf; rw [wordOp_word, FmtA.ofWord_word]; rfl, fun h => absurd h (by decide : ¬seqOpcode 0x56 = true)⟩

theorem Encoding.qtry (p w) : Statement (.qtry p w) := by
  intro _ _ h t; cases h
  exact ⟨(by decide : 0x57 < 0xFF), by unfold instrOf; rw [wordOp_word, FmtA.ofWord_word]; rfl, fun h => absurd h (by decide : ¬seqOpcode 0x57 = true)⟩

theorem Encoding.boinit (p w) : Statement (.boinit p w) := by
  intro _ _ h t; cases h
  exact ⟨(by decide : 0x58 < 0xFF), by unfold instrOf; rw [wordOp_word, FmtA.ofWord_word]; rfl, fun h => absurd h (by decide : ¬seqOpcode 0x58 = true)⟩

theorem Encoding.fadd (p w) : Statement (.fadd p w) := by
  intro _ _ h t; cases h
  exact ⟨(by decide : 0x60 < 0xFF), by unfold instrOf; rw [wordOp_word, FmtA.ofWord_word]; rfl, fun h => absurd h (by decide : ¬seqOpcode 0x60 = true)⟩

theorem Encoding.fsub (p w) : Statement (.fsub p w) := by
  intro _ _ h t; cases h
  exact ⟨(by decide : 0x61 < 0xFF), by unfold instrOf; rw [wordOp_word, FmtA.ofWord_word]; rfl, fun h => absurd h (by decide : ¬seqOpcode 0x61 = true)⟩

theorem Encoding.fmul (p w) : Statement (.fmul p w) := by
  intro _ _ h t; cases h
  exact ⟨(by decide : 0x62 < 0xFF), by unfold instrOf; rw [wordOp_word, FmtA.ofWord_word]; rfl, fun h => absurd h (by decide : ¬seqOpcode 0x62 = true)⟩

theorem Encoding.ffma (p w) : Statement (.ffma p w) := by
  intro _ _ h t; cases h
  exact ⟨(by decide : 0x63 < 0xFF), by unfold instrOf; rw [wordOp_word, FmtA.ofWord_word]; rfl, fun h => absurd h (by decide : ¬seqOpcode 0x63 = true)⟩

theorem Encoding.fmin (p w) : Statement (.fmin p w) := by
  intro _ _ h t; cases h
  exact ⟨(by decide : 0x64 < 0xFF), by unfold instrOf; rw [wordOp_word, FmtA.ofWord_word]; rfl, fun h => absurd h (by decide : ¬seqOpcode 0x64 = true)⟩

theorem Encoding.fmax (p w) : Statement (.fmax p w) := by
  intro _ _ h t; cases h
  exact ⟨(by decide : 0x65 < 0xFF), by unfold instrOf; rw [wordOp_word, FmtA.ofWord_word]; rfl, fun h => absurd h (by decide : ¬seqOpcode 0x65 = true)⟩

theorem Encoding.fcmp (p w) : Statement (.fcmp p w) := by
  intro _ _ h t; cases h
  exact ⟨(by decide : 0x66 < 0xFF), by unfold instrOf; rw [wordOp_word, FmtA.ofWord_word]; rfl, fun h => absurd h (by decide : ¬seqOpcode 0x66 = true)⟩

theorem Encoding.fsetcc (p w) : Statement (.fsetcc p w) := by
  intro _ _ h t; cases h
  exact ⟨(by decide : 0x67 < 0xFF), by unfold instrOf; rw [wordOp_word, FmtA.ofWord_word]; rfl, fun h => absurd h (by decide : ¬seqOpcode 0x67 = true)⟩

theorem Encoding.fdiv (p w) : Statement (.fdiv p w) := by
  intro _ _ h t; cases h
  exact ⟨(by decide : 0x68 < 0xFF), by unfold instrOf; rw [wordOp_word, FmtA.ofWord_word]; rfl, fun h => absurd h (by decide : ¬seqOpcode 0x68 = true)⟩

theorem Encoding.fsqrt (p w) : Statement (.fsqrt p w) := by
  intro _ _ h t; cases h
  exact ⟨(by decide : 0x69 < 0xFF), by unfold instrOf; rw [wordOp_word, FmtA.ofWord_word]; rfl, fun h => absurd h (by decide : ¬seqOpcode 0x69 = true)⟩

theorem Encoding.frcp (p w) : Statement (.frcp p w) := by
  intro _ _ h t; cases h
  exact ⟨(by decide : 0x6A < 0xFF), by unfold instrOf; rw [wordOp_word, FmtA.ofWord_word]; rfl, fun h => absurd h (by decide : ¬seqOpcode 0x6A = true)⟩

theorem Encoding.frsq (p w) : Statement (.frsq p w) := by
  intro _ _ h t; cases h
  exact ⟨(by decide : 0x6B < 0xFF), by unfold instrOf; rw [wordOp_word, FmtA.ofWord_word]; rfl, fun h => absurd h (by decide : ¬seqOpcode 0x6B = true)⟩

theorem Encoding.fexp2 (p w) : Statement (.fexp2 p w) := by
  intro _ _ h t; cases h
  exact ⟨(by decide : 0x6C < 0xFF), by unfold instrOf; rw [wordOp_word, FmtA.ofWord_word]; rfl, fun h => absurd h (by decide : ¬seqOpcode 0x6C = true)⟩

theorem Encoding.flog2 (p w) : Statement (.flog2 p w) := by
  intro _ _ h t; cases h
  exact ⟨(by decide : 0x6D < 0xFF), by unfold instrOf; rw [wordOp_word, FmtA.ofWord_word]; rfl, fun h => absurd h (by decide : ¬seqOpcode 0x6D = true)⟩

theorem Encoding.fsin (p w) : Statement (.fsin p w) := by
  intro _ _ h t; cases h
  exact ⟨(by decide : 0x6E < 0xFF), by unfold instrOf; rw [wordOp_word, FmtA.ofWord_word]; rfl, fun h => absurd h (by decide : ¬seqOpcode 0x6E = true)⟩

theorem Encoding.fcos (p w) : Statement (.fcos p w) := by
  intro _ _ h t; cases h
  exact ⟨(by decide : 0x6F < 0xFF), by unfold instrOf; rw [wordOp_word, FmtA.ofWord_word]; rfl, fun h => absurd h (by decide : ¬seqOpcode 0x6F = true)⟩

theorem Encoding.ftanh (p w) : Statement (.ftanh p w) := by
  intro _ _ h t; cases h
  exact ⟨(by decide : 0x70 < 0xFF), by unfold instrOf; rw [wordOp_word, FmtA.ofWord_word]; rfl, fun h => absurd h (by decide : ¬seqOpcode 0x70 = true)⟩

theorem Encoding.fclass (p w) : Statement (.fclass p w) := by
  intro _ _ h t; cases h
  exact ⟨(by decide : 0x71 < 0xFF), by unfold instrOf; rw [wordOp_word, FmtA.ofWord_word]; rfl, fun h => absurd h (by decide : ¬seqOpcode 0x71 = true)⟩

theorem Encoding.fcvt (p w) : Statement (.fcvt p w) := by
  intro _ _ h t; cases h
  exact ⟨(by decide : 0x72 < 0xFF), by unfold instrOf; rw [wordOp_word, FmtA.ofWord_word]; rfl, fun h => absurd h (by decide : ¬seqOpcode 0x72 = true)⟩

theorem Encoding.icvt (p w) : Statement (.icvt p w) := by
  intro _ _ h t; cases h
  exact ⟨(by decide : 0x73 < 0xFF), by unfold instrOf; rw [wordOp_word, FmtA.ofWord_word]; rfl, fun h => absurd h (by decide : ¬seqOpcode 0x73 = true)⟩

theorem Encoding.fpack (p w) : Statement (.fpack p w) := by
  intro _ _ h t; cases h
  exact ⟨(by decide : 0x74 < 0xFF), by unfold instrOf; rw [wordOp_word, FmtA.ofWord_word]; rfl, fun h => absurd h (by decide : ¬seqOpcode 0x74 = true)⟩

theorem Encoding.funpk (p w) : Statement (.funpk p w) := by
  intro _ _ h t; cases h
  exact ⟨(by decide : 0x75 < 0xFF), by unfold instrOf; rw [wordOp_word, FmtA.ofWord_word]; rfl, fun h => absurd h (by decide : ¬seqOpcode 0x75 = true)⟩

theorem Encoding.qnt (p w) : Statement (.qnt p w) := by
  intro _ _ h t; cases h
  exact ⟨(by decide : 0x76 < 0xFF), by unfold instrOf; rw [wordOp_word, FmtA.ofWord_word]; rfl, fun h => absurd h (by decide : ¬seqOpcode 0x76 = true)⟩

theorem Encoding.qntc (p w) : Statement (.qntc p w) := by
  intro _ _ h t; cases h
  exact ⟨(by decide : 0x77 < 0xFF), by unfold instrOf; rw [wordOp_word, FmtA.ofWord_word]; rfl, fun h => absurd h (by decide : ¬seqOpcode 0x77 = true)⟩

theorem Encoding.dqnt (p w) : Statement (.dqnt p w) := by
  intro _ _ h t; cases h
  exact ⟨(by decide : 0x78 < 0xFF), by unfold instrOf; rw [wordOp_word, FmtA.ofWord_word]; rfl, fun h => absurd h (by decide : ¬seqOpcode 0x78 = true)⟩

theorem Encoding.fdot2 (p w) : Statement (.fdot2 p w) := by
  intro _ _ h t; cases h
  exact ⟨(by decide : 0x79 < 0xFF), by unfold instrOf; rw [wordOp_word, FmtA.ofWord_word]; rfl, fun h => absurd h (by decide : ¬seqOpcode 0x79 = true)⟩

theorem Encoding.frnd (p w) : Statement (.frnd p w) := by
  intro _ _ h t; cases h
  exact ⟨(by decide : 0x7A < 0xFF), by unfold instrOf; rw [wordOp_word, FmtA.ofWord_word]; rfl, fun h => absurd h (by decide : ¬seqOpcode 0x7A = true)⟩

theorem Encoding.fscale (p w) : Statement (.fscale p w) := by
  intro _ _ h t; cases h
  exact ⟨(by decide : 0x7B < 0xFF), by unfold instrOf; rw [wordOp_word, FmtA.ofWord_word]; rfl, fun h => absurd h (by decide : ¬seqOpcode 0x7B = true)⟩

theorem Encoding.fsgn (p w) : Statement (.fsgn p w) := by
  intro _ _ h t; cases h
  exact ⟨(by decide : 0x7C < 0xFF), by unfold instrOf; rw [wordOp_word, FmtA.ofWord_word]; rfl, fun h => absurd h (by decide : ¬seqOpcode 0x7C = true)⟩

theorem Encoding.ffrc (p w) : Statement (.ffrc p w) := by
  intro _ _ h t; cases h
  exact ⟨(by decide : 0x7D < 0xFF), by unfold instrOf; rw [wordOp_word, FmtA.ofWord_word]; rfl, fun h => absurd h (by decide : ¬seqOpcode 0x7D = true)⟩

theorem Encoding.fdiva (p w) : Statement (.fdiva p w) := by
  intro _ _ h t; cases h
  exact ⟨(by decide : 0x7E < 0xFF), by unfold instrOf; rw [wordOp_word, FmtA.ofWord_word]; rfl, fun h => absurd h (by decide : ¬seqOpcode 0x7E = true)⟩

theorem Encoding.shfl (p w) : Statement (.shfl p w) := by
  intro _ _ h t; cases h
  exact ⟨(by decide : 0x80 < 0xFF), by unfold instrOf; rw [wordOp_word, FmtA.ofWord_word]; rfl, fun h => absurd h (by decide : ¬seqOpcode 0x80 = true)⟩

theorem Encoding.vote (p w) : Statement (.vote p w) := by
  intro _ _ h t; cases h
  exact ⟨(by decide : 0x81 < 0xFF), by unfold instrOf; rw [wordOp_word, FmtA.ofWord_word]; rfl, fun h => absurd h (by decide : ¬seqOpcode 0x81 = true)⟩

theorem Encoding.ballot (p w) : Statement (.ballot p w) := by
  intro _ _ h t; cases h
  exact ⟨(by decide : 0x82 < 0xFF), by unfold instrOf; rw [wordOp_word, FmtA.ofWord_word]; rfl, fun h => absurd h (by decide : ¬seqOpcode 0x82 = true)⟩

theorem Encoding.redux (p w) : Statement (.redux p w) := by
  intro _ _ h t; cases h
  exact ⟨(by decide : 0x83 < 0xFF), by unfold instrOf; rw [wordOp_word, FmtA.ofWord_word]; rfl, fun h => absurd h (by decide : ¬seqOpcode 0x83 = true)⟩

theorem Encoding.scan (p w) : Statement (.scan p w) := by
  intro _ _ h t; cases h
  exact ⟨(by decide : 0x84 < 0xFF), by unfold instrOf; rw [wordOp_word, FmtA.ofWord_word]; rfl, fun h => absurd h (by decide : ¬seqOpcode 0x84 = true)⟩

theorem Encoding.match (p w) : Statement (.match p w) := by
  intro _ _ h t; cases h
  exact ⟨(by decide : 0x85 < 0xFF), by unfold instrOf; rw [wordOp_word, FmtA.ofWord_word]; rfl, fun h => absurd h (by decide : ¬seqOpcode 0x85 = true)⟩

theorem Encoding.ld (p w) : Statement (.ld p w) := by
  intro _ _ h t; cases h
  exact ⟨(by decide : 0x86 < 0xFF), by unfold instrOf; rw [wordOp_word, FmtM.ofWord_word]; rfl, fun h => absurd h (by decide : ¬seqOpcode 0x86 = true)⟩

theorem Encoding.st (p w) : Statement (.st p w) := by
  intro _ _ h t; cases h
  exact ⟨(by decide : 0x87 < 0xFF), by unfold instrOf; rw [wordOp_word, FmtM.ofWord_word]; rfl, fun h => absurd h (by decide : ¬seqOpcode 0x87 = true)⟩

theorem Encoding.lds (p w) : Statement (.lds p w) := by
  intro _ _ h t; cases h
  exact ⟨(by decide : 0x88 < 0xFF), by unfold instrOf; rw [wordOp_word, FmtM.ofWord_word]; rfl, fun h => absurd h (by decide : ¬seqOpcode 0x88 = true)⟩

theorem Encoding.sts (p w) : Statement (.sts p w) := by
  intro _ _ h t; cases h
  exact ⟨(by decide : 0x89 < 0xFF), by unfold instrOf; rw [wordOp_word, FmtM.ofWord_word]; rfl, fun h => absurd h (by decide : ¬seqOpcode 0x89 = true)⟩

theorem Encoding.ldp (p w) : Statement (.ldp p w) := by
  intro _ _ h t; cases h
  exact ⟨(by decide : 0x8A < 0xFF), by unfold instrOf; rw [wordOp_word, FmtM.ofWord_word]; rfl, fun h => absurd h (by decide : ¬seqOpcode 0x8A = true)⟩

theorem Encoding.stp (p w) : Statement (.stp p w) := by
  intro _ _ h t; cases h
  exact ⟨(by decide : 0x8B < 0xFF), by unfold instrOf; rw [wordOp_word, FmtM.ofWord_word]; rfl, fun h => absurd h (by decide : ¬seqOpcode 0x8B = true)⟩

theorem Encoding.atom (p w) : Statement (.atom p w) := by
  intro _ _ h t; cases h
  exact ⟨(by decide : 0x8C < 0xFF), by unfold instrOf; rw [wordOp_word, FmtA.ofWord_word]; rfl, fun h => absurd h (by decide : ¬seqOpcode 0x8C = true)⟩

theorem Encoding.atom64 (p w) : Statement (.atom64 p w) := by
  intro _ _ h t; cases h
  exact ⟨(by decide : 0x8D < 0xFF), by unfold instrOf; rw [wordOp_word, FmtA.ofWord_word]; rfl, fun h => absurd h (by decide : ¬seqOpcode 0x8D = true)⟩

theorem Encoding.red (p w) : Statement (.red p w) := by
  intro _ _ h t; cases h
  exact ⟨(by decide : 0x8E < 0xFF), by unfold instrOf; rw [wordOp_word, FmtA.ofWord_word]; rfl, fun h => absurd h (by decide : ¬seqOpcode 0x8E = true)⟩

theorem Encoding.atoms (p w) : Statement (.atoms p w) := by
  intro _ _ h t; cases h
  exact ⟨(by decide : 0x8F < 0xFF), by unfold instrOf; rw [wordOp_word, FmtA.ofWord_word]; rfl, fun h => absurd h (by decide : ¬seqOpcode 0x8F = true)⟩

theorem Encoding.fence (p w) : Statement (.fence p w) := by
  intro _ _ h t; cases h
  exact ⟨(by decide : 0x90 < 0xFF), by unfold instrOf; rw [wordOp_word, FmtA.ofWord_word]; rfl, fun h => absurd h (by decide : ¬seqOpcode 0x90 = true)⟩

theorem Encoding.hflush (p w) : Statement (.hflush p w) := by
  intro _ _ h t; cases h
  exact ⟨(by decide : 0x91 < 0xFF), by unfold instrOf; rw [wordOp_word, FmtA.ofWord_word]; rfl, fun h => absurd h (by decide : ¬seqOpcode 0x91 = true)⟩

theorem Encoding.cinv (p w) : Statement (.cinv p w) := by
  intro _ _ h t; cases h
  exact ⟨(by decide : 0x92 < 0xFF), by unfold instrOf; rw [wordOp_word, FmtA.ofWord_word]; rfl, fun h => absurd h (by decide : ¬seqOpcode 0x92 = true)⟩

theorem Encoding.pref (p w) : Statement (.pref p w) := by
  intro _ _ h t; cases h
  exact ⟨(by decide : 0x93 < 0xFF), by unfold instrOf; rw [wordOp_word, FmtM.ofWord_word]; rfl, fun h => absurd h (by decide : ¬seqOpcode 0x93 = true)⟩

theorem Encoding.privaddr (p w) : Statement (.privaddr p w) := by
  intro _ _ h t; cases h
  exact ⟨(by decide : 0x94 < 0xFF), by unfold instrOf; rw [wordOp_word, FmtA.ofWord_word]; rfl, fun h => absurd h (by decide : ¬seqOpcode 0x94 = true)⟩

theorem Encoding.cconv (p w) : Statement (.cconv p w) := by
  intro _ _ h t; cases h
  exact ⟨(by decide : 0x95 < 0xFF), by unfold instrOf; rw [wordOp_word, FmtA.ofWord_word]; rfl, fun h => absurd h (by decide : ¬seqOpcode 0x95 = true)⟩

theorem Encoding.ldt (p w) : Statement (.ldt p w) := by
  intro _ _ h t; cases h
  exact ⟨(by decide : 0x96 < 0xFF), by unfold instrOf; rw [wordOp_word, FmtA.ofWord_word]; rfl, fun h => absurd h (by decide : ¬seqOpcode 0x96 = true)⟩

theorem Encoding.stt (p w) : Statement (.stt p w) := by
  intro _ _ h t; cases h
  exact ⟨(by decide : 0x97 < 0xFF), by unfold instrOf; rw [wordOp_word, FmtA.ofWord_word]; rfl, fun h => absurd h (by decide : ¬seqOpcode 0x97 = true)⟩

theorem Encoding.atoms64 (p w) : Statement (.atoms64 p w) := by
  intro _ _ h t; cases h
  exact ⟨(by decide : 0x98 < 0xFF), by unfold instrOf; rw [wordOp_word, FmtA.ofWord_word]; rfl, fun h => absurd h (by decide : ¬seqOpcode 0x98 = true)⟩

theorem Encoding.ldk (p w) : Statement (.ldk p w) := by
  intro _ _ h t; cases h
  exact ⟨(by decide : 0x99 < 0xFF), by unfold instrOf; rw [wordOp_word, FmtM.ofWord_word]; rfl, fun h => absurd h (by decide : ¬seqOpcode 0x99 = true)⟩

theorem Encoding.xcopy (p w) : Statement (.xcopy p w) := by
  intro _ _ h t; cases h
  exact ⟨(by decide : 0xA0 < 0xFF), by unfold instrOf; rw [wordOp_word, FmtA.ofWord_word]; rfl, fun h => absurd h (by decide : ¬seqOpcode 0xA0 = true)⟩

theorem Encoding.xtile (p w) : Statement (.xtile p w) := by
  intro _ _ h t; cases h
  exact ⟨(by decide : 0xA1 < 0xFF), by unfold instrOf; rw [wordOp_word, FmtA.ofWord_word]; rfl, fun h => absurd h (by decide : ¬seqOpcode 0xA1 = true)⟩

theorem Encoding.xform (p w) : Statement (.xform p w) := by
  intro _ _ h t; cases h
  exact ⟨(by decide : 0xA2 < 0xFF), by unfold instrOf; rw [wordOp_word, FmtA.ofWord_word]; rfl, fun h => absurd h (by decide : ¬seqOpcode 0xA2 = true)⟩

theorem Encoding.xyield (p w) : Statement (.xyield p w) := by
  intro _ _ h t; cases h
  exact ⟨(by decide : 0xA3 < 0xFF), by unfold instrOf; rw [wordOp_word, FmtA.ofWord_word]; rfl, fun h => absurd h (by decide : ¬seqOpcode 0xA3 = true)⟩

theorem Encoding.tlread (p w) : Statement (.tlread p w) := by
  intro _ _ h t; cases h
  exact ⟨(by decide : 0xA4 < 0xFF), by unfold instrOf; rw [wordOp_word, FmtA.ofWord_word]; rfl, fun h => absurd h (by decide : ¬seqOpcode 0xA4 = true)⟩

theorem Encoding.tlinc (p w) : Statement (.tlinc p w) := by
  intro _ _ h t; cases h
  exact ⟨(by decide : 0xA5 < 0xFF), by unfold instrOf; rw [wordOp_word, FmtA.ofWord_word]; rfl, fun h => absurd h (by decide : ¬seqOpcode 0xA5 = true)⟩

theorem Encoding.tdef (p w) : Statement (.tdef p w) := by
  intro _ _ h t; cases h
  exact ⟨(by decide : 0xA6 < 0xFF), by unfold instrOf; rw [wordOp_word, FmtA.ofWord_word]; rfl, fun h => absurd h (by decide : ¬seqOpcode 0xA6 = true)⟩

theorem Encoding.tinv (p w) : Statement (.tinv p w) := by
  intro _ _ h t; cases h
  refine ⟨(by decide : 0xA7 < 0xFF), ?_, fun h => absurd h (by decide : ¬seqOpcode 0xA7 = true)⟩
  have e : (Shape.a 0xA7 w).word.extractLsb' 21 3 = w.fn :=
    (skip_field _ _ 14 3).trans ((skip_field _ _ 7 3).trans ((skip_field _ _ 0 3).trans (low_field _ _)))
  have f : w.fn = 0 := by simpa [Instr.tinvForm] using t
  unfold instrOf; rw [wordOp_word, FmtA.ofWord_word, e, f]; rfl

theorem Encoding.tinvAll (p w) : Statement (.tinvAll p w) := by
  intro _ _ h t; cases h
  refine ⟨(by decide : 0xA7 < 0xFF), ?_, fun h => absurd h (by decide : ¬seqOpcode 0xA7 = true)⟩
  have e : (Shape.a 0xA7 w).word.extractLsb' 21 3 = w.fn :=
    (skip_field _ _ 14 3).trans ((skip_field _ _ 7 3).trans ((skip_field _ _ 0 3).trans (low_field _ _)))
  have f : w.fn = 1 := by simpa [Instr.tinvForm] using t
  unfold instrOf; rw [wordOp_word, FmtA.ofWord_word, e, f]; rfl

theorem Encoding.tbnd (p w) : Statement (.tbnd p w) := by
  intro _ _ h t; cases h
  exact ⟨(by decide : 0xA8 < 0xFF), by unfold instrOf; rw [wordOp_word, FmtA.ofWord_word]; rfl, fun h => absurd h (by decide : ¬seqOpcode 0xA8 = true)⟩

theorem Encoding.tseal (p w) : Statement (.tseal p w) := by
  intro _ _ h t; cases h
  exact ⟨(by decide : 0xA9 < 0xFF), by unfold instrOf; rw [wordOp_word, FmtA.ofWord_word]; rfl, fun h => absurd h (by decide : ¬seqOpcode 0xA9 = true)⟩

theorem Encoding.tstat (p w) : Statement (.tstat p w) := by
  intro _ _ h t; cases h
  exact ⟨(by decide : 0xAA < 0xFF), by unfold instrOf; rw [wordOp_word, FmtA.ofWord_word]; rfl, fun h => absurd h (by decide : ¬seqOpcode 0xAA = true)⟩

theorem Encoding.seedscan (p w) : Statement (.seedscan p w) := by
  intro _ _ h t; cases h
  exact ⟨(by decide : 0xAB < 0xFF), by unfold instrOf; rw [wordOp_word, FmtA.ofWord_word]; rfl, fun h => absurd h (by decide : ¬seqOpcode 0xAB = true)⟩

theorem Encoding.seedexp (p w) : Statement (.seedexp p w) := by
  intro _ _ h t; cases h
  exact ⟨(by decide : 0xAC < 0xFF), by unfold instrOf; rw [wordOp_word, FmtA.ofWord_word]; rfl, fun h => absurd h (by decide : ¬seqOpcode 0xAC = true)⟩

theorem Encoding.snap (p w) : Statement (.snap p w) := by
  intro _ _ h t; cases h
  exact ⟨(by decide : 0xAD < 0xFF), by unfold instrOf; rw [wordOp_word, FmtA.ofWord_word]; rfl, fun h => absurd h (by decide : ¬seqOpcode 0xAD = true)⟩

theorem Encoding.snapwait (p w) : Statement (.snapwait p w) := by
  intro _ _ h t; cases h
  exact ⟨(by decide : 0xAE < 0xFF), by unfold instrOf; rw [wordOp_word, FmtA.ofWord_word]; rfl, fun h => absurd h (by decide : ¬seqOpcode 0xAE = true)⟩

theorem Encoding.snapstat (p w) : Statement (.snapstat p w) := by
  intro _ _ h t; cases h
  exact ⟨(by decide : 0xAF < 0xFF), by unfold instrOf; rw [wordOp_word, FmtA.ofWord_word]; rfl, fun h => absurd h (by decide : ¬seqOpcode 0xAF = true)⟩

theorem Encoding.xgath (p w) : Statement (.xgath p w) := by
  intro _ _ h t; cases h
  exact ⟨(by decide : 0xB0 < 0xFF), by unfold instrOf; rw [wordOp_word, FmtA.ofWord_word]; rfl, fun h => absurd h (by decide : ¬seqOpcode 0xB0 = true)⟩

theorem Encoding.xscat (p w) : Statement (.xscat p w) := by
  intro _ _ h t; cases h
  exact ⟨(by decide : 0xB1 < 0xFF), by unfold instrOf; rw [wordOp_word, FmtA.ofWord_word]; rfl, fun h => absurd h (by decide : ¬seqOpcode 0xB1 = true)⟩

theorem Encoding.xfill (p w) : Statement (.xfill p w) := by
  intro _ _ h t; cases h
  exact ⟨(by decide : 0xB2 < 0xFF), by unfold instrOf; rw [wordOp_word, FmtA.ofWord_word]; rfl, fun h => absurd h (by decide : ¬seqOpcode 0xB2 = true)⟩

theorem Encoding.xcancel (p w) : Statement (.xcancel p w) := by
  intro _ _ h t; cases h
  exact ⟨(by decide : 0xB3 < 0xFF), by unfold instrOf; rw [wordOp_word, FmtA.ofWord_word]; rfl, fun h => absurd h (by decide : ¬seqOpcode 0xB3 = true)⟩

theorem Encoding.xstat (p w) : Statement (.xstat p w) := by
  intro _ _ h t; cases h
  exact ⟨(by decide : 0xB4 < 0xFF), by unfold instrOf; rw [wordOp_word, FmtA.ofWord_word]; rfl, fun h => absurd h (by decide : ¬seqOpcode 0xB4 = true)⟩

theorem Encoding.mzero (w) : Statement (.mzero w) := by
  intro _ _ h t; cases h
  exact ⟨(by decide : 0xC0 < 0xFF), by unfold instrOf; rw [wordOp_word, FmtA.ofWord_word]; rfl, fun _ => rfl⟩

theorem Encoding.mma (w) : Statement (.mma w) := by
  intro _ _ h t; cases h
  exact ⟨(by decide : 0xC1 < 0xFF), by unfold instrOf; rw [wordOp_word, FmtA.ofWord_word]; rfl, fun _ => rfl⟩

theorem Encoding.mmas (w) : Statement (.mmas w) := by
  intro _ _ h t; cases h
  exact ⟨(by decide : 0xC2 < 0xFF), by unfold instrOf; rw [wordOp_word, FmtA.ofWord_word]; rfl, fun _ => rfl⟩

theorem Encoding.mstore (w) : Statement (.mstore w) := by
  intro _ _ h t; cases h
  exact ⟨(by decide : 0xC3 < 0xFF), by unfold instrOf; rw [wordOp_word, FmtA.ofWord_word]; rfl, fun _ => rfl⟩

theorem Encoding.mepi (w) : Statement (.mepi w) := by
  intro _ _ h t; cases h
  exact ⟨(by decide : 0xC4 < 0xFF), by unfold instrOf; rw [wordOp_word, FmtA.ofWord_word]; rfl, fun _ => rfl⟩

theorem Encoding.mldacc (w) : Statement (.mldacc w) := by
  intro _ _ h t; cases h
  exact ⟨(by decide : 0xC5 < 0xFF), by unfold instrOf; rw [wordOp_word, FmtA.ofWord_word]; rfl, fun _ => rfl⟩

theorem Encoding.msig (w) : Statement (.msig w) := by
  intro _ _ h t; cases h
  exact ⟨(by decide : 0xC6 < 0xFF), by unfold instrOf; rw [wordOp_word, FmtA.ofWord_word]; rfl, fun _ => rfl⟩

theorem Encoding.mwait (w) : Statement (.mwait w) := by
  intro _ _ h t; cases h
  exact ⟨(by decide : 0xC7 < 0xFF), by unfold instrOf; rw [wordOp_word, FmtA.ofWord_word]; rfl, fun _ => rfl⟩

theorem Encoding.kadd (w) : Statement (.kadd w) := by
  intro _ _ h t; cases h
  exact ⟨(by decide : 0xC8 < 0xFF), by unfold instrOf; rw [wordOp_word, FmtA.ofWord_word]; rfl, fun _ => rfl⟩

theorem Encoding.kaddi (w) : Statement (.kaddi w) := by
  intro _ _ h t; cases h
  exact ⟨(by decide : 0xC9 < 0xFF), by unfold instrOf; rw [wordOp_word, FmtB.ofWord_word]; rfl, fun _ => rfl⟩

theorem Encoding.kli (w) : Statement (.kli w) := by
  intro _ _ h t; cases h
  exact ⟨(by decide : 0xCA < 0xFF), by unfold instrOf; rw [wordOp_word, FmtU.ofWord_word]; rfl, fun _ => rfl⟩

theorem Encoding.kld (w) : Statement (.kld w) := by
  intro _ _ h t; cases h
  exact ⟨(by decide : 0xCB < 0xFF), by unfold instrOf; rw [wordOp_word, FmtM.ofWord_word]; rfl, fun _ => rfl⟩

theorem Encoding.kst (w) : Statement (.kst w) := by
  intro _ _ h t; cases h
  exact ⟨(by decide : 0xCC < 0xFF), by unfold instrOf; rw [wordOp_word, FmtM.ofWord_word]; rfl, fun _ => rfl⟩

theorem Encoding.kbra (w) : Statement (.kbra w) := by
  intro _ _ h t; cases h
  exact ⟨(by decide : 0xCD < 0xFF), by unfold instrOf; rw [wordOp_word, FmtJ.ofWord_word]; rfl, fun _ => rfl⟩

theorem Encoding.kend (w) : Statement (.kend w) := by
  intro _ _ h t; cases h
  exact ⟨(by decide : 0xCE < 0xFF), by unfold instrOf; rw [wordOp_word, FmtA.ofWord_word]; rfl, fun _ => rfl⟩

theorem Encoding.mfetch (w) : Statement (.mfetch w) := by
  intro _ _ h t; cases h
  exact ⟨(by decide : 0xCF < 0xFF), by unfold instrOf; rw [wordOp_word, FmtA.ofWord_word]; rfl, fun _ => rfl⟩

theorem Encoding.mrowmax (w) : Statement (.mrowmax w) := by
  intro _ _ h t; cases h
  exact ⟨(by decide : 0xD0 < 0xFF), by unfold instrOf; rw [wordOp_word, FmtA.ofWord_word]; rfl, fun _ => rfl⟩

theorem Encoding.mrowsum (w) : Statement (.mrowsum w) := by
  intro _ _ h t; cases h
  exact ⟨(by decide : 0xD1 < 0xFF), by unfold instrOf; rw [wordOp_word, FmtA.ofWord_word]; rfl, fun _ => rfl⟩

theorem Encoding.mscale (w) : Statement (.mscale w) := by
  intro _ _ h t; cases h
  exact ⟨(by decide : 0xD2 < 0xFF), by unfold instrOf; rw [wordOp_word, FmtA.ofWord_word]; rfl, fun _ => rfl⟩

theorem Encoding.mcopy (w) : Statement (.mcopy w) := by
  intro _ _ h t; cases h
  exact ⟨(by decide : 0xD3 < 0xFF), by unfold instrOf; rw [wordOp_word, FmtA.ofWord_word]; rfl, fun _ => rfl⟩

theorem Encoding.ksub (w) : Statement (.ksub w) := by
  intro _ _ h t; cases h
  exact ⟨(by decide : 0xD4 < 0xFF), by unfold instrOf; rw [wordOp_word, FmtA.ofWord_word]; rfl, fun _ => rfl⟩

theorem Encoding.kshl (w) : Statement (.kshl w) := by
  intro _ _ h t; cases h
  exact ⟨(by decide : 0xD5 < 0xFF), by unfold instrOf; rw [wordOp_word, FmtA.ofWord_word]; rfl, fun _ => rfl⟩

theorem Encoding.kand (w) : Statement (.kand w) := by
  intro _ _ h t; cases h
  exact ⟨(by decide : 0xD6 < 0xFF), by unfold instrOf; rw [wordOp_word, FmtA.ofWord_word]; rfl, fun _ => rfl⟩

theorem Encoding.kmul (w) : Statement (.kmul w) := by
  intro _ _ h t; cases h
  exact ⟨(by decide : 0xD7 < 0xFF), by unfold instrOf; rw [wordOp_word, FmtA.ofWord_word]; rfl, fun _ => rfl⟩

theorem Encoding.mwaitt (w) : Statement (.mwaitt w) := by
  intro _ _ h t; cases h
  exact ⟨(by decide : 0xD8 < 0xFF), by unfold instrOf; rw [wordOp_word, FmtA.ofWord_word]; rfl, fun _ => rfl⟩

theorem Encoding.kor (w) : Statement (.kor w) := by
  intro _ _ h t; cases h
  exact ⟨(by decide : 0xD9 < 0xFF), by unfold instrOf; rw [wordOp_word, FmtA.ofWord_word]; rfl, fun _ => rfl⟩

theorem Encoding.myield (w) : Statement (.myield w) := by
  intro _ _ h t; cases h
  exact ⟨(by decide : 0xDA < 0xFF), by unfold instrOf; rw [wordOp_word, FmtA.ofWord_word]; rfl, fun _ => rfl⟩

theorem Encoding.translationWalk (x0) : Statement (.translationWalk x0) := by intro _ _ h; cases h

theorem Encoding.l1Refill (x0 x1) : Statement (.l1Refill x0 x1) := by intro _ _ h; cases h

theorem Encoding.tailWrite (x0 x1) : Statement (.tailWrite x0 x1) := by intro _ _ h; cases h

theorem Encoding.ringEnable (x0 x1 x2) : Statement (.ringEnable x0 x1 x2) := by intro _ _ h; cases h

theorem Encoding.ringResume (x0 x1) : Statement (.ringResume x0 x1) := by intro _ _ h; cases h

theorem Encoding.recordCheck (x0) : Statement (.recordCheck x0) := by intro _ _ h; cases h

theorem Encoding.recordBegin (x0) : Statement (.recordBegin x0) := by intro _ _ h; cases h

theorem Encoding.recordComplete (x0 x1) : Statement (.recordComplete x0 x1) := by intro _ _ h; cases h

theorem Encoding.hoopEvaluation : Statement (.hoopEvaluation) := by intro _ _ h; cases h

theorem Encoding.motifPlacement (x0 x1 x2) : Statement (.motifPlacement x0 x1 x2) := by intro _ _ h; cases h

theorem Encoding.motifRetire (x0) : Statement (.motifRetire x0) := by intro _ _ h; cases h

theorem Encoding.clusterSwitch (x0 x1) : Statement (.clusterSwitch x0 x1) := by intro _ _ h; cases h

theorem Encoding.chunkPerformed (x0 x1 x2 x3) : Statement (.chunkPerformed x0 x1 x2 x3) := by intro _ _ h; cases h

theorem Encoding.commandComplete (x0 x1 x2) : Statement (.commandComplete x0 x1 x2) := by intro _ _ h; cases h

theorem Encoding.atsResponse (x0) : Statement (.atsResponse x0) := by intro _ _ h; cases h

theorem Encoding.priResponse (x0) : Statement (.priResponse x0) := by intro _ _ h; cases h

theorem Encoding.atsInvalidation (x0 x1 x2 x3) : Statement (.atsInvalidation x0 x1 x2 x3) := by intro _ _ h; cases h

theorem Encoding.invalidate (x0 x1) : Statement (.invalidate x0 x1) := by intro _ _ h; cases h

theorem Encoding.s2Invalidate (x0 x1) : Statement (.s2Invalidate x0 x1) := by intro _ _ h; cases h

theorem Encoding.invalidationComplete (x0 x1) : Statement (.invalidationComplete x0 x1) := by intro _ _ h; cases h

theorem Encoding.resolveRetry (x0 x1) : Statement (.resolveRetry x0 x1) := by intro _ _ h; cases h

theorem Encoding.resolveFail (x0 x1) : Statement (.resolveFail x0 x1) := by intro _ _ h; cases h

theorem Encoding.s2ResolveRetry (x0) : Statement (.s2ResolveRetry x0) := by intro _ _ h; cases h

theorem Encoding.s2ResolveFail (x0) : Statement (.s2ResolveFail x0) := by intro _ _ h; cases h

theorem Encoding.frameFormat (x0 x1) : Statement (.frameFormat x0 x1) := by intro _ _ h; cases h

theorem Encoding.frameFormatComplete (x0) : Statement (.frameFormatComplete x0) := by intro _ _ h; cases h

theorem Encoding.hostWindowAccess (x0) : Statement (.hostWindowAccess x0) := by intro _ _ h; cases h

theorem Encoding.ingressData (x0) : Statement (.ingressData x0) := by intro _ _ h; cases h

theorem Encoding.evtimerExpiry (x0 x1) : Statement (.evtimerExpiry x0 x1) := by intro _ _ h; cases h

theorem Encoding.signal (x0 x1) : Statement (.signal x0 x1) := by intro _ _ h; cases h

theorem Encoding.ctxHalt (x0 x1) : Statement (.ctxHalt x0 x1) := by intro _ _ h; cases h

theorem Encoding.ctxResume (x0 x1) : Statement (.ctxResume x0 x1) := by intro _ _ h; cases h

theorem Encoding.ctxPreempt (x0 x1) : Statement (.ctxPreempt x0 x1) := by intro _ _ h; cases h

theorem Encoding.ctxTeardown (x0 x1) : Statement (.ctxTeardown x0 x1) := by intro _ _ h; cases h

theorem Encoding.stopDeadlineExpiry (x0 x1) : Statement (.stopDeadlineExpiry x0 x1) := by intro _ _ h; cases h

theorem Encoding.drainLimitExpiry (x0) : Statement (.drainLimitExpiry x0) := by intro _ _ h; cases h

theorem Encoding.motifSave (x0) : Statement (.motifSave x0) := by intro _ _ h; cases h

theorem Encoding.motifRestore (x0 x1 x2) : Statement (.motifRestore x0 x1 x2) := by intro _ _ h; cases h

theorem Encoding.sliceExpiry (x0) : Statement (.sliceExpiry x0) := by intro _ _ h; cases h

theorem Encoding.energyTick : Statement (.energyTick) := by intro _ _ h; cases h

theorem Encoding.shareCommit (x0) : Statement (.shareCommit x0) := by intro _ _ h; cases h

theorem Encoding.thermalEvent (x0 x1) : Statement (.thermalEvent x0 x1) := by intro _ _ h; cases h

theorem Encoding.unitRetire (x0) : Statement (.unitRetire x0) := by intro _ _ h; cases h

theorem Encoding.linkDegrade (x0 x1 x2) : Statement (.linkDegrade x0 x1 x2) := by intro _ _ h; cases h

theorem Encoding.infieldTest (x0) : Statement (.infieldTest x0) := by intro _ _ h; cases h

theorem Encoding.scanTestComplete (x0 x1) : Statement (.scanTestComplete x0 x1) := by intro _ _ h; cases h

theorem Encoding.migrateOut (x0) : Statement (.migrateOut x0) := by intro _ _ h; cases h

theorem Encoding.migrateIn (x0) : Statement (.migrateIn x0) := by intro _ _ h; cases h

theorem Encoding.rdreq (x0 x1) : Statement (.rdreq x0 x1) := by intro _ _ h; cases h

theorem Encoding.rdrsp (x0 x1) : Statement (.rdrsp x0 x1) := by intro _ _ h; cases h

theorem Encoding.putPacket (x0 x1) : Statement (.putPacket x0 x1) := by intro _ _ h; cases h

theorem Encoding.putack (x0 x1) : Statement (.putack x0 x1) := by intro _ _ h; cases h

theorem Encoding.atomPacket (x0 x1) : Statement (.atomPacket x0 x1) := by intro _ _ h; cases h

theorem Encoding.atomrsp (x0 x1) : Statement (.atomrsp x0 x1) := by intro _ _ h; cases h

theorem Encoding.redPacket (x0 x1) : Statement (.redPacket x0 x1) := by intro _ _ h; cases h

theorem Encoding.marker (x0 x1) : Statement (.marker x0 x1) := by intro _ _ h; cases h

theorem Encoding.doneCtrl (x0 x1) : Statement (.doneCtrl x0 x1) := by intro _ _ h; cases h

theorem Encoding.completeCtrl (x0 x1) : Statement (.completeCtrl x0 x1) := by intro _ _ h; cases h

theorem Encoding.failCtrl (x0 x1) : Statement (.failCtrl x0 x1) := by intro _ _ h; cases h

theorem Encoding.snapreq (x0 x1) : Statement (.snapreq x0 x1) := by intro _ _ h; cases h

theorem Encoding.snapans (x0 x1) : Statement (.snapans x0 x1) := by intro _ _ h; cases h

theorem Encoding.packetForward (x0 x1) : Statement (.packetForward x0 x1) := by intro _ _ h; cases h

theorem Encoding.requestTimeout (x0) : Statement (.requestTimeout x0) := by intro _ _ h; cases h

theorem Encoding.queueStallReport (x0 x1 x2) : Statement (.queueStallReport x0 x1 x2) := by intro _ _ h; cases h

theorem Encoding.linkFail (x0) : Statement (.linkFail x0) := by intro _ _ h; cases h

theorem Encoding.linkTraining (x0 x1 x2 x3) : Statement (.linkTraining x0 x1 x2 x3) := by intro _ _ h; cases h

theorem Encoding.fumaroleStream (x0 x1) : Statement (.fumaroleStream x0 x1) := by intro _ _ h; cases h

theorem Encoding.chipDone (x0 x1) : Statement (.chipDone x0 x1) := by intro _ _ h; cases h

theorem Encoding.colourFree (x0 x1) : Statement (.colourFree x0 x1) := by intro _ _ h; cases h

theorem Encoding.cutAbort (x0 x1) : Statement (.cutAbort x0 x1) := by intro _ _ h; cases h

theorem Encoding.restore (x0 x1) : Statement (.restore x0 x1) := by intro _ _ h; cases h

theorem Encoding.restoreChip (x0) : Statement (.restoreChip x0) := by intro _ _ h; cases h

theorem Encoding.powerOnReset (x0) : Statement (.powerOnReset x0) := by intro _ _ h; cases h

theorem Encoding.perstPort1 : Statement (.perstPort1) := by intro _ _ h; cases h

theorem Encoding.pfFlr : Statement (.pfFlr) := by intro _ _ h; cases h

theorem Encoding.vfFlr (x0) : Statement (.vfFlr x0) := by intro _ _ h; cases h

theorem Encoding.recoveryLoad (x0) : Statement (.recoveryLoad x0) := by intro _ _ h; cases h

theorem Encoding.floorAdvance (x0) : Statement (.floorAdvance x0) := by intro _ _ h; cases h

theorem Encoding.getMeasurements (x0) : Statement (.getMeasurements x0) := by intro _ _ h; cases h

theorem Encoding.lmsSignatureRequest (x0) : Statement (.lmsSignatureRequest x0) := by intro _ _ h; cases h

theorem Encoding.featureAccept (x0 x1) : Statement (.featureAccept x0 x1) := by intro _ _ h; cases h

theorem Encoding.queueEnable (x0 x1) : Statement (.queueEnable x0 x1) := by intro _ _ h; cases h

theorem Encoding.winsliceWrite (x0 x1) : Statement (.winsliceWrite x0 x1) := by intro _ _ h; cases h

theorem Encoding.quadcapWrite (x0 x1) : Statement (.quadcapWrite x0 x1) := by intro _ _ h; cases h

theorem Encoding.ringownWrite (x0 x1) : Statement (.ringownWrite x0 x1) := by intro _ _ h; cases h

theorem Encoding.waymaskWrite (x0 x1) : Statement (.waymaskWrite x0 x1) := by intro _ _ h; cases h

theorem Encoding.invcountRead (x0 x1) : Statement (.invcountRead x0 x1) := by intro _ _ h; cases h

theorem Encoding.ctxstatRead (x0) : Statement (.ctxstatRead x0) := by intro _ _ h; cases h

theorem Encoding.registerWrite (x0 x1 x2 x3) : Statement (.registerWrite x0 x1 x2 x3) := by intro _ _ h; cases h

theorem Encoding.unassignedOpcode (x0) : Statement (.unassignedOpcode x0) := by intro _ _ h; cases h

theorem Encoding.accessPerformed (x0) : Statement (.accessPerformed x0) := by intro _ _ h; cases h

theorem Encoding.kStep (x0) : Statement (.kStep x0) := by intro _ _ h; cases h

theorem Encoding.arbiterSlot (x0 x1 x2) : Statement (.arbiterSlot x0 x1 x2) := by intro _ _ h; cases h

theorem Encoding.queueHeadWrite (x0 x1) : Statement (.queueHeadWrite x0 x1) := by intro _ _ h; cases h

theorem Encoding.packetDropped (x0 x1) : Statement (.packetDropped x0 x1) := by intro _ _ h; cases h

theorem Encoding.flitReplay (x0) : Statement (.flitReplay x0) := by intro _ _ h; cases h

theorem Encoding.restoreConfirmation (x0 x1) : Statement (.restoreConfirmation x0 x1) := by intro _ _ h; cases h

end

end Sys2Proof.Laws
end

