-- ==== Sys2Proof/Laws/Stops.lean ====
section
/-! SUPPORT. What the frames of the two streams answer once the body of an instruction is known: completed, moved, trapped
or waiting for a strand; completed, faulted or waiting for the sequencer. Later proofs cite these and unfold no frame. -/

namespace Sys2Proof.Machine

/-- A control instruction whose body answers a state ends there, its slot where the body put it. -/
theorem runControl_next {s s' : State} {i : Instr} {q : Iss} (body : Iss → State → Except Stop State) (h : Issues s i q)
    (hsh : i.shape.isSome) (hb : body q s = .ok s') : runControl i body s = .next (ended q i s') := by
  obtain ⟨q0, h0, he⟩ := issues_issuer h
  obtain ⟨e, hs⟩ := Option.isSome_iff_exists.mp hsh
  unfold runControl
  rw [h0]
  simp only
  rw [strandStep_ok true body h h0 he hs hb]
  simp [ended, hs]

/-- A stop that is no short stall ends the issue with the stop settled. -/
theorem afterStop_settles {x : Stop} (hx : ∀ s', x ≠ .block .ready s') (q : Iss) (sh : Shape) (us : List Use) (s : State) :
    afterStop q sh us s x = afterIssue q sh us (settle q s x) := by
  unfold afterStop
  split
  · next s' => exact absurd rfl (hx s')
  · rfl

/-- A strand instruction whose body stops it, in no short stall, ends with the stop settled. -/
theorem runStrand_stop {s : State} {i : Instr} {q : Iss} (body : Iss → State → Except Stop State) (h : Issues s i q)
    (hsh : i.shape.isSome) {x : Stop} (hx : ∀ s', x ≠ .block .ready s') (hb : body q s = .error x) : runStrand i body s = .next (ended q i (settle q s x)) := by
  obtain ⟨q0, h0, he⟩ := issues_issuer h
  obtain ⟨e, hs⟩ := Option.isSome_iff_exists.mp hsh
  unfold runStrand
  rw [h0]
  simp only
  rw [strandStep_error false body h h0 he hs hb, afterStop_settles hx]
  simp [ended, hs]

theorem runControl_stop {s : State} {i : Instr} {q : Iss} (body : Iss → State → Except Stop State) (h : Issues s i q)
    (hsh : i.shape.isSome) {x : Stop} (hx : ∀ s', x ≠ .block .ready s') (hb : body q s = .error x) : runControl i body s = .next (ended q i (settle q s x)) := by
  obtain ⟨q0, h0, he⟩ := issues_issuer h
  obtain ⟨e, hs⟩ := Option.isSome_iff_exists.mp hsh
  unfold runControl
  rw [h0]
  simp only
  rw [strandStep_error true body h h0 he hs hb, afterStop_settles hx]
  simp [ended, hs]

/-- A trap that the strand can take enters the handler, with its own address in trappc unless its cause completes first
(R30, R31). -/
theorem settle_trap {s : State} {q : Iss} (h : q.canTrap) (cause : Nat) (value : Word) :
    settle q s (.trap cause value) = entered q cause value (if trapCompletes cause then q.next else q.pc) s := by
  unfold settle takeTrap
  rw [h.1]
  simp only [Bool.false_eq_true, if_false]
  rw [if_neg h.2]
  rfl

/-- A wait leaves the slot at its word (R137). -/
theorem settle_block (s s' : State) (q : Iss) (w : Wait) : settle q s (.block w s') = waiting q w s' := rfl

/-- A strand instruction whose body traps, before any effect, takes the trap. -/
theorem runStrand_trap {s : State} {i : Instr} {q : Iss} (body : Iss → State → Except Stop State) (h : Issues s i q)
    (hsh : i.shape.isSome) (hc : q.canTrap) {cause : Nat} {value : Word} (ht : trapCompletes cause = false)
    (hb : body q s = .error (.trap cause value)) : runStrand i body s = .next (ended q i (entered q cause value q.pc s)) := by
  rw [runStrand_stop (x := .trap cause value) body h hsh (fun _ => nofun) hb, settle_trap hc, ht]
  rfl

theorem runControl_trap {s : State} {i : Instr} {q : Iss} (body : Iss → State → Except Stop State) (h : Issues s i q)
    (hsh : i.shape.isSome) (hc : q.canTrap) {cause : Nat} {value : Word} (ht : trapCompletes cause = false)
    (hb : body q s = .error (.trap cause value)) : runControl i body s = .next (ended q i (entered q cause value q.pc s)) := by
  rw [runControl_stop (x := .trap cause value) body h hsh (fun _ => nofun) hb, settle_trap hc, ht]
  rfl

/-! ## The sequencer -/

theorem updFirst_twice {α : Type} (p : α → Bool) (f g : α → α) (h : ∀ x, p x = true → p (f x) = true) (l : List α) :
    updFirst p g (updFirst p f l) = updFirst p (fun x => g (f x)) l := by
  induction l with
  | nil => rfl
  | cons x l ih =>
    by_cases hx : p x = true
    · simp [updFirst, hx, h x hx]
    · simp [updFirst, hx, ih]

theorem updMotif_twice (s : State) (uid : Nat) (f g : Motif → Motif) (h : ∀ m, (f m).uid = m.uid) :
    updMotif (updMotif s uid f) uid g = updMotif s uid fun m => g (f m) := by
  unfold updMotif
  simp only
  rw [updFirst_twice]
  intro x hx
  simpa [h] using hx

theorem updSeq_twice (s : State) (uid : Nat) (f g : Sequencer → Sequencer) :
    updSeq (updSeq s uid f) uid g = updSeq s uid fun z => g (f z) := by
  unfold updSeq
  rw [updMotif_twice s uid (fun m => { m with seq := m.seq.map f }) _ fun _ => rfl]
  simp [Function.comp_def]

/-- A sequencer instruction whose body leaves the sequencer as `q` and nothing else changed completes. -/
theorem runSeq_does {s : State} {i : Instr} {z : SeqIss} (body : SeqIss → State → Except SeqStop State) (h : SeqIssues s i z)
    (f : Sequencer → Sequencer) (hb : body z s = .ok (updSeq s z.m.uid f)) : runSeq i body s =
      .next (elapse (updSeq s z.m.uid fun q => { f q with pc := z.off + 4, wait := false, waits := [] }) 1) := by
  unfold runSeq
  rw [h.issuer]
  simp only
  unfold seqStep
  rw [if_neg (by simp [h.running]), if_neg (by simp [h.features]), hb]
  simp only
  rw [updSeq_twice]
  simp

/-- A sequencer instruction whose body faults stops its sequencer (R324). -/
theorem runSeq_faults {s : State} {i : Instr} {z : SeqIss} (body : SeqIss → State → Except SeqStop State) (h : SeqIssues s i z)
    {code detail : Nat} {rows : List Nat} (hb : body z s = .error (.fault code detail rows)) :
    runSeq i body s = .next (elapse (seqFaultAt s z.m z.off code detail rows z.q.work) 1) := by
  unfold runSeq
  rw [h.issuer]
  simp only
  unfold seqStep
  rw [if_neg (by simp [h.running]), if_neg (by simp [h.features]), hb]

/-- A sequencer instruction whose body waits stays at its word (R323). -/
theorem runSeq_waits {s s' : State} {i : Instr} {z : SeqIss} (body : SeqIss → State → Except SeqStop State) (h : SeqIssues s i z)
    (hb : body z s = .error (.wait s')) :
    runSeq i body s = .next (elapse (updSeq s' z.m.uid fun q => { q with wait := true }) 1) := by
  unfold runSeq
  rw [h.issuer]
  simp only
  unfold seqStep
  rw [if_neg (by simp [h.running]), if_neg (by simp [h.features]), hb]

end Sys2Proof.Machine
end

