-- ==== Sys2Proof/Laws/Stores.lean ====
section
/-! SUPPORT. Every operation on the bytes of a store keeps its canonical form, and the state operations above them keep the
form of all five stores. -/

namespace Sys2Proof.Machine

theorem wf_nil : Memory.wf [] = true := rfl

theorem writeBack_wf (free : Nat) (m : Memory) (l : HostLine) (h : m.wf = true) : (writeBack free m l).wf = true := by
  unfold writeBack
  dsimp only
  generalize l.changed ++ _ = is
  induction is generalizing m with
  | nil => exact h
  | cons i is ih => exact ih _ (tset_wf 0 m _ _ h)

theorem storesWf_iff (s : State) : s.storesWf = true ↔
    s.mem.wf = true ∧ s.tier2.wf = true ∧ s.window.wf = true ∧ s.hostMem.wf = true ∧ s.hostBus.wf = true := by
  simp [State.storesWf, and_assoc]

theorem reset_storesWf : State.reset.storesWf = true := by decide

theorem spaceMem_wf {s : State} (h : s.storesWf = true) (sp : Space) : (spaceMem s sp).wf = true := by
  obtain ⟨h1, h2, h3, h4, _⟩ := (storesWf_iff s).1 h
  cases sp <;> assumption

theorem setSpaceMem_storesWf {s : State} (h : s.storesWf = true) (sp : Space) {m : Memory} (hm : m.wf = true) :
    (setSpaceMem s sp m).storesWf = true := by
  rw [storesWf_iff] at h ⊢
  cases sp <;> simp_all [setSpaceMem]

/-- Two states with the same five stores. -/
def SameStores (s t : State) : Prop :=
  t.mem = s.mem ∧ t.tier2 = s.tier2 ∧ t.window = s.window ∧ t.hostMem = s.hostMem ∧ t.hostBus = s.hostBus

theorem SameStores.refl (s : State) : SameStores s s := ⟨rfl, rfl, rfl, rfl, rfl⟩

theorem SameStores.trans {s t u : State} (h : SameStores s t) (g : SameStores t u) : SameStores s u := by
  obtain ⟨a, b, c, d, e⟩ := h
  obtain ⟨a', b', c', d', e'⟩ := g
  exact ⟨a'.trans a, b'.trans b, c'.trans c, d'.trans d, e'.trans e⟩

theorem SameStores.wf {s t : State} (h : SameStores s t) (hs : s.storesWf = true) : t.storesWf = true := by
  obtain ⟨a, b, c, d, e⟩ := h
  rw [storesWf_iff] at hs ⊢
  rw [a, b, c, d, e]
  exact hs

/-- A fold of operations that each keep the form keeps it. -/
theorem foldl_storesWf {α : Type} (f : State → α → State) (hf : ∀ s a, s.storesWf = true → (f s a).storesWf = true)
    (l : List α) (s : State) (h : s.storesWf = true) : (l.foldl f s).storesWf = true := by
  induction l generalizing s with
  | nil => exact h
  | cons a l ih => exact ih _ (hf s a h)

theorem updMotif_stores (s : State) (uid : Nat) (f : Motif → Motif) : SameStores s (updMotif s uid f) := ⟨rfl, rfl, rfl, rfl, rfl⟩

theorem updStrand_stores (s : State) (uid j : Nat) (f : Strand → Strand) : SameStores s (updStrand s uid j f) :=
  ⟨rfl, rfl, rfl, rfl, rfl⟩

theorem updVdev_stores (s : State) (vd : Nat) (f : VDev → VDev) : SameStores s (updVdev s vd f) := ⟨rfl, rfl, rfl, rfl, rfl⟩

theorem send_stores (s : State) (m : Out) : SameStores s (send s m) := ⟨rfl, rfl, rfl, rfl, rfl⟩

theorem charge_stores (s : State) (vd idx n : Nat) : SameStores s (charge s vd idx n) := ⟨rfl, rfl, rfl, rfl, rfl⟩

theorem hostBus_storesWf {s : State} (h : s.storesWf = true) {m : Memory} (hm : m.wf = true) :
    ({ s with hostBus := m } : State).storesWf = true := by
  rw [storesWf_iff] at h ⊢
  simp_all

theorem push_wf (q : QBlock) (bus : Memory) (fn : Nat) (entry : List Byte) (h : bus.wf = true) : (q.push bus fn entry).1.wf = true :=
  writeBytes_wf _ _ _ h

theorem pushErr_storesWf (s : State) (vd : Nat) (entry : Nat → List Byte) (h : s.storesWf = true) :
    (pushErr s vd entry).storesWf = true := by
  have hb := ((storesWf_iff s).1 h).2.2.2.2
  unfold pushErr
  dsimp only
  split
  · exact h
  · split
    · exact (updVdev_stores ..).wf h
    · have := hostBus_storesWf h (push_wf (vdevOf s vd).errq s.hostBus vd (entry (vdevOf s vd).errq.lostSince) hb)
      split
      · exact (send_stores ..).wf ((updVdev_stores ..).wf this)
      · exact (updVdev_stores ..).wf this

theorem reportErr_storesWf (s : State) (e : ErrInfo) (h : s.storesWf = true) : (reportErr s e).storesWf = true :=
  pushErr_storesWf s _ _ h

theorem logEvent_storesWf (s : State) (code n : Nat) (h : s.storesWf = true) : (logEvent s code n).storesWf = true := by
  have hb := ((storesWf_iff s).1 h).2.2.2.2
  unfold logEvent
  generalize leBytes 1 code ++ leBytes 7 0 ++ leBytes 8 n ++ leBytes 16 0 = e
  have hw := hostBus_storesWf h (push_wf s.syslog s.hostBus 32 e hb)
  dsimp only
  split
  · exact h
  · split
    · exact SameStores.wf (s := s) ⟨rfl, rfl, rfl, rfl, rfl⟩ h
    · split <;> exact SameStores.wf ⟨rfl, rfl, rfl, rfl, rfl⟩ hw

theorem reportFault_storesWf (s : State) (f : PFault) (h : s.storesWf = true) : (reportFault s f).storesWf = true := by
  have hb := ((storesWf_iff s).1 h).2.2.2.2
  unfold reportFault
  generalize f.bytes = e
  have hw := fun q fn => hostBus_storesWf h (push_wf q s.hostBus fn e hb)
  cases f.stage2 <;> simp only [Bool.false_eq_true, if_false, if_true]
  · have := hw (vdevOf s (cidVd f.cid)).faultq (cidVd f.cid)
    split
    · exact h
    · split <;> exact SameStores.wf ⟨rfl, rfl, rfl, rfl, rfl⟩ this
  · have := hw s.s2faultq 32
    split
    · exact h
    · split <;> exact SameStores.wf ⟨rfl, rfl, rfl, rfl, rfl⟩ this

theorem reportWaiting_storesWf (s : State) (h : s.storesWf = true) : (reportWaiting s).storesWf = true :=
  foldl_storesWf _ reportFault_storesWf _ _ h

theorem raiseFault_storesWf (s : State) (st2 : Bool) (cid : Cid) (page kind : Nat) (a : BitVec 8) (h : s.storesWf = true) :
    (raiseFault s st2 cid page kind a).1.storesWf = true := by
  unfold raiseFault
  split
  · exact h
  · exact reportFault_storesWf _ _ (SameStores.wf (s := s) ⟨rfl, rfl, rfl, rfl, rfl⟩ h)

theorem flushLines_storesWf (s : State) (p : HostLine → Bool) (drop : Bool) (h : s.storesWf = true) :
    (flushLines s p drop).storesWf = true := by
  rw [storesWf_iff] at h ⊢
  refine ⟨h.1, h.2.1, h.2.2.1, ?_, h.2.2.2.2⟩
  show Memory.wf ((s.hostLines.filter p).foldl (writeBack s.free) s.hostMem) = true
  have hm := h.2.2.2.1
  generalize s.hostLines.filter p = l
  generalize s.hostMem = m at hm ⊢
  induction l generalizing m with
  | nil => exact hm
  | cons a l ih => exact ih _ (writeBack_wf _ m a hm)

theorem setLineTag_stores (s : State) (p : PAddr) (t : BitVec 4) : SameStores s (setLineTag s p t) := by
  unfold setLineTag; split <;> exact ⟨rfl, rfl, rfl, rfl, rfl⟩

theorem setGranuleTag_stores (s : State) (p : PAddr) (t : BitVec 16) : SameStores s (setGranuleTag s p t) := by
  unfold setGranuleTag; split <;> exact ⟨rfl, rfl, rfl, rfl, rfl⟩

theorem updJob_stores (s : State) (cid : Cid) (f : Job → Job) : SameStores s (updJob s cid f) := by
  unfold updJob; split <;> exact ⟨rfl, rfl, rfl, rfl, rfl⟩

theorem patchCuts_stores (s : State) (cid : Cid) (e : Nat) (p : PAddr) (comp : Bool) (bytes : Option (List Byte)) :
    SameStores s (patchCuts s cid e p comp bytes) := by
  unfold patchCuts
  split
  · exact SameStores.refl s
  · exact updJob_stores ..

theorem tagEpoch_stores (s : State) (p : PAddr) (e : Nat) : SameStores s (tagEpoch s p e) := by
  unfold tagEpoch
  split
  · exact SameStores.refl s
  · exact setGranuleTag_stores ..

theorem dropLatent_stores (s : State) (p : PAddr) : SameStores s (dropLatent s p) := ⟨rfl, rfl, rfl, rfl, rfl⟩

theorem poisonLine_storesWf (s : State) (p : PAddr) (cause : Nat) (finder job : Option Cid) (h : s.storesWf = true) :
    (poisonLine s p cause finder job).storesWf = true := by
  have h2 : (dropLatent (setLineTag s p 15) p).storesWf = true :=
    (dropLatent_stores ..).wf ((setLineTag_stores s p 15).wf h)
  unfold poisonLine
  dsimp only
  split
  · exact logEvent_storesWf _ _ _ h2
  · split
    · split <;> exact reportErr_storesWf _ _ h2
    · exact reportErr_storesWf _ _ h2

theorem discoverBy_storesWf (s : State) (p : PAddr) (finder job : Option Cid) (h : s.storesWf = true) :
    (discoverBy s p finder job).storesWf = true := by
  unfold discoverBy
  split
  · exact h
  · split
    · exact poisonLine_storesWf _ _ _ _ _ h
    · split
      · exact logEvent_storesWf _ _ _ ((dropLatent_stores ..).wf h)
      · exact h

theorem discover_storesWf (s : State) (p : PAddr) (finder : Cid) (h : s.storesWf = true) : (discover s p finder).storesWf = true :=
  discoverBy_storesWf _ _ _ _ h

theorem scanGranule_storesWf (s : State) (p : PAddr) (cid : Cid) (h : s.storesWf = true) : (scanGranule s p cid).storesWf = true :=
  foldl_storesWf _ (fun _ _ => discoverBy_storesWf _ _ _ _) _ _ h

theorem preserve_storesWf (s : State) (cid : Cid) (snap : Bool) (p : PAddr) (va : Nat) (h : s.storesWf = true) :
    (preserve s cid snap p va).storesWf = true := by
  unfold preserve
  dsimp only
  split
  · exact (updJob_stores ..).wf (scanGranule_storesWf _ _ _ h)
  · exact h

theorem beforeWrite_storesWf (s : State) (cid : Cid) (p : PAddr) (n : Nat) (h : s.storesWf = true) :
    (beforeWrite s cid p n).storesWf = true := by
  unfold beforeWrite
  split
  · exact h
  · exact discover_storesWf _ _ _ h

/-- A write to a line at its home keeps the form of every store. -/
theorem homeWrite_storesWf (s : State) (cid : Cid) (epoch : Nat) (p : PAddr) (comp snap : Bool) (va : Nat) (bytes : List Byte)
    (h : s.storesWf = true) : (homeWrite s cid epoch p comp snap va bytes).1.storesWf = true := by
  have hd := beforeWrite_storesWf s cid p bytes.length h
  unfold homeWrite
  dsimp only
  split
  · exact hd
  · have h1 := preserve_storesWf _ cid snap p va hd
    split
    · exact h1
    · have h2 := setSpaceMem_storesWf h1 p.space (writeBytes_wf _ p.addr bytes (spaceMem_wf h1 p.space))
      generalize setSpaceMem _ p.space _ = u at h2 ⊢
      have h3 := fun t => (setLineTag_stores u p t).wf h2
      refine (tagEpoch_stores ..).wf ((patchCuts_stores ..).wf ?_)
      split
      · exact (dropLatent_stores _ p).wf (h3 _)
      · exact h3 _

/-- A write of poisoned data keeps the form of every store. -/
theorem poisonWrite_storesWf (s : State) (cid : Cid) (epoch : Nat) (p : PAddr) (snap : Bool) (va cause : Nat)
    (finder : Option Cid) (h : s.storesWf = true) : (poisonWrite s cid epoch p snap va cause finder).storesWf = true := by
  have h1 : (if lineTag s p == 15 then s else preserve s cid snap p va).storesWf = true := by
    split
    · exact h
    · exact preserve_storesWf _ _ _ _ _ h
  unfold poisonWrite
  dsimp only
  generalize (if lineTag s p == 15 then s else preserve s cid snap p va) = u at h1 ⊢
  split
  · exact h1
  · exact (tagEpoch_stores ..).wf ((patchCuts_stores ..).wf (poisonLine_storesWf _ _ _ _ _ h1))

end Sys2Proof.Machine
end

