-- ==== Sys2Proof/Tests/Slice0.lean ====
section
/-! SUPPORT. The model's own tests: an ill-formed term for each check of well-formedness, words written out from the spec's
encodings, one-step tests on small states with expected values from the spec's worked examples or by hand, and for each
statement with hypotheses a concrete state and operands that meet them. -/

namespace Sys2Proof.Tests

open Sys2Proof.Machine

set_option Elab.async false

/-! ## Well-formedness: a term that each check refuses -/

/-- R66, R93 to R104: type codes that the instruction does not define. -/
theorem test_wf_refuses_integer_fn :
    ∀ i ∈ ([
      .and none ⟨1, 1, 2, 3⟩, .clz none ⟨4, 1, 2, 0⟩, .bfe none ⟨2, 1, 2, 3⟩, .mulw none ⟨2, 1, 2, 3⟩,
      .bfi none ⟨1, 1, 2, 3⟩, .prmt none ⟨1, 1, 2, 3⟩, .lea none ⟨4, 2, 2, 4⟩, .readlane none ⟨1, 97, 2, 98⟩,
      .dot4 none ⟨3, 1, 2, 3⟩] : List Instr), i.wf = false := by decide

/-- R65: a non-zero field that the instruction does not use. -/
theorem test_wf_refuses_unused_field :
    ∀ i ∈ ([
      .clz none ⟨0, 1, 2, 1⟩, .mov none ⟨0, 1, 2, 1⟩, .nop none ⟨0, 0, 0, 1⟩, .exit none ⟨0, 1, 0, 0⟩,
      .ret none ⟨0, 1, 98, 0⟩, .calli none ⟨0, 98, 100, 1⟩, .join none ⟨0, 1, 97, 0⟩, .xyield none ⟨0, 1, 97, 98⟩,
      .tlwait none ⟨0, 1, 98, 0⟩, .qstat none ⟨0, 97, 92, 0⟩, .evwait none ⟨0, 97, 98, 1⟩, .qtry none ⟨0, 1, 92, 1⟩,
      .xcancel none ⟨0, 97, 98, 1⟩, .tlread none ⟨0, 98, 1, 0⟩, .tlinc none ⟨0, 97, 1, 98⟩, .tdef none ⟨0, 1, 97, 0⟩,
      .tinvAll none ⟨1, 0, 97, 0⟩, .tstat none ⟨0, 97, 98, 1⟩, .seedexp none ⟨0, 1, 98, 1⟩, .snap none ⟨0, 97, 1, 0⟩,
      .snapwait none ⟨0, 97, 98, 1⟩, .snapstat none ⟨0, 97, 98, 1⟩, .privaddr none ⟨0, 2, 1, 1⟩, .cconv none ⟨1, 1, 98, 99⟩,
      .boinit none ⟨0, 1, 97, 98⟩, .hflush none ⟨0, 1, 98, 99⟩, .xtile none ⟨1, 97, 100, 96⟩, .window none ⟨1, 96, 0⟩,
      .getpc none ⟨98, 1, 0⟩, .trap none ⟨1, 0⟩, .bra none ⟨0, 1, 0⟩, .bar none ⟨1, 96, 0⟩] : List Instr), i.wf = false := by decide

/-- R66, R152 to R163: type codes that the float instructions do not define. -/
theorem test_wf_refuses_float_fn :
    ∀ i ∈ ([
      .fadd none ⟨4, 1, 2, 3⟩, .fsqrt none ⟨0, 1, 2, 3⟩, .fsin none ⟨1, 1, 2, 0⟩, .fcvt none ⟨1, 1, 2, 0x01⟩,
      .fcvt none ⟨0, 1, 2, 0x60⟩, .icvt none ⟨1, 1, 2, 0⟩, .icvt none ⟨0, 1, 2, 4⟩, .fpack none ⟨6, 1, 2, 3⟩,
      .funpk none ⟨0, 2, 2, 1⟩, .fdot2 none ⟨0, 1, 2, 3⟩] : List Instr), i.wf = false := by decide

/-- R163 to R168, R258 to R269: codes of the cross-lane and memory instructions. -/
theorem test_wf_refuses_lanes_and_memory_fn :
    ∀ i ∈ ([
      .shfl none ⟨5, 1, 2, 3⟩, .vote none ⟨3, 97, 2, 0⟩, .ballot none ⟨1, 97, 2, 0⟩, .redux none ⟨4, 97, 2, 0x30⟩,
      .redux none ⟨0, 97, 2, 8⟩, .scan none ⟨6, 1, 2, 0⟩, .match none ⟨2, 1, 2, 0⟩, .ld none ⟨7, 1, 98, 0⟩,
      .st none ⟨5, 1, 98, 0⟩, .pref none ⟨2, 0, 98, 0⟩, .red none ⟨2, 0, 98, 3⟩, .red none ⟨0, 2, 98, 3⟩,
      .ldt none ⟨3, 1, 97, 98⟩, .tbnd none ⟨4, 97, 98, 99⟩, .tinv none ⟨1, 0, 97, 0⟩, .tinvAll none ⟨0, 0, 0, 0⟩] : List Instr), i.wf = false := by decide

/-- R65, R68, R106, R122: reserved immediates. -/
theorem test_wf_refuses_immediates :
    ∀ i ∈ ([
      .bfei none ⟨1, 2, 30, 5⟩, .bfii none ⟨1, 2, 1, 0⟩, .llo none ⟨97, 0x8000⟩, .movs none ⟨97, 0x0A⟩,
      .movsw none ⟨97, 0x7F⟩, .bra none ⟨7, 97, 0⟩, .bdiv none ⟨6, 1, 0⟩, .loop none ⟨1, 97, 0⟩, .bar none ⟨0, 96, 32⟩] : List Instr), i.wf = false := by decide

/-- R78, R322: the sequencer's stream. -/
theorem test_wf_refuses_sequencer :
    ∀ i ∈ ([
      .mzero ⟨2, 32, 0, 0⟩, .mma ⟨1, 32, 2, 4⟩, .mstore ⟨0, 32, 2, 1⟩, .mepi ⟨4, 0, 2, 3⟩, .mldacc ⟨1, 32, 2, 0⟩,
      .msig ⟨0, 0, 0, 16⟩, .kadd ⟨1, 1, 2, 3⟩, .kend ⟨0, 0, 0, 1⟩, .mfetch ⟨0, 1, 2, 4⟩, .mscale ⟨2, 32, 33, 1⟩,
      .mwaitt ⟨0, 0, 1, 4⟩, .kld ⟨1, 1, 2, 0⟩, .kbra ⟨7, 1, 0⟩, .mcopy ⟨0, 32, 33, 1⟩] : List Instr), i.wf = false := by decide

/-- R69 to R72: a prefix field that is reserved or that the instruction cannot use, and FENCE without its prefix. -/
theorem test_wf_refuses_prefix :
    ∀ i ∈ ([
      .fence none ⟨0, 0, 0, 0⟩, .add (some ⟨27, 0, 0, false, false, 0, 0⟩) ⟨0, 1, 2, 3⟩,
      .fadd (some ⟨0, 7, 0, false, false, 0, 0⟩) ⟨0, 1, 2, 3⟩, .add (some ⟨0, 1, 0, false, false, 0, 0⟩) ⟨0, 1, 2, 3⟩,
      .add (some ⟨0, 0, 1, false, false, 0, 0⟩) ⟨0, 1, 2, 3⟩, .add (some ⟨0, 0, 0, true, false, 0, 0⟩) ⟨0, 97, 98, 99⟩,
      .add (some ⟨0, 0, 0, false, true, 0, 0⟩) ⟨1, 1, 2, 3⟩, .bra (some ⟨0, 0, 0, false, true, 0, 0⟩) ⟨0, 0, 1⟩,
      .add (some ⟨0, 0, 0, false, false, 1, 0⟩) ⟨0, 1, 2, 3⟩, .add (some ⟨0, 0, 0, false, false, 0, 13⟩) ⟨0, 1, 2, 3⟩,
      .add (some ⟨0, 0, 0, false, false, 0, 1⟩) ⟨0, 97, 98, 99⟩, .ld (some ⟨0, 2, 0, false, false, 0, 0⟩) ⟨2, 1, 98, 0⟩,
      .ld (some ⟨0, 0, 0, false, false, 1, 0⟩) ⟨2, 1, 98, 0⟩, .st (some ⟨0, 1, 0, false, false, 0, 0⟩) ⟨2, 1, 98, 0⟩,
      .atom (some ⟨0, 4, 0, false, false, 0, 0⟩) ⟨0, 1, 98, 3⟩, .red (some ⟨0, 1, 0, false, false, 0, 0⟩) ⟨0, 0, 98, 3⟩,
      .fence (some ⟨0, 0, 0, false, false, 0, 0⟩) ⟨0, 0, 0, 0⟩, .fence (some ⟨0, 2, 0, false, false, 2, 0⟩) ⟨1, 0, 0, 0⟩,
      .redux (some ⟨0, 1, 0, false, false, 0, 0⟩) ⟨0, 97, 2, 0⟩, .icvt (some ⟨0, 0, 0, false, false, 1, 0⟩) ⟨0, 1, 2, 0⟩,
      .exit (some ⟨27, 0, 0, false, false, 0, 0⟩) ⟨0, 0, 0, 0⟩] : List Instr), i.wf = false := by decide

/-- R412: a packet step with a packet of another operation. -/
theorem test_wf_refuses_packet (p : Packet) (h : p.op = 2) : (Instr.rdreq 0 p).wf = false ∧ (Instr.putPacket 0 p).wf = false := by
  simp [Instr.wf, Instr.shape, Instr.packetOp, h]

/-! ## Decoding: words with their fields as the spec's encoding places them -/

theorem test_decode_integer :
    decodeTableWord 32 0x001972E6 = some (.add none ⟨0, 101, 101, 102⟩) ∧
    decodeTableWord 32 0x1B014300 = some (.mov none ⟨0, 5, 6, 0⟩) ∧
    decodeTableWord 64 0x1FC10286FF000E00 = some (.dot4 (some ⟨0, 0, 7, false, false, 0, 0⟩) ⟨6, 4, 5, 6⟩) := by decide

theorem test_decode_immediate :
    decodeTableWord 32 0x36C58804 = some (.addip none ⟨98, 98, 4⟩) ∧
    decodeTableWord 32 0x2BCF1357 = some (.lui none ⟨103, 0x11357⟩) ∧
    decodeTableWord 32 0x2CCE4DEF = some (.llo none ⟨103, 0x04DEF⟩) ∧
    decodeTableWord 32 0x280209FF = some (.cmpi none ⟨1, 2, 3, 0x7F⟩) ∧
    decodeTableWord 32 0x33020888 = some (.bfei none ⟨1, 2, 4, 8⟩) ∧
    decodeTableWord 32 0x30018000 = some (.window none ⟨0, 96, 0⟩) := by decide

theorem test_decode_control :
    decodeTableWord 32 0x54193FFC = some (.loop none ⟨0, 100, 0x3FFC⟩) ∧
    decodeTableWord 32 0x405BBFFD = some (.bra none ⟨2, 110, 0x3FFD⟩) ∧
    decodeTableWord 32 0x46000100 = some (.jmpi none ⟨0, 0, 2, 0⟩) ∧
    decodeTableWord 32 0x4A019401 = some (.bar none ⟨0, 101, 1⟩) ∧
    decodeTableWord 32 0x4D003600 = some (.tlwait none ⟨0, 0, 108, 0⟩) ∧
    decodeTableWord 32 0x5619B280 = some (.evwait none ⟨0, 102, 101, 0⟩) ∧
    decodeTableWord 32 0x43FFFFFF = some (.call none ⟨0xFFFFFF⟩) := by decide

theorem test_decode_float :
    decodeTableWord 64 0x60004103FF020010 = some (.fadd (some ⟨0, 2, 0, false, false, 1, 0⟩) ⟨0, 1, 2, 3⟩) ∧
    decodeTableWord 32 0x76224400 = some (.qnt none ⟨1, 9, 8, 0⟩) := by decide

theorem test_decode_lanes :
    decodeTableWord 32 0x804182E7 = some (.shfl none ⟨2, 6, 5, 103⟩) ∧
    decodeTableWord 32 0x839A4280 = some (.redux none ⟨4, 105, 5, 0⟩) := by decide

theorem test_decode_memory :
    decodeTableWord 32 0x8659B100 = some (.ld none ⟨2, 102, 98, 0⟩) ∧
    decodeTableWord 32 0x87418100 = some (.st none ⟨2, 6, 2, 0⟩) ∧
    decodeTableWord 32 0x8C007103 = some (.atom none ⟨0, 1, 98, 3⟩) ∧
    decodeTableWord 32 0x8C607104 = some (.atom none ⟨3, 1, 98, 4⟩) ∧
    decodeTableWord 32 0x9519B100 = some (.cconv none ⟨0, 102, 98, 0⟩) ∧
    decodeTableWord 32 0x8C007103 = some (.atom none ⟨0, 1, 98, 3⟩) := by decide

theorem test_decode_tensors_and_engines :
    decodeTableWord 32 0xA01AB269 = some (.xcopy none ⟨0, 106, 100, 105⟩) ∧
    decodeTableWord 32 0xAC21B100 = some (.seedexp none ⟨1, 6, 98, 0⟩) ∧
    decodeTableWord 32 0xA9003280 = some (.tseal none ⟨0, 0, 101, 0⟩) ∧
    decodeTableWord 32 0xAB1AB269 = some (.seedscan none ⟨0, 106, 100, 105⟩) ∧
    decodeTableWord 32 0xAD198000 = some (.snap none ⟨0, 102, 0, 0⟩) ∧
    decodeTableWord 32 0xAE19F300 = some (.snapwait none ⟨0, 103, 102, 0⟩) := by decide

theorem test_decode_sequencer :
    decodeTableWord 32 0xC2080104 = some (.mmas ⟨0, 32, 2, 4⟩) ∧
    decodeTableWord 32 0xCA040001 = some (.kli ⟨2, 1⟩) ∧
    decodeTableWord 32 0xC3080300 = some (.mstore ⟨0, 32, 6, 0⟩) ∧
    decodeTableWord 32 0xCE000000 = some (.kend ⟨0, 0, 0, 0⟩) ∧
    decodeTableWord 32 0xC6000000 = some (.msig ⟨0, 0, 0, 0⟩) ∧
    decodeTableWord 32 0xC0080000 = some (.mzero ⟨0, 32, 0, 0⟩) := by decide

/-- R77, R79: the rows of the spec's table of words that are no instruction, and a prefix that does not fit. -/
theorem test_decode_refuses : decodeTableWord 32 0x3D000000 = none ∧ decodeTableWord 64 0xFF000000FF400000 = none ∧
    decodeTableWord 64 0x60000000FF070000 = none ∧ decodeTableWord 64 0x40000001FF000080 = none ∧
    decodeTableWord 32 0x86E00000 = none ∧ decodeTableWord 64 0xC1000000FF400000 = none ∧ decodeTableWord 32 0x90000000 = none := by
  decide

/-! ## One step -/

/-- The loaded motif with a trap handler at offset 0x40 of its image. -/
def handled (s : State) : State := updMotif s 0 fun m => { m with header := { m.header with trap := 0x40 } }

/-- The state with one more 4 KiB page of device memory that may be written, at the same address. -/
def withPage (a : Nat) (s : State) : State :=
  updCluster s 0 0 fun c => { c with tlb := { loadedPage with vbase := a, pbase := a, gpbase := a, w := true, w1 := true } :: c.tlb }

/-- The state with a word in device memory. -/
def withWord (a v : Nat) (s : State) : State := { s with mem := writeBytes s.mem a (leBytes 4 v) }

/-- The loaded strand, changed, with one instruction as its next. -/
def loaded (nbits w : Nat) (f : Strand → Strand) (g : State → State) : State :=
  g (updStrand (State.reset.withFetchWord nbits w) 0 0 f)

/-- What one step leaves. -/
def next? (s : State) : Option State :=
  match step s with
  | .next t => some t
  | _ => none

/-- The strand after one step. -/
def after (nbits w : Nat) (f : Strand → Strand) (g : State → State := id) : Option Strand :=
  (next? (loaded nbits w f g)).bind fun t => strandAt t 0 0

/-- The sequencer after one step. -/
def seqAfter (w : Nat) (f : Sequencer → Sequencer) : Option Sequencer :=
  (next? (updSeq (State.reset.withFetchWord 32 w) 0 f)).bind fun t => (motifOf t 0).bind (·.seq)

/-- A strand with scalar registers. -/
def regs (l : List (Nat × Word)) (t : Strand) : Strand := { t with sregs := l }

/-- A strand with the first lanes active alone, and a vector register in them. -/
def vec (r : Nat) (vs : List Word) (t : Strand) : Strand :=
  let t1 := { t with mask := BitVec.ofNat 96 (2 ^ vs.length - 1) }
  ((List.range vs.length).zip vs).foldl (fun t e => t.setVec r e.1 [e.2]) t1

/-- R93: 0xFFFFFFFF + 2 wraps to 1. -/
theorem test_add_wraps :
    (after 32 0x001972E6 (regs [(5, 0xFFFFFFFF), (6, 2)])).map (·.sreg 5) = some (1) := by decide

/-- R35: under sat the largest .i32 stays. -/
theorem test_add_saturates :
    (after 64 0x001972E6FF000080 (regs [(5, 0x7FFFFFFF), (6, 2)])).map (·.sreg 5) = some (0x7FFFFFFF) := by decide

/-- The worked example after R104: 130 + 10 = 140. -/
theorem test_dot4 :
    (after 64 0x1FC10286FF000E00 (fun t => vec 7 [10] (vec 6 [0x80800304] (vec 5 [0x807F02FF] t)))).map (·.vreg 4 0) = some (0x8C) := by decide

/-- The worked example after R108: lui s7. -/
theorem test_lui :
    (after 32 0x2BCF1357 (regs [(7, 5)])).map (·.sreg 7) = some (0x89AB8000) := by decide

/-- The worked example after R108: llo s7. -/
theorem test_llo :
    (after 32 0x2CCE4DEF (regs [(7, 0x89AB8000)])).map (·.sreg 7) = some (0x89ABCDEF) := by decide

/-- R93: the high half of −1 × 2 is −1. -/
theorem test_mulh :
    (after 32 0x03187163 (regs [(2, 0xFFFFFFFF), (3, 2)])).map (·.sreg 1) = some (0xFFFFFFFF) := by decide

/-- R93: a quotient by 0 is all ones. -/
theorem test_div_by_zero :
    (after 32 0x05187163 (regs [(2, 7)])).map (·.sreg 1) = some (0xFFFFFFFF) := by decide

/-- R93: the remainder of −7 by 2 has the dividend's sign. -/
theorem test_rem_sign :
    (after 32 0x06187163 (regs [(2, 0xFFFFFFF9), (3, 2)])).map (·.sreg 1) = some (0xFFFFFFFF) := by decide

/-- R93: a count of 33 leaves 0 and sign bits. -/
theorem test_shift_past_width :
    (after 32 0x0E187163 (regs [(1, 9), (2, 0x80000001), (3, 33)])).map (·.sreg 1) = some (0) ∧
    (after 32 0x10187163 (regs [(2, 0x80000001), (3, 33)])).map (·.sreg 1) = some (0xFFFFFFFF) := by decide

/-- R67: −1 < 1 with lt, not with ltu. -/
theorem test_cmpi_signed :
    (after 32 0x28C38901 (regs [(2, 0xFFFFFFFF)])).map (·.sreg 1) = some (0xFFFFFFFF) ∧
    (after 32 0x28C38B01 (regs [(1, 5), (2, 0xFFFFFFFF)])).map (·.sreg 1) = some (0) := by decide

/-- R100: 0x1_0000_0000 + (3 << 2). -/
theorem test_lea_pair :
    (after 32 0x1A58B266 (regs [(5, 1), (6, 3)])).map (fun t => (t.sreg 2, t.sreg 3)) = some (12, 1) := by decide

/-- R105: 0 + −1 as a pair. -/
theorem test_addip_borrows :
    (after 32 0x36C58BFF (id)).map (fun t => (t.sreg 2, t.sreg 3)) = some (0xFFFFFFFF, 0xFFFFFFFF) := by decide

/-- R13: a write of s0 is dropped. -/
theorem test_s0_reads_zero :
    (after 32 0x32C00007 (id)).map (·.sreg 0) = some (0) := by decide

/-- R93: lanes 0 and 1 alone are written. -/
theorem test_uniform_add_in_lanes :
    (after 32 0x20060801 (fun t => vec 2 [4, 5] t)).map (fun t => (t.vreg 3 0, t.vreg 3 1, t.vreg 3 2)) = some (5, 6, 0) := by decide

/-- R113: s4 counts down from 2 and the branch is taken back four words. -/
theorem test_loop_again :
    (after 32 0x54193FFC (regs [(4, 2)])).map (fun t => (t.sreg 4, t.live.map (·.pc))) = some (1, [0x2000F4]) := by decide

/-- R113: at 1 it falls through. -/
theorem test_loop_ends :
    (after 32 0x54193FFC (regs [(4, 1)])).map (fun t => (t.sreg 4, t.live.map (·.pc))) = some (0, [0x200104]) := by decide

/-- R114: the link pair s26:s27. -/
theorem test_call_links :
    (after 32 0x43000003 (id)).map (fun t => (t.sreg 26, t.sreg 27, t.live.map (·.pc))) = some (0x200104, 0, [0x200110]) := by decide

/-- The first row of R79's table: trapval is the word, trappc its address. -/
theorem test_illegal_word :
    (after 32 0x3D000000 (id) (handled)).map (fun t => (t.handler, t.trapcause, t.trapval, t.trappc)) = some (true, 1, 0x3D000000, 0x200100) := by decide

/-- The second row of R79's table: no operation, pc + 8. -/
theorem test_predicated_off :
    (after 64 0x3D000000FF400000 (id) (handled)).map (fun t => (t.handler, t.live.map (·.pc))) = some (false, [0x200108]) := by decide

/-- The third row of R79's table. -/
theorem test_sequencer_word_predicated_off :
    (after 64 0xC1000000FF400000 (id) (handled)).map (fun t => (t.handler, t.live.map (·.pc))) = some (false, [0x200108]) := by decide

/-- The fifth row of R79's table: trapval is the prefix. -/
theorem test_bad_prefix :
    (after 64 0x60000000FF070000 (id) (handled)).map (fun t => (t.trapcause, t.trapval)) = some (1, 0xFF070000) := by decide

/-- The worked example after R33: trapval 0x1002, s6 as it was. -/
theorem test_load_misaligned :
    (after 32 0x8659B100 (regs [(2, 0x1002), (3, 0x40), (6, 9)]) (handled)).map (fun t => (t.trapcause, t.trapval, t.trappc, t.sreg 6)) = some (3, 0x1002, 0x200100, 9) := by decide

/-- R30: TRAP 5 leaves the next word in trappc and goes to the handler. -/
theorem test_trap_enters :
    (after 32 0x4E000005 (id) (handled)).map (fun t => (t.trapcause, t.trapval, t.trappc, t.live.map (·.pc))) = some (5, 5, 0x200104, [0x200040]) := by decide

/-- R33: RFT goes to trappc in user mode. -/
theorem test_rft_returns :
    (after 32 0x50000000 (fun t => { t with handler := true, trappc := 0x200200 })).map (fun t => (t.handler, t.live.map (·.pc))) = some (false, [0x200200]) := by decide

/-- R14: a write of m0 that leaves no lane traps with cause 2. -/
theorem test_mask_emptied :
    (after 32 0x32FA0000 (fun t => { t with mask := 1 }) (handled)).map (fun t => (t.trapcause, t.mask)) = some (2, 1) := by decide

/-- The worked example of R170 with three lanes: the first target stays, the last is live, the other is pushed. -/
theorem test_jmpi_splits :
    (after 32 0x46000100 (fun t => vec 2 [0x200200, 0x200300, 0x200400] { t with launched := 7, live := t.live.map fun x => { x with members := 7 } })).map (fun t => (t.live.map (fun x => (x.pc, x.members)), t.stack.map (fun x => (x.pc, x.members)))) =
      some ([(0x200200, 1), (0x200400, 4)], [(0x200300, 2)]) := by decide

/-- R169: lane 0 falls through, lane 1 goes. -/
theorem test_bdiv_splits :
    (after 32 0x41004008 (fun t => vec 1 [0, 1] { t with launched := 3, live := t.live.map fun x => { x with members := 3 } })).map (fun t => t.live.map fun x => (x.pc, x.members)) =
      some [(0x200104, 1), (0x200124, 2)] := by decide

/-- R115: the active lanes end, and with them the slot that keeps no active lane. -/
theorem test_exit_lane :
    (after 32 0x47000000 (fun t => { t with mask := 2 })).map (fun t => (t.ended, t.mask)) = some (0xFFFFFFFFFFFFFFFFFFFFFFFF, 0) := by decide +kernel

/-- The worked example of R164: an exited lane delivers, a lane never launched gives 0. -/
theorem test_shfl_down :
    (after 32 0x804182E7 (fun t => regs [(7, 1)] { (t.setVec 5 5 [105]).setVec 5 40 [140] with launched := 2 ^ 40 - 1, ended := 32, mask := 2 ^ 39 + 16 })).map (fun t => (t.vreg 6 4, t.vreg 6 39)) =
      some (105, 0) := by decide

/-- The worked example of R167: 2^24 + 1 + 1 by the tree. -/
theorem test_redux_tree :
    (after 32 0x839A4280 (fun t => vec 5 [0x4B800000, 0x3F800000, 0x3F800000] t)).map (fun t => (t.sreg 9, t.fflags)) = some (0x4B800000, 1) := by decide +kernel

/-- The worked example of R355: lanes 0, 2 and 24 of the record. -/
theorem test_seedexp :
    (after 32 0xAC21B100 (fun t => regs [(2, 0xE3000001), (3, 0x1E000000)] { t with mask := 2 ^ 24 + 5 })).map (fun t => (t.vreg 6 0, t.vreg 6 2, t.vreg 6 24)) =
      some (0xBFA0, 0x3FA0, 0xBE80) := by decide +kernel

/-- The worked example of "Numbers to the bit": 7.0, −0.75 and 0.3. -/
theorem test_qnt :
    (after 32 0x76224400 (fun t => vec 8 [0x40E00000, 0xBF400000, 0x3E99999A] t)).map (fun t => (t.vreg 9 0, t.vreg 9 1, t.vreg 9 2, t.fflags)) =
      some (0x6106, 0x6109, 0x6100, 3) := by decide

/-- The same under the compatibility rule. -/
theorem test_qntc :
    (after 32 0x77224400 (fun t => vec 8 [0x40E00000, 0xBF400000, 0x3E99999A] t)).map (fun t => (t.vreg 9 0, t.vreg 9 1, t.vreg 9 2)) =
      some (0x6007, 0x600A, 0x6001) := by decide

/-- The QNT result of lane 0 decoded: 8.0. -/
theorem test_dqnt :
    (after 32 0x78028480 (fun t => vec 9 [0x6106, 0x6109] t)).map (fun t => (t.vreg 10 0, t.vreg 10 1)) = some (0x41000000, 0xBF800000) := by decide

/-- R48: 1.0 + 2.0 = 3.0. -/
theorem test_fadd :
    (after 32 0x60187163 (regs [(2, 0x3F800000), (3, 0x40000000)])).map (fun t => (t.sreg 1, t.fflags)) = some (0x40400000, 0) := by decide

/-- R41: 1.0 + 2^−24 under RU is the next value, inexact. -/
theorem test_fadd_rounds_up :
    (after 64 0x60187163FF030000 (regs [(2, 0x3F800000), (3, 0x33800000)])).map (·.sreg 1) = some (0x3F800001) := by decide

/-- R48: 1.0 / +0 is +∞ with DZ. -/
theorem test_fdiv_by_zero :
    (after 32 0x68187163 (regs [(2, 0x3F800000)])).map (·.sreg 1) = some (0x7F800000) := by decide

/-- R58: (1 + 2^−23)² − (1 + 2^−22) = 2^−46, rounded once. -/
theorem test_ffma_once :
    (after 64 0x63187163FF00C800 (regs [(2, 0x3F800001), (3, 0x3F800001), (4, 0xBF800002)])).map (·.sreg 1) = some (0x28800000) := by decide

/-- R123: laneid is the lane's number. -/
theorem test_movs_laneid :
    (after 32 0x2E060000 (fun t => { t with mask := 0x20 })).map (fun t => (t.vreg 3 5, t.vreg 3 0)) = some (5, 0) := by decide

/-- R19: the base moves. -/
theorem test_window :
    (after 32 0x30018020 (id)).map (·.wb) = some (32) := by decide

/-- R121: a pending event of the mask is taken. -/
theorem test_evwait_takes :
    (after 32 0x5619B280 (fun t => regs [(5, 3)] { t with evpend := 2 })).map (fun t => (t.sreg 6, t.evpend)) = some (2, 0) := by decide

/-- R121: none pending, the slot waits at its word. -/
theorem test_evwait_waits :
    (after 32 0x5619B280 (regs [(5, 3)])).map (fun t => t.live.map fun x => (x.pc, x.wait)) = some ([(0x200100, .event)]) := by decide

/-- R173: with a count of one the phase ends at once. -/
theorem test_bar_one_strand :
    ((next? (loaded 32 0x4A019401 (regs [(5, 1)]) id)).bind fun t => motifOf t 0).map (fun m => ((tget Barrier.reset m.barriers 1).phase, (tget Barrier.reset m.barriers 1).arrivals)) =
      some (1, 0) := by decide

/-- The worked example of R265: 10, 11, 13 and X at 16. -/
theorem test_atom_add :
    (after 32 0x8C007103 (fun t => regs [(2, 0x300000)] (vec 3 [1, 2, 3] t)) (fun s => withWord 0x300000 10 (withPage 0x300000 s))).map (fun t => (t.vreg 1 0, t.vreg 1 1, t.vreg 1 2)) =
      some (10, 11, 13) ∧
    (next? (loaded 32 0x8C007103 (fun t => regs [(2, 0x300000)] (vec 3 [1, 2, 3] t)) (fun s => withWord 0x300000 10 (withPage 0x300000 s)))).map (fun s => readBytes s.mem 0x300000 4) =
      some [16, 0, 0, 0] := by decide

/-- R25, R259: .i8 sign-extends. -/
theorem test_ld_sign :
    (after 32 0x86B9B100 (regs [(2, 0x300001)]) (fun s => withWord 0x300000 0x8000 (withPage 0x300000 s))).map (·.sreg 6) = some (0xFFFFFF80) := by decide

/-- R258: STS of s6 at s5 + 4. -/
theorem test_lds_after_sts :
    (next? (loaded 32 0x8959B281 (regs [(5, 8), (6, 0x01020304)]) id)).map (fun s => readBytes (scratchOf s 0) 12 4) = some [4, 3, 2, 1] := by decide

/-- The worked example of R269 in small: pbase + (0 × 96 + 7) × 256 + 0x40. -/
theorem test_privaddr :
    (after 32 0x94008080 (fun t => { t.setVec 1 7 [0x40] with mask := 128 }) (fun s => updMotif s 0 fun m => { m with header := { m.header with priv := 256 }, desc := { m.desc with pbase := 0x5000000000 } })).map (fun t => (t.vreg 2 7, t.vreg 3 7)) = some (0x740, 0x50) := by decide

/-- R326: kli k2, 1. -/
theorem test_kli :
    (seqAfter 0xCA040001 id).map (fun z => (z.kreg 2, z.pc)) = some (1, 0x104) := by decide

/-- R322: k0 takes no value. -/
theorem test_kaddi_k0 :
    (seqAfter 0xC9000005 id).map (fun z => z.kreg 0) = some 0 := by decide

/-- R327: a branch on zero. -/
theorem test_kbra_taken :
    (seqAfter 0xCD204003 id).map (fun z => z.pc) = some 0x110 := by decide

/-- R329: the stream ends. -/
theorem test_kend :
    (seqAfter 0xCE000000 id).map (fun z => z.ended) = some true := by decide

/-- R337: mzero acc0 is queued. -/
theorem test_mzero_queues :
    (seqAfter 0xC0080000 id).map (fun z => z.work) = some [.mzero 0 false] := by decide

/-! ## Witnesses: concrete states and operands that meet the hypotheses of each statement -/

/-- The state in which the loaded instruction issues. -/
def issuing (nbits w : Nat) (f : Strand → Strand := id) (g : State → State := id) : State :=
  (planIssue (loaded nbits w f g) 0 0).1

/-- Every check that an issue makes before the effect, as one Boolean. -/
def issuable (s : State) (i : Instr) (q : Iss) : Bool :=
  i.wf && q.act != 0 && (featureStop s (cidVd q.m.cid) i).isNone &&
    match i.shape with
    | none => true
    | some e => (producerStop q.m q.t i e.2).isNone && (operandStop q.m q.t e.2.op (shapeUses e.1 e.2)).isNone &&
        (statusStop s q.t e.1 e.2 (shapeUses e.1 e.2)).isNone

/-- Whether the instruction issues in the state with an issue that satisfies a test. -/
def meets (s : State) (i : Instr) (h : Iss → Bool) : Bool :=
  match (issuerOf s).map fun q0 => q0.enter i with
  | none => false
  | some q => issuable s i q && h q

theorem issues_of_meets {s : State} {i : Instr} {h : Iss → Bool} (w : meets s i h = true) : ∃ q, Issues s i q ∧ h q = true := by
  unfold meets at w
  split at w
  · cases w
  · rename_i q hq
    rw [Bool.and_eq_true] at w
    refine ⟨q, ?_, w.2⟩
    have h1 := w.1
    unfold issuable at h1
    cases hs : i.shape with
    | none =>
      simp only [hs, Bool.and_eq_true, bne_iff_ne, ne_eq, Option.isNone_iff_eq_none, and_true] at h1
      have k : ∀ x, ¬x ∈ i.shape := fun x hx => by
        rw [hs] at hx
        cases hx
      exact ⟨h1.1.1, hq, h1.1.2, h1.2, fun x hx => absurd hx (k x), fun x hx => absurd hx (k x), fun x hx => absurd hx (k x)⟩
    | some e =>
      simp only [hs, Bool.and_eq_true, bne_iff_ne, ne_eq, Option.isNone_iff_eq_none] at h1
      have k : ∀ x, x ∈ i.shape → x = e := fun x hx => by
        rw [hs] at hx
        cases hx
        rfl
      exact ⟨h1.1.1.1, hq, h1.1.1.2, h1.1.2, fun x hx => by rw [k x hx]; exact h1.2.1.1,
        fun x hx => by rw [k x hx]; exact h1.2.1.2, fun x hx => by rw [k x hx]; exact h1.2.2⟩

/-- An issue that meets decidable hypotheses. -/
theorem witness {s : State} {i : Instr} {h : Iss → Prop} [DecidablePred h] (w : meets s i (fun q => decide (h q)) = true) :
    ∃ q, Issues s i q ∧ h q := by
  obtain ⟨q, h1, h2⟩ := issues_of_meets w
  exact ⟨q, h1, of_decide_eq_true h2⟩

/-- The hypotheses of a register instruction: it issues and no queue stops it. -/
def CanIssue (i : Instr) : Prop := ∃ s q, Issues s i q ∧ queueStops s q.m (laneCount q.act) (instrUses i) = none

theorem canIssue {i : Instr} (nbits w : Nat) (h : meets (issuing nbits w) i (fun q =>
    decide (queueStops (issuing nbits w) q.m (laneCount q.act) (instrUses i) = none)) = true) : CanIssue i :=
  ⟨_, witness h⟩


theorem witness_IntegerArithmetic : CanIssue (.add none ⟨0, 101, 101, 102⟩) ∧ CanIssue (.sub (some ⟨0, 0, 0, false, true, 0, 0⟩) ⟨6, 1, 2, 3⟩) ∧ CanIssue (.mad (some ⟨0, 0, 8, false, false, 0, 0⟩) ⟨2, 2, 4, 6⟩) ∧ CanIssue (.div none ⟨0, 97, 98, 99⟩) ∧ CanIssue (.mulh none ⟨3, 2, 4, 6⟩) ∧ CanIssue (.min none ⟨4, 0, 1, 2⟩) :=
  ⟨canIssue 32 0x001972E6 (by decide), canIssue 64 0x01C04103FF000080 (by decide), canIssue 64 0x04408206FF001000 (by decide), canIssue 32 0x05187163 (by decide), canIssue 32 0x03608206 (by decide), canIssue 32 0x07800082 (by decide)⟩

theorem witness_IntegerLogicAndBitFields : CanIssue (.and none ⟨2, 98, 100, 102⟩) ∧ CanIssue (.shl none ⟨6, 1, 2, 3⟩) ∧ CanIssue (.clz none ⟨0, 97, 98, 0⟩) ∧ CanIssue (.bfe none ⟨1, 1, 2, 3⟩) ∧ CanIssue (.bfi (some ⟨0, 0, 100, false, false, 0, 0⟩) ⟨0, 97, 98, 99⟩) :=
  ⟨canIssue 32 0x0A58B266 (by decide), canIssue 32 0x0EC04103 (by decide), canIssue 32 0x12187100 (by decide), canIssue 32 0x15204103 (by decide), canIssue 64 0x16187163FF00C800 (by decide)⟩

theorem witness_IntegerSelectionsAndWideArithmetic : CanIssue (.sel (some ⟨0, 0, 100, false, false, 0, 0⟩) ⟨0, 1, 2, 3⟩) ∧ CanIssue (.setcc none ⟨7, 97, 98, 99⟩) ∧ CanIssue (.lea none ⟨3, 98, 100, 102⟩) ∧ CanIssue (.prmt (some ⟨0, 0, 4, false, false, 0, 0⟩) ⟨0, 1, 2, 3⟩) ∧ CanIssue (.dot4 (some ⟨0, 0, 7, false, true, 0, 0⟩) ⟨6, 4, 5, 6⟩) ∧ CanIssue (.mulw none ⟨0, 98, 99, 101⟩) ∧ CanIssue (.madw (some ⟨0, 0, 102, false, false, 0, 0⟩) ⟨1, 98, 99, 101⟩) :=
  ⟨canIssue 64 0x17004103FF00C800 (by decide), canIssue 32 0x19F87163 (by decide), canIssue 32 0x1A78B266 (by decide), canIssue 64 0x1E004103FF000800 (by decide), canIssue 64 0x1FC10286FF000E80 (by decide), canIssue 32 0x3818B1E5 (by decide), canIssue 64 0x3938B1E5FF00CC00 (by decide)⟩

theorem witness_ImmediateForms : CanIssue (.addi none ⟨97, 98, 512⟩) ∧ CanIssue (.shli none ⟨1, 2, 511⟩) ∧ CanIssue (.addip (some ⟨0, 0, 0, false, true, 0, 0⟩) ⟨98, 98, 4⟩) ∧ CanIssue (.cmpi none ⟨97, 98, 7, 127⟩) ∧ CanIssue (.bfei none ⟨97, 98, 31, 1⟩) ∧ CanIssue (.bfii none ⟨97, 98, 0, 0⟩) ∧ CanIssue (.lui none ⟨97, 131071⟩) ∧ CanIssue (.llo none ⟨97, 32767⟩) ∧ CanIssue (.fli none ⟨98, 65536⟩) ∧ CanIssue (.luih none ⟨98, 5⟩) ∧ CanIssue (.luih none ⟨96, 5⟩) :=
  ⟨canIssue 32 0x20C38A00 (by decide), canIssue 32 0x250209FF (by decide), canIssue 64 0x36C58804FF000080 (by decide), canIssue 32 0x28C38BFF (by decide), canIssue 32 0x33C38BE1 (by decide), canIssue 32 0x34C38800 (by decide), canIssue 32 0x2BC3FFFF (by decide), canIssue 32 0x2CC27FFF (by decide), canIssue 32 0x31C50000 (by decide), canIssue 32 0x2DC40005 (by decide), canIssue 32 0x2DC00005 (by decide)⟩

theorem witness_LaneExchange : CanIssue (.readlane none ⟨0, 97, 2, 98⟩) ∧ CanIssue (.shfl none ⟨4, 1, 2, 3⟩) ∧ CanIssue (.vote none ⟨2, 97, 2, 0⟩) ∧ CanIssue (.ballot none ⟨0, 125, 2, 0⟩) ∧ CanIssue (.ballot none ⟨0, 122, 2, 0⟩) ∧ CanIssue (.match none ⟨1, 1, 2, 0⟩) :=
  ⟨canIssue 32 0x1C184162 (by decide), canIssue 32 0x80804103 (by decide), canIssue 32 0x81584100 (by decide), canIssue 32 0x821F4100 (by decide), canIssue 32 0x821E8100 (by decide), canIssue 32 0x85204100 (by decide)⟩

theorem witness_LaneExchange_writelane : ∃ s q, Issues s (.writelane none ⟨0, 1, 97, 98⟩) q :=
  ⟨issuing 32 0x1D0070E2, (witness (h := fun _ => True) (by decide)).imp fun _ h => h.1⟩

theorem witness_LaneExchange_ballot :
    (∃ s q, Issues s (.ballot none ⟨0, 123, 2, 0⟩) q ∧ q.canTrap) :=
  ⟨issuing 32 0x821EC100 id (handled), witness (h := fun q => (q.t.handler = false ∧ q.m.header.trap ≠ 0)) (by decide)⟩

theorem witness_Reductions : CanIssue (.redux none ⟨0, 97, 2, 80⟩) ∧ CanIssue (.scan none ⟨3, 2, 4, 8⟩) ∧ CanIssue (.redux none ⟨4, 105, 5, 0⟩) ∧ CanIssue (.scan none ⟨5, 2, 4, 32⟩) ∧ CanIssue (.redux (some ⟨0, 0, 0, false, true, 0, 0⟩) ⟨0, 97, 2, 0⟩) :=
  ⟨canIssue 32 0x83184150 (by decide), canIssue 32 0x84608208 (by decide), canIssue 32 0x839A4280 (by decide), canIssue 32 0x84A08220 (by decide), canIssue 64 0x83184100FF000080 (by decide)⟩

theorem witness_Rounding : f32.unpack 0x3F800000 = .fin false 0x800000 (-23) ∧ f32 ∈ [f32, f64, f16, bf16, e4m3, e5m2] ∧
    (0x3F800000 : Nat) < 2 ^ f32.width ∧ RMode.rd ≠ .sr ∧ 0 < (3 : Nat) ∧ f16 ∈ [f32, f64, f16, bf16, e5m2] ∧
    ((3 : Nat) : Rat) * 2 ^ (-30 : Int) ≤ ((2 ^ (f16.fbits + 1) - 1 : Nat) : Rat) * 2 ^ ((f16.bias : Int) - f16.fbits) := by
  refine ⟨by decide, by decide, by decide, by decide, by decide, by decide, ?_⟩
  rw [show f16.bias = 15 by decide, show f16.fbits = 10 by decide]
  norm_num

theorem witness_FloatArithmetic : CanIssue (.fadd none ⟨0, 97, 98, 99⟩) ∧ CanIssue (.ffma (some ⟨0, 5, 8, false, false, 0, 0⟩) ⟨1, 2, 4, 6⟩) ∧ CanIssue (.fdiv none ⟨2, 1, 2, 3⟩) ∧ CanIssue (.fsqrt none ⟨0, 1, 2, 0⟩) ∧ CanIssue (.fdot2 (some ⟨0, 0, 4, false, false, 0, 0⟩) ⟨2, 1, 2, 3⟩) ∧ CanIssue (.fscale none ⟨1, 98, 100, 102⟩) :=
  ⟨canIssue 32 0x60187163 (by decide), canIssue 64 0x63208206FF051000 (by decide), canIssue 32 0x68404103 (by decide), canIssue 32 0x69004100 (by decide), canIssue 64 0x79404103FF000800 (by decide), canIssue 32 0x7B38B266 (by decide)⟩

theorem witness_Transcendentals : CanIssue (.frcp none ⟨1, 98, 100, 0⟩) ∧ CanIssue (.fsin none ⟨0, 1, 2, 0⟩) ∧ CanIssue (.ftanh none ⟨3, 1, 2, 0⟩) :=
  ⟨canIssue 32 0x6A38B200 (by decide), canIssue 32 0x6E004100 (by decide), canIssue 32 0x70604100 (by decide)⟩

theorem witness_FloatComparisons : CanIssue (.fmin none ⟨0, 97, 98, 99⟩) ∧ CanIssue (.fcmp none ⟨2, 1, 2, 3⟩) ∧ CanIssue (.fsetcc none ⟨7, 97, 98, 100⟩) ∧ CanIssue (.fclass none ⟨1, 97, 98, 0⟩) :=
  ⟨canIssue 32 0x64187163 (by decide), canIssue 32 0x66404103 (by decide), canIssue 32 0x67F87164 (by decide), canIssue 32 0x71387100 (by decide)⟩

theorem witness_ConversionsAndExpansion : CanIssue (.fcvt none ⟨0, 98, 99, 16⟩) ∧ CanIssue (.icvt none ⟨0, 97, 98, 64⟩) ∧ CanIssue (.icvt none ⟨0, 97, 98, 8⟩) ∧ CanIssue (.fpack none ⟨5, 1, 2, 3⟩) ∧ CanIssue (.funpk none ⟨2, 2, 1, 0⟩) ∧ CanIssue (.qnt none ⟨1, 9, 8, 0⟩) ∧ CanIssue (.qntc none ⟨0, 9, 8, 0⟩) ∧ CanIssue (.dqnt none ⟨5, 10, 9, 0⟩) ∧ CanIssue (.seedexp none ⟨1, 6, 98, 0⟩) :=
  ⟨canIssue 32 0x7218B190 (by decide), canIssue 32 0x73187140 (by decide), canIssue 32 0x73187108 (by decide), canIssue 32 0x74A04103 (by decide), canIssue 32 0x75408080 (by decide), canIssue 32 0x76224400 (by decide), canIssue 32 0x77024400 (by decide), canIssue 32 0x78A28480 (by decide), canIssue 32 0xAC21B100 (by decide)⟩

theorem witness_SpecialRegisters_reads :
    (∃ s q, Issues s (.movs none ⟨97, 66⟩) q ∧ queueStops s q.m (laneCount q.act) (instrUses (.movs none ⟨97, 0x42⟩)) = none) ∧
    (∃ s q, Issues s (.movs none ⟨2, 16⟩) q ∧ queueStops s q.m (laneCount q.act) (instrUses (.movs none ⟨2, 0x10⟩)) = none) :=
  ⟨⟨issuing 32 0x2EC20042 (fun t => { t with handler := true }), witness (by decide)⟩,
    ⟨issuing 32 0x2E040010, witness (by decide)⟩⟩

theorem witness_SpecialRegisters_writes :
    (∃ s q, Issues s (.movsw none ⟨97, 48⟩) q ∧ (q.read 97 (specialW 0x30) 0 % 8 < 5 ∨ (q.read 97 (specialW 0x30) 0 % 8 = 5 ∧ featureOn s (cidVd q.m.cid) 5))) ∧
    (∃ s q, Issues s (.movsw none ⟨97, 48⟩) q ∧ (q.read 97 (specialW 0x30) 0 % 8 < 5 ∨ (q.read 97 (specialW 0x30) 0 % 8 = 5 ∧ featureOn s (cidVd q.m.cid) 5))) ∧
    (∃ s q, Issues s (.movsw none ⟨97, 49⟩) q) ∧
    (∃ s q, Issues s (.movsw none ⟨97, 50⟩) q) ∧
    (∃ s q, Issues s (.movsw none ⟨97, 51⟩) q) ∧
    (∃ s q, Issues s (.movsw none ⟨98, 64⟩) q ∧ q.t.handler = true) ∧
    (∃ s q, Issues s (.movsw none ⟨98, 65⟩) q ∧ q.t.handler = true) ∧
    (∃ s q, Issues s (.movsw none ⟨98, 66⟩) q ∧ q.t.handler = true) ∧
    (∃ s q, Issues s (.movsw none ⟨98, 129⟩) q ∧ wallOf s (cidVd q.m.cid) < q.read 98 (specialW 0x81) 0) ∧
    (∃ s q, Issues s (.movsw none ⟨98, 129⟩) q ∧ q.read 98 (specialW 0x81) 0 ≤ wallOf s (cidVd q.m.cid)) ∧
    (∃ s q, Issues s (.window none ⟨0, 96, 124⟩) q ∧ (0 ≤ (q.read 96 1 0 : Int) + (124#10).toInt ∧ ((q.read 96 1 0 : Int) + (124#10).toInt) % 4 = 0 ∧ (q.read 96 1 0 : Int) + (124#10).toInt < q.m.header.allot)) :=
  ⟨⟨issuing 32 0x2FC20030 (regs [(1, 4)]), witness (by decide)⟩,
    ⟨issuing 32 0x2FC20030 (regs [(1, 5)]), witness (by decide)⟩,
    ⟨issuing 32 0x2FC20031, (witness (h := fun _ => True) (by decide)).imp fun _ h => h.1⟩,
    ⟨issuing 32 0x2FC20032, (witness (h := fun _ => True) (by decide)).imp fun _ h => h.1⟩,
    ⟨issuing 32 0x2FC20033, (witness (h := fun _ => True) (by decide)).imp fun _ h => h.1⟩,
    ⟨issuing 32 0x2FC40040 (fun t => { t with handler := true }), witness (by decide)⟩,
    ⟨issuing 32 0x2FC40041 (fun t => { t with handler := true }), witness (by decide)⟩,
    ⟨issuing 32 0x2FC40042 (fun t => { t with handler := true }), witness (by decide)⟩,
    ⟨issuing 32 0x2FC40081 (regs [(3, 1)]), witness (by decide)⟩,
    ⟨issuing 32 0x2FC40081, witness (by decide)⟩,
    ⟨issuing 32 0x3001807C, witness (by decide)⟩⟩

theorem witness_BranchesAndCalls :
    (∃ s q, Issues s (.bra none ⟨0, 0, 16383⟩) q ∧ aligned4 (q.next + 4 * (16383#14).signExtend 64)) ∧
    (∃ s q, Issues s (.bra none ⟨1, 97, 8191⟩) q ∧ (elem 32 0 (q.read 97 1 0) = 0 ∧ aligned4 (q.next + 4 * (8191#14).signExtend 64))) ∧
    (∃ s q, Issues s (.bra none ⟨5, 97, 1⟩) q ∧ ¬0 < (elem 32 0 (q.read 97 1 0)).toInt) ∧
    (∃ s q, Issues s (.loop none ⟨0, 97, 1⟩) q ∧ (elem 32 0 (q.read 97 1 0) ≠ 1 ∧ aligned4 (q.next + 4 * (1#14).signExtend 64))) ∧
    (∃ s q, Issues s (.loop none ⟨0, 97, 1⟩) q ∧ elem 32 0 (q.read 97 1 0) = 1) ∧
    (∃ s q, Issues s (.call none ⟨16777214⟩) q ∧ aligned4 (q.next + 4 * (16777214#24).signExtend 64)) ∧
    (∃ s q, Issues s (.calli none ⟨0, 98, 100, 0⟩) q ∧ (aligned4 (q.addr 100 0) ∧ keepsLanes q 98 [q.next.setWidth 32, q.next.extractLsb' 32 32])) ∧
    (∃ s q, Issues s (.ret none ⟨0, 0, 98, 0⟩) q ∧ aligned4 (q.addr 98 0)) ∧
    (∃ s q, Issues s (.jmpi none ⟨0, 0, 98, 0⟩) q ∧ (Reg.isScalar 98 ∧ aligned4 (q.addr 98 0))) ∧
    (∃ s q, Issues s (.jmpi none ⟨0, 0, 98, 0⟩) q ∧ (Reg.isScalar 98 ∧ (¬aligned4 (q.addr 98 0)) ∧ q.canTrap)) ∧
    (∃ s q, Issues s (.ret none ⟨0, 0, 98, 0⟩) q ∧ ((¬aligned4 (q.addr 98 0)) ∧ q.canTrap)) :=
  ⟨⟨issuing 32 0x40003FFF, witness (by decide)⟩,
    ⟨issuing 32 0x40385FFF, witness (by decide)⟩,
    ⟨issuing 32 0x40B84001, witness (by decide)⟩,
    ⟨issuing 32 0x54184001, witness (by decide)⟩,
    ⟨issuing 32 0x54184001 (regs [(1, 1)]), witness (by decide)⟩,
    ⟨issuing 32 0x43FFFFFE, witness (by decide)⟩,
    ⟨issuing 32 0x4418B200 (regs [(4, 0x200200)]), witness (h := fun q => (aligned4 (q.addr 100 0) ∧ ((q.t.setScalars q.x.members (scalarNo 98) [q.next.setWidth 32, q.next.extractLsb' 32 32]).isSome = true))) (by decide)⟩,
    ⟨issuing 32 0x45003100, witness (by decide)⟩,
    ⟨issuing 32 0x46003100, witness (by decide)⟩,
    ⟨issuing 32 0x46003100 (regs [(2, 2)]) (handled), witness (h := fun q => (Reg.isScalar 98 ∧ (¬aligned4 (q.addr 98 0)) ∧ (q.t.handler = false ∧ q.m.header.trap ≠ 0))) (by decide)⟩,
    ⟨issuing 32 0x45003100 (regs [(2, 1)]) (handled), witness (h := fun q => ((¬aligned4 (q.addr 98 0)) ∧ (q.t.handler = false ∧ q.m.header.trap ≠ 0))) (by decide)⟩⟩

theorem witness_BranchesAndCalls_getpc : CanIssue (.getpc none ⟨98, 0, 512⟩) := canIssue 32 0x53C40200 (by decide)

theorem witness_DivergenceAndJoins :
    (∃ s q, Issues s (.bdiv none ⟨0, 1, 8⟩) q ∧ ∀ l ∈ lanesOf q.act, ¬(elem 32 0 (q.read 1 1 l)).toInt ≠ 0) ∧
    (∃ s q, Issues s (.bdiv none ⟨0, 1, 8⟩) q ∧ (aligned4 (q.next + 4 * (8#14).signExtend 64) ∧ ∀ l ∈ lanesOf q.act, (elem 32 0 (q.read 1 1 l)).toInt ≠ 0)) ∧
    (∃ s q, Issues s (.bdiv none ⟨0, 1, 8⟩) q ∧ (aligned4 (q.next + 4 * (8#14).signExtend 64) ∧ (∃ l ∈ lanesOf q.act, (elem 32 0 (q.read 1 1 l)).toInt ≠ 0) ∧ (∃ l ∈ lanesOf q.act, ¬(elem 32 0 (q.read 1 1 l)).toInt ≠ 0) ∧
      ((q.t.live.zipIdx.filter fun e => e.2 != q.slot).map (·.1) = [] ∨ q.t.stack.length < q.m.header.divstack))) ∧
    (∃ s q, Issues s (.jmpi none ⟨0, 0, 2, 0⟩) q ∧ (Reg.isVector 2 ∧ (∀ l ∈ lanesOf q.act, aligned4 (q.addr 2 l)) ∧
      q.t.stack.length + ((q.t.live.zipIdx.filter fun e => e.2 != q.slot).map (·.1)).length + laneCount q.act ≤ q.m.header.divstack + 1)) ∧
    (∃ s q, Issues s (.exit none ⟨0, 0, 0, 0⟩) q) ∧
    (∃ s q, Issues s (.nop none ⟨0, 0, 0, 0⟩) q) ∧
    (∃ s q, Issues s (.yield none ⟨0, 0, 0, 0⟩) q ∧ (q.m.uid, q.t.index) ∉ (clusterOf s q.m.die q.m.cluster).order) ∧
    (∃ s q, Issues s (.yield none ⟨0, 0, 0, 0⟩) q ∧ (q.m.uid, q.t.index) ∈ (clusterOf s q.m.die q.m.cluster).order) :=
  ⟨⟨issuing 32 0x41004008, witness (by decide)⟩,
    ⟨issuing 32 0x41004008 (fun t => vec 1 [1, 1] { t with launched := 3, live := t.live.map fun x => { x with members := 3 } }), witness (by decide)⟩,
    ⟨issuing 32 0x41004008 (fun t => vec 1 [0, 1] { t with launched := 3, live := t.live.map fun x => { x with members := 3 } }), witness (by decide)⟩,
    ⟨issuing 32 0x46000100 (fun t => vec 2 [0x200200, 0x200300] { t with launched := 3, live := t.live.map fun x => { x with members := 3 } }), witness (by decide)⟩,
    ⟨issuing 32 0x47000000, (witness (h := fun _ => True) (by decide)).imp fun _ h => h.1⟩,
    ⟨issuing 32 0x49000000, (witness (h := fun _ => True) (by decide)).imp fun _ h => h.1⟩,
    ⟨issuing 32 0x48000000 id (fun s => updCluster s 0 0 fun c => { c with order := [] }), witness (by decide)⟩,
    ⟨issuing 32 0x48000000, witness (by decide)⟩⟩

theorem witness_DivergenceAndJoins_join :
    (∃ s q, Issues s (.join none ⟨0, 0, 97, 0⟩) q ∧ (∀ l < 96, (q.t.triple (scalarNo 97)).getLsbD l = true → q.t.ended.getLsbD l = true ∨ q.t.launched.getLsbD l = false ∨
      ∃ x ∈ (updSlot q.t q.slot fun x => { x with wait := .join (scalarNo 97) (q.t.triple (scalarNo 97)) 4 }).live ++ (updSlot q.t q.slot fun x => { x with wait := .join (scalarNo 97) (q.t.triple (scalarNo 97)) 4 }).stack, x.waitsAt (q.next - 4) ∧ x.members.getLsbD l = true)) ∧
    (∃ s q, Issues s (.join none ⟨0, 0, 97, 0⟩) q ∧ ¬(∀ l < 96, (q.t.triple (scalarNo 97)).getLsbD l = true → q.t.ended.getLsbD l = true ∨ q.t.launched.getLsbD l = false ∨
      ∃ x ∈ (updSlot q.t q.slot fun x => { x with wait := .join (scalarNo 97) (q.t.triple (scalarNo 97)) 4 }).live ++ (updSlot q.t q.slot fun x => { x with wait := .join (scalarNo 97) (q.t.triple (scalarNo 97)) 4 }).stack, x.waitsAt (q.next - 4) ∧ x.members.getLsbD l = true)) :=
  ⟨⟨issuing 32 0x42003080 (fun t => regs [(1, 3)] { t with launched := 3, live := t.live.map fun x => { x with members := 3 } }), witness (by decide)⟩,
    ⟨issuing 32 0x42003080 (fun t => regs [(1, 2)] { t with launched := 3, mask := 1, live := t.live.map fun x => { x with members := 1 } }), witness (by decide)⟩⟩

theorem witness_TrapsAndReturns :
    (∃ s q, Issues s (.trap none ⟨0, 131071⟩) q ∧ q.canTrap) ∧
    (∃ s q, Issues s (.svc none ⟨0, 1⟩) q ∧ q.canTrap) ∧
    (∃ s q, Issues s (.brk none ⟨0, 1⟩) q ∧ (q.canTrap ∧ q.m.desc.intercept = false)) ∧
    (∃ s q, Issues s (.brk none ⟨0, 1⟩) q ∧ (q.m.desc.intercept = true ∧ q.t.handler = false)) ∧
    (∃ s q, Issues s (.rft none ⟨0, 0, 0, 0⟩) q ∧ (q.t.handler = true ∧ aligned4 q.t.trappc)) ∧
    (∃ s q, Issues s (.rft none ⟨0, 0, 0, 0⟩) q ∧ (q.t.handler = true ∧ ¬aligned4 q.t.trappc)) ∧
    (∃ s q, Issues s (.rft none ⟨0, 0, 0, 0⟩) q ∧ q.canTrap) ∧
    (∃ s q, Issues s (.trap none ⟨0, 3⟩) q ∧ q.t.handler = true) ∧
    (∃ s q, Issues s (.trap none ⟨0, 3⟩) q ∧ (q.t.handler = false ∧ q.m.header.trap = 0)) :=
  ⟨⟨issuing 32 0x4E01FFFF id (handled), witness (h := fun q => (q.t.handler = false ∧ q.m.header.trap ≠ 0)) (by decide)⟩,
    ⟨issuing 32 0x55000001 id (handled), witness (h := fun q => (q.t.handler = false ∧ q.m.header.trap ≠ 0)) (by decide)⟩,
    ⟨issuing 32 0x4F000001 id (handled), witness (h := fun q => ((q.t.handler = false ∧ q.m.header.trap ≠ 0) ∧ q.m.desc.intercept = false)) (by decide)⟩,
    ⟨issuing 32 0x4F000001 id (fun s => updMotif s 0 fun m => { m with desc := { m.desc with intercept := true } }), witness (by decide)⟩,
    ⟨issuing 32 0x50000000 (fun t => { t with handler := true }), witness (by decide)⟩,
    ⟨issuing 32 0x50000000 (fun t => { t with handler := true, trappc := 2 }), witness (by decide)⟩,
    ⟨issuing 32 0x50000000 id (handled), witness (h := fun q => (q.t.handler = false ∧ q.m.header.trap ≠ 0)) (by decide)⟩,
    ⟨issuing 32 0x4E000003 (fun t => { t with handler := true }), witness (by decide)⟩,
    ⟨issuing 32 0x4E000003, witness (by decide)⟩⟩

/-- The issue of the word at the loaded strand's PC. -/
def issueNow (nbits w : Nat) (g : State → State := id) : Option Iss := issuerOf (issuing nbits w id g)

theorem witness_WordsWithoutEffect :
    (∃ s q, issuerOf s = some q ∧ q.act ≠ 0 ∧ q.canTrap) ∧
    (∃ s q, ∃ b : BadWord, ∃ y, issuerOf s = some q ∧ b.sequencer = false ∧ b.pre = some y ∧ q.act ≠ 0 ∧ badPrefix b = false ∧
      (Pfx.ofWord y).mask ≠ 0 ∧ q.act &&& q.t.triple (Pfx.ofWord y).mask.toNat = 0 ∧ q.t.pending = []) ∧
    (∃ s q, ∃ b : BadWord, seqIssuerOf s = some q ∧ b.sequencer = true ∧ q.q.ended = false) ∧
    ∃ i p sh s q, Instr.shape i = some (p, sh) ∧ seqOpcode sh.op = false ∧ (issuerOf s).map (·.enter i) = some q ∧ q.act = 0 ∧
      tripleStop s q.t q.p = none := by
  refine ⟨⟨issuing 32 0x3D000000 id handled, (issueNow 32 0x3D000000 handled).get (by decide), by decide, by decide, by decide, by decide⟩,
    ⟨issuing 64 0x3D000000FF400000, (issueNow 64 0x3D000000FF400000).get (by decide),
      { word := 0x3D000000, pre := some 0xFF400000, sequencer := false }, 0xFF400000, by decide, rfl, rfl, by decide, by decide, by decide, by decide, by decide⟩,
    ⟨(planSequence (State.reset.withFetchWord 32 0xC1080104) 0).1, (seqIssuerOf (planSequence (State.reset.withFetchWord 32 0xC1080104) 0).1).get (by decide),
      { word := 0x3D000000, pre := none, sequencer := true }, by decide, rfl, by decide⟩,
    ⟨.add (some ⟨8, 0, 0, false, false, 0, 0⟩) ⟨0, 1, 2, 3⟩, _, _, issuing 64 0x00004103FF400000,
      ((issueNow 64 0x00004103FF400000).map (·.enter (.add (some ⟨8, 0, 0, false, false, 0, 0⟩) ⟨0, 1, 2, 3⟩))).get (by decide), rfl, by decide,
      by decide, by decide, by decide⟩⟩

theorem witness_Barriers_numbered :
    (∃ s q, Issues s (.bar none ⟨0, 101, 17⟩) q ∧ (q.x.released ≠ some 1 ∧ (1 ≤ q.read 101 1 0 ∧ q.read 101 1 0 ≤ 33) ∧ q.t.index ∉ (tget Barrier.reset q.m.barriers 1).marked ∧
      ((tget Barrier.reset q.m.barriers 1).expected = none ∨ (tget Barrier.reset q.m.barriers 1).expected = some (q.read 101 1 0)))) ∧
    (∃ s q, Issues s (.bar none ⟨0, 101, 1⟩) q ∧ ((q.x.released ≠ some 1 ∧ (1 ≤ q.read 101 1 0 ∧ q.read 101 1 0 ≤ 33) ∧ q.t.index ∉ (tget Barrier.reset q.m.barriers 1).marked ∧
      ((tget Barrier.reset q.m.barriers 1).expected = none ∨ (tget Barrier.reset q.m.barriers 1).expected = some (q.read 101 1 0))) ∧ q.read 101 1 0 ≤ ({ (tget Barrier.reset q.m.barriers 1) with arrivals := (tget Barrier.reset q.m.barriers 1).arrivals + 1, expected := some (q.read 101 1 0), marked := (tget Barrier.reset q.m.barriers 1).marked ++ [q.t.index] } : Barrier).arrivals)) ∧
    (∃ s q, Issues s (.bar none ⟨0, 96, 1⟩) q ∧ ((q.x.released ≠ some 1 ∧ q.t.index ∉ (tget Barrier.reset q.m.barriers 1).marked ∧
      ((tget Barrier.reset q.m.barriers 1).expected = none ∨ (tget Barrier.reset q.m.barriers 1).expected = some (0))) ∧ ∀ t ∈ q.m.strands, t.over ∨ t.index ∈ ({ (tget Barrier.reset q.m.barriers 1) with arrivals := (tget Barrier.reset q.m.barriers 1).arrivals + 1, expected := some (0), marked := (tget Barrier.reset q.m.barriers 1).marked ++ [q.t.index] } : Barrier).marked)) ∧
    (∃ s q, Issues s (.bar none ⟨0, 101, 1⟩) q ∧ ((q.x.released ≠ some 1 ∧ (1 ≤ q.read 101 1 0 ∧ q.read 101 1 0 ≤ 33) ∧ q.t.index ∉ (tget Barrier.reset q.m.barriers 1).marked ∧
      ((tget Barrier.reset q.m.barriers 1).expected = none ∨ (tget Barrier.reset q.m.barriers 1).expected = some (q.read 101 1 0))) ∧ ¬q.read 101 1 0 ≤ ({ (tget Barrier.reset q.m.barriers 1) with arrivals := (tget Barrier.reset q.m.barriers 1).arrivals + 1, expected := some (q.read 101 1 0), marked := (tget Barrier.reset q.m.barriers 1).marked ++ [q.t.index] } : Barrier).arrivals)) ∧
    (∃ s q, Issues s (.bar none ⟨0, 101, 1⟩) q ∧ q.x.released = some 1) ∧
    (∃ s q, Issues s (.bar none ⟨0, 101, 17⟩) q ∧ (q.x.released ≠ some 1 ∧ (1 ≤ q.read 101 1 0 ∧ q.read 101 1 0 ≤ 33) ∧ q.t.index ∈ (tget Barrier.reset q.m.barriers 1).marked)) ∧
    (∃ s q, Issues s (.bar none ⟨0, 101, 1⟩) q ∧ (q.x.released ≠ some 1 ∧ (1 ≤ q.read 101 1 0 ∧ q.read 101 1 0 ≤ 33) ∧ q.t.index ∈ (tget Barrier.reset q.m.barriers 1).marked)) :=
  ⟨⟨issuing 32 0x4A019411 (regs [(5, 33)]), witness (by decide)⟩,
    ⟨issuing 32 0x4A019401 (regs [(5, 1)]), witness (by decide)⟩,
    ⟨issuing 32 0x4A018001, witness (by decide)⟩,
    ⟨issuing 32 0x4A019401 (regs [(5, 33)]), witness (by decide)⟩,
    ⟨issuing 32 0x4A019401 (fun t => { t with live := t.live.map fun x => { x with released := some 1 } }), witness (by decide)⟩,
    ⟨issuing 32 0x4A019411 (regs [(5, 33)]) (fun s => updMotif s 0 fun m => { m with barriers := tset Barrier.reset m.barriers 1 { Barrier.reset with expected := some 33, arrivals := 1, marked := [0] } }), witness (by decide)⟩,
    ⟨issuing 32 0x4A019401 (regs [(5, 33)]) (fun s => updMotif s 0 fun m => { m with barriers := tset Barrier.reset m.barriers 1 { Barrier.reset with expected := some 33, arrivals := 1, marked := [0] } }), witness (by decide)⟩⟩

/-- The loaded motif without the barrier that its instruction names. -/
def unmarkedBar : State := issuing 32 0x4A019401 id fun s => updMotif (handled s) 0 fun m => { m with header := { m.header with barriers := 1 } }

theorem witness_Barriers_unmarked : ∃ s q, (Instr.bar none ⟨0, 101, 1⟩).wf = true ∧
    (issuerOf s).map (·.enter (.bar none ⟨0, 101, 1⟩)) = some q ∧ q.act ≠ 0 ∧ q.m.header.barriers.getLsbD 1 = false ∧ q.canTrap :=
  ⟨unmarkedBar, ((issuerOf unmarkedBar).map (·.enter (.bar none ⟨0, 101, 1⟩))).get (by decide), by decide, by decide, by decide,
    by decide, by decide, by decide⟩

theorem witness_Barriers_objects :
    (∃ s q, Issues s (.boinit none ⟨0, 0, 97, 98⟩) q ∧ ((q.read 97 1 0) % 16 = 0 ∧ (q.read 97 1 0) + 16 ≤ q.m.header.scratch * 1024 ∧ 1 ≤ q.read 98 1 0 ∧ q.read 98 1 0 ≤ 2 ^ 31)) ∧
    (∃ s q, Issues s (.boarr none ⟨0, 99, 97, 96⟩) q ∧ ((q.read 97 1 0) % 16 = 0 ∧ (q.read 97 1 0) + 16 ≤ q.m.header.scratch * 1024 ∧ 1 ≠ 0 ∧ fieldAt (readBytes q.m.scratch (q.read 97 1 0) 16) 4 4 ≠ 0 ∧ fieldAt (readBytes q.m.scratch (q.read 97 1 0) 16) 0 4 + 1 < fieldAt (readBytes q.m.scratch (q.read 97 1 0) 16) 4 4 ∧ keepsLanes q 99 [BitVec.ofNat 32 (fieldAt (readBytes q.m.scratch (q.read 97 1 0) 16) 8 4)] ∧ s.pendStores = [])) ∧
    (∃ s q, Issues s (.boarr none ⟨0, 99, 97, 98⟩) q ∧ ((q.read 97 1 0) % 16 = 0 ∧ (q.read 97 1 0) + 16 ≤ q.m.header.scratch * 1024 ∧ q.read 98 1 0 ≠ 0 ∧ fieldAt (readBytes q.m.scratch (q.read 97 1 0) 16) 4 4 ≠ 0 ∧ fieldAt (readBytes q.m.scratch (q.read 97 1 0) 16) 4 4 ≤ fieldAt (readBytes q.m.scratch (q.read 97 1 0) 16) 0 4 + q.read 98 1 0 ∧ keepsLanes q 99 [BitVec.ofNat 32 (fieldAt (readBytes q.m.scratch (q.read 97 1 0) 16) 8 4)] ∧ s.pendStores = [])) ∧
    (∃ s q, Issues s (.bowait none ⟨0, 0, 97, 98⟩) q ∧ ((q.read 97 1 0) % 16 = 0 ∧ (q.read 97 1 0) + 16 ≤ q.m.header.scratch * 1024 ∧ fieldAt (readBytes q.m.scratch (q.read 97 1 0) 16) 8 4 ≠ q.read 98 1 0)) ∧
    (∃ s q, Issues s (.bowait none ⟨0, 0, 97, 98⟩) q ∧ ((q.read 97 1 0) % 16 = 0 ∧ (q.read 97 1 0) + 16 ≤ q.m.header.scratch * 1024 ∧ fieldAt (readBytes q.m.scratch (q.read 97 1 0) 16) 8 4 = q.read 98 1 0)) ∧
    (∃ s q, Issues s (.boarr none ⟨0, 99, 97, 96⟩) q ∧ (1 ≠ 0 ∧ (q.read 97 1 0) % 16 ≠ 0 ∧ q.canTrap)) :=
  ⟨⟨issuing 32 0x580030E2 (regs [(1, 0x3FF0), (2, 0x80000000)]), witness (by decide)⟩,
    ⟨issuing 32 0x4B18F0E0 (regs [(1, 0x100)]) (fun s => updMotif s 0 fun m => { m with scratch := writeBytes m.scratch 0x100 (leBytes 4 0 ++ leBytes 4 2 ++ leBytes 4 0) }), witness (h := fun q => ((q.read 97 1 0) % 16 = 0 ∧ (q.read 97 1 0) + 16 ≤ q.m.header.scratch * 1024 ∧ 1 ≠ 0 ∧ fieldAt (readBytes q.m.scratch (q.read 97 1 0) 16) 4 4 ≠ 0 ∧ fieldAt (readBytes q.m.scratch (q.read 97 1 0) 16) 0 4 + 1 < fieldAt (readBytes q.m.scratch (q.read 97 1 0) 16) 4 4 ∧ ((q.t.setScalars q.x.members (scalarNo 99) [BitVec.ofNat 32 (fieldAt (readBytes q.m.scratch (q.read 97 1 0) 16) 8 4)]).isSome = true) ∧ (issuing 32 0x4B18F0E0 (regs [(1, 0x100)]) (fun s => updMotif s 0 fun m => { m with scratch := writeBytes m.scratch 0x100 (leBytes 4 0 ++ leBytes 4 2 ++ leBytes 4 0) })).pendStores = [])) (by decide)⟩,
    ⟨issuing 32 0x4B18F0E2 (regs [(1, 0x100), (2, 2)]) (fun s => updMotif s 0 fun m => { m with scratch := writeBytes m.scratch 0x100 (leBytes 4 0 ++ leBytes 4 2 ++ leBytes 4 0) }), witness (h := fun q => ((q.read 97 1 0) % 16 = 0 ∧ (q.read 97 1 0) + 16 ≤ q.m.header.scratch * 1024 ∧ q.read 98 1 0 ≠ 0 ∧ fieldAt (readBytes q.m.scratch (q.read 97 1 0) 16) 4 4 ≠ 0 ∧ fieldAt (readBytes q.m.scratch (q.read 97 1 0) 16) 4 4 ≤ fieldAt (readBytes q.m.scratch (q.read 97 1 0) 16) 0 4 + q.read 98 1 0 ∧ ((q.t.setScalars q.x.members (scalarNo 99) [BitVec.ofNat 32 (fieldAt (readBytes q.m.scratch (q.read 97 1 0) 16) 8 4)]).isSome = true) ∧ (issuing 32 0x4B18F0E2 (regs [(1, 0x100), (2, 2)]) (fun s => updMotif s 0 fun m => { m with scratch := writeBytes m.scratch 0x100 (leBytes 4 0 ++ leBytes 4 2 ++ leBytes 4 0) })).pendStores = [])) (by decide)⟩,
    ⟨issuing 32 0x4C0030E2 (regs [(1, 0x100), (2, 1)]) (fun s => updMotif s 0 fun m => { m with scratch := writeBytes m.scratch 0x100 (leBytes 4 1 ++ leBytes 4 2 ++ leBytes 4 0) }), witness (by decide)⟩,
    ⟨issuing 32 0x4C0030E2 (regs [(1, 0x100)]) (fun s => updMotif s 0 fun m => { m with scratch := writeBytes m.scratch 0x100 (leBytes 4 1 ++ leBytes 4 2 ++ leBytes 4 0) }), witness (by decide)⟩,
    ⟨issuing 32 0x4B18F0E0 (regs [(1, 0x108)]) (handled), witness (h := fun q => (1 ≠ 0 ∧ (q.read 97 1 0) % 16 ≠ 0 ∧ (q.t.handler = false ∧ q.m.header.trap ≠ 0))) (by decide)⟩⟩

theorem witness_TimelinesAndContinuations :
    (∃ s q, Issues s (.tlwait none ⟨3, 0, 98, 0⟩) q ∧ q.read 98 2 0 ≤ (q.m.timelines.getD 3 ⟨0, 0⟩).done) ∧
    (∃ s q, Issues s (.tlwait none ⟨3, 0, 98, 0⟩) q ∧ (q.m.timelines.getD 3 ⟨0, 0⟩).done < q.read 98 2 0) ∧
    (∃ s q, Issues s (.tlread none ⟨4, 98, 0, 0⟩) q ∧ keepsLanes q 98 (wordsOf 2 (q.m.timelines.getD 0 ⟨0, 0⟩).issued)) ∧
    (∃ s q, Issues s (.tlinc none ⟨2, 97, 0, 98⟩) q ∧ (q.read 98 1 0 % 16 = 0 ∧ q.read 98 1 0 + 16 ≤ q.m.header.scratch * 1024 ∧ inFlight q.m 2 < 32)) ∧
    (∃ s q, Issues s (.xyield none ⟨0, 0, 97, 100⟩) q ∧ (aligned4 (q.addr 100 0) ∧ ¬∃ e ∈ q.t.pending, e.reg = scalarNo 97)) ∧
    (∃ s q, Issues s (.xyield none ⟨0, 0, 97, 100⟩) q ∧ (aligned4 (q.addr 100 0) ∧ ∃ e ∈ q.t.pending, e.reg = scalarNo 97)) :=
  ⟨⟨issuing 32 0x4D603100, witness (by decide)⟩,
    ⟨issuing 32 0x4D603100 (regs [(2, 1)]), witness (by decide)⟩,
    ⟨issuing 32 0xA4988000, witness (h := fun q => ((q.t.setScalars q.x.members (scalarNo 98) (wordsOf 2 (q.m.timelines.getD 0 ⟨0, 0⟩).issued)).isSome = true)) (by decide)⟩,
    ⟨issuing 32 0xA5584062 (regs [(2, 0x3FF0)]), witness (by decide)⟩,
    ⟨issuing 32 0xA30030E4 (regs [(4, 0x200200)]), witness (by decide)⟩,
    ⟨issuing 32 0xA30030E4 (fun t => { t with sregs := [(4, 0x200200)], pending := [{ reg := 1, tl := 0, number := 1, cancel := [] }] }), witness (by decide)⟩⟩

/-- The loaded motif with queue registers q0 to q3 bound to queue 0 of its record, which holds the items. -/
def queued (items : List Word) (s : State) : State :=
  { updMotif s 0 (fun m => { m with header := { m.header with qbind := [128, 128, 128, 128] } }) with
    records := [{
      ring := 0, number := 0, cid := 0, kind := 1, flags := 0, wait0 := 0, wait1 := 0, value0 := 0, value1 := 0, paramAddr := 0
      lanes := 96, stages := [], queues := [{ items := items, capacity := 8, low := 2, high := 6, storage := 0, closed := false }]
      param := [], begun := true, done := false }] }

theorem witness_PatternQueues :
    (∃ s q, Issues s (.qclose none ⟨0, 0, 93, 0⟩) q ∧ (qBound q.m.header 93 = true ∧ (queueOf s q.m 93).isSome)) ∧
    (∃ s q, Issues s (.qstat none ⟨0, 97, 0, 0⟩) q ∧ keepsLanes q 97 [BitVec.ofNat 32 q.t.lastPop.toNat]) ∧
    (∃ s q, Issues s (.qstat none ⟨1, 97, 92, 0⟩) q ∧ (Reg.isQueue 92 ∧ qBound q.m.header 92 = true ∧ (queueOf s q.m 92).isSome ∧ keepsLanes q 97 [1])) ∧
    (∃ s q, Issues s (.qstat none ⟨2, 97, 95, 0⟩) q ∧ (Reg.isQueue 95 ∧ qBound q.m.header 95 = true ∧ (queueOf s q.m 95).isSome ∧ keepsLanes q 97 [0x1C])) ∧
    (∃ s q, Issues s (.qtry none ⟨0, 1, 92, 0⟩) q ∧ (qBound q.m.header 92 = true ∧ (queueOf s q.m 92).isSome)) ∧
    (∃ s q, Issues s (.qtry none ⟨0, 1, 94, 0⟩) q ∧ (qBound q.m.header 94 = true ∧ (queueOf s q.m 94).isSome)) :=
  ⟨⟨issuing 32 0x51002E80 id (queued []), witness (by decide)⟩,
    ⟨issuing 32 0x52184000, witness (h := fun q => ((q.t.setScalars q.x.members (scalarNo 97) [BitVec.ofNat 32 q.t.lastPop.toNat]).isSome = true)) (by decide)⟩,
    ⟨issuing 32 0x52386E00 id (queued [5]), witness (h := fun q => (Reg.isQueue 92 ∧ qBound q.m.header 92 = true ∧ (queueOf (issuing 32 0x52386E00 id (queued [5])) q.m 92).isSome ∧ ((q.t.setScalars q.x.members (scalarNo 97) [1]).isSome = true))) (by decide)⟩,
    ⟨issuing 32 0x52586F80 id (queued [1, 2, 3, 4, 5, 6, 7, 8]), witness (h := fun q => (Reg.isQueue 95 ∧ qBound q.m.header 95 = true ∧ (queueOf (issuing 32 0x52586F80 id (queued [1, 2, 3, 4, 5, 6, 7, 8])) q.m 95).isSome ∧ ((q.t.setScalars q.x.members (scalarNo 97) [0x1C]).isSome = true))) (by decide)⟩,
    ⟨issuing 32 0x57006E00 id (queued [5]), witness (by decide)⟩,
    ⟨issuing 32 0x57006F00 id (queued []), witness (by decide)⟩⟩

theorem witness_Events :
    (∃ s q, Issues s (.evwait none ⟨0, 102, 101, 0⟩) q ∧ (q.t.evpend &&& BitVec.ofNat 32 (q.read 101 1 0 % 32) ≠ 0 ∧ keepsLanes q 102 [q.t.evpend &&& BitVec.ofNat 32 (q.read 101 1 0 % 32)])) ∧
    (∃ s q, Issues s (.evwait none ⟨1, 102, 101, 0⟩) q ∧ keepsLanes q 102 [q.t.evpend &&& BitVec.ofNat 32 (q.read 101 1 0 % 32)]) ∧
    (∃ s q, Issues s (.evwait none ⟨0, 102, 101, 0⟩) q ∧ (q.t.evpend &&& BitVec.ofNat 32 (q.read 101 1 0 % 32) = 0 ∧ BitVec.ofNat 32 (q.read 101 1 0 % 32) ≠ 0)) :=
  ⟨⟨issuing 32 0x5619B280 (fun t => regs [(5, 16)] { t with evpend := 16 }), witness (h := fun q => (q.t.evpend &&& BitVec.ofNat 32 (q.read 101 1 0 % 32) ≠ 0 ∧ ((q.t.setScalars q.x.members (scalarNo 102) [q.t.evpend &&& BitVec.ofNat 32 (q.read 101 1 0 % 32)]).isSome = true))) (by decide)⟩,
    ⟨issuing 32 0x5639B280 (regs [(5, 16)]), witness (h := fun q => ((q.t.setScalars q.x.members (scalarNo 102) [q.t.evpend &&& BitVec.ofNat 32 (q.read 101 1 0 % 32)]).isSome = true)) (by decide)⟩,
    ⟨issuing 32 0x5619B280 (regs [(5, 1)]), witness (by decide)⟩⟩

theorem witness_Events_outside :
    (∃ s m t, motifOf s 0 = some m ∧ strandOf m 0 = some t ∧ t.armed = true ∧ t.evtimer.toNat ≤ wallOf s (cidVd m.cid)) ∧
    ∃ s, ((7 : BitVec 32).extractLsb' 0 11).toNat < (vdevOf s 2).ctxcount :=
  ⟨⟨loaded 32 0x49000000 (fun t => { t with armed := true }) id, (motifOf (loaded 32 0x49000000 (fun t => { t with armed := true }) id) 0).get (by decide),
      (strandAt (loaded 32 0x49000000 (fun t => { t with armed := true }) id) 0 0).get (by decide), by decide, by decide, by decide, by decide⟩,
    ⟨updVdev State.reset 2 fun v => { v with ctxcount := 8 }, by decide⟩⟩

theorem witness_Loads :
    (∃ s q, Issues s (.ld none ⟨2, 102, 98, 127⟩) q ∧ (s.inOrder ∧ Local s q (accesses q (runsPerLane (.ld none ⟨2, 102, 98, 127⟩)) (fun q l => .generic ((q.addr 98 l + BitVec.ofInt 64 ((127#7).toInt * 4)).toNat))) 4 .read ∧ keepsLanes q 102 (wordsOf 1 0))) ∧
    (∃ s q, Issues s (.ld none ⟨4, 4, 98, 63⟩) q ∧ (s.inOrder ∧ Local s q (accesses q (runsPerLane (.ld none ⟨4, 4, 98, 63⟩)) (fun q l => .generic ((q.addr 98 l + BitVec.ofInt 64 ((63#7).toInt * 16)).toNat))) 16 .read)) ∧
    (∃ s q, Issues s (.lds none ⟨5, 102, 97, 0⟩) q ∧ (s.inOrder ∧ Local s q (accesses q (runsPerLane (.lds none ⟨5, 102, 97, 0⟩)) (fun q l => .scratch ((q.read 97 1 l : Int) + (0#7).toInt * 1))) 1 .read ∧ keepsLanes q 102 (wordsOf 1 0))) ∧
    (∃ s q, Issues s (.ldp none ⟨3, 2, 97, 7⟩) q ∧ (s.inOrder ∧ Local s q (accesses q (true) (fun q l => .priv ((q.read 97 1 l : Int) + (7#7).toInt * 8))) 8 .read)) ∧
    (∃ s q, Issues s (.ldk none ⟨2, 102, 97, 1⟩) q ∧ ((∀ l < 96, q.act.getLsbD l → 0 ≤ (q.read 97 1 0 : Int) + (1#7).toInt * 4 ∧ ((q.read 97 1 0 : Int) + (1#7).toInt * 4) % 4 = 0 ∧
      (q.read 97 1 0 : Int) + (1#7).toInt * 4 + 4 ≤ q.m.header.param) ∧ keepsLanes q 102 (wordsOf 1 0))) :=
  ⟨⟨issuing 32 0x8659B17F (regs [(2, 0x301000)]) (withPage 0x300000), witness (h := fun q => (((issuing 32 0x8659B17F (regs [(2, 0x301000)]) (withPage 0x300000)).weak = false ∧ (issuing 32 0x8659B17F (regs [(2, 0x301000)]) (withPage 0x300000)).pendStores = []) ∧ (∀ a ∈ (accesses q (runsPerLane (.ld none ⟨2, 102, 98, 127⟩)) (fun q l => .generic ((q.addr 98 l + BitVec.ofInt 64 ((127#7).toInt * 4)).toNat))), a.loc.num % 4 = 0 ∧ ((laneTarget (issuing 32 0x8659B17F (regs [(2, 0x301000)]) (withPage 0x300000)) q (accesses q (runsPerLane (.ld none ⟨2, 102, 98, 127⟩)) (fun q l => .generic ((q.addr 98 l + BitVec.ofInt 64 ((127#7).toInt * 4)).toNat))) 4 .read) a).plain (issuing 32 0x8659B17F (regs [(2, 0x301000)]) (withPage 0x300000)) = true ∧ (findsCopy (issuing 32 0x8659B17F (regs [(2, 0x301000)]) (withPage 0x300000)) q ((laneTarget (issuing 32 0x8659B17F (regs [(2, 0x301000)]) (withPage 0x300000)) q (accesses q (runsPerLane (.ld none ⟨2, 102, 98, 127⟩)) (fun q l => .generic ((q.addr 98 l + BitVec.ofInt 64 ((127#7).toInt * 4)).toNat))) 4 .read) a) = true → (accesses q (runsPerLane (.ld none ⟨2, 102, 98, 127⟩)) (fun q l => .generic ((q.addr 98 l + BitVec.ofInt 64 ((127#7).toInt * 4)).toNat))) = [a]) ∧ ((.read : Access) = .read → ((laneTarget (issuing 32 0x8659B17F (regs [(2, 0x301000)]) (withPage 0x300000)) q (accesses q (runsPerLane (.ld none ⟨2, 102, 98, 127⟩)) (fun q l => .generic ((q.addr 98 l + BitVec.ofInt 64 ((127#7).toInt * 4)).toNat))) 4 .read) a).isHost = true → hostArrived (issuing 32 0x8659B17F (regs [(2, 0x301000)]) (withPage 0x300000)) q.asker = true)) ∧ ((q.t.setScalars q.x.members (scalarNo 102) (wordsOf 1 0)).isSome = true))) (by decide +kernel)⟩,
    ⟨issuing 32 0x8681313F (regs [(2, 0x300000)]) (withPage 0x300000), witness (h := fun q => (((issuing 32 0x8681313F (regs [(2, 0x300000)]) (withPage 0x300000)).weak = false ∧ (issuing 32 0x8681313F (regs [(2, 0x300000)]) (withPage 0x300000)).pendStores = []) ∧ (∀ a ∈ (accesses q (runsPerLane (.ld none ⟨4, 4, 98, 63⟩)) (fun q l => .generic ((q.addr 98 l + BitVec.ofInt 64 ((63#7).toInt * 16)).toNat))), a.loc.num % 16 = 0 ∧ ((laneTarget (issuing 32 0x8681313F (regs [(2, 0x300000)]) (withPage 0x300000)) q (accesses q (runsPerLane (.ld none ⟨4, 4, 98, 63⟩)) (fun q l => .generic ((q.addr 98 l + BitVec.ofInt 64 ((63#7).toInt * 16)).toNat))) 16 .read) a).plain (issuing 32 0x8681313F (regs [(2, 0x300000)]) (withPage 0x300000)) = true ∧ (findsCopy (issuing 32 0x8681313F (regs [(2, 0x300000)]) (withPage 0x300000)) q ((laneTarget (issuing 32 0x8681313F (regs [(2, 0x300000)]) (withPage 0x300000)) q (accesses q (runsPerLane (.ld none ⟨4, 4, 98, 63⟩)) (fun q l => .generic ((q.addr 98 l + BitVec.ofInt 64 ((63#7).toInt * 16)).toNat))) 16 .read) a) = true → (accesses q (runsPerLane (.ld none ⟨4, 4, 98, 63⟩)) (fun q l => .generic ((q.addr 98 l + BitVec.ofInt 64 ((63#7).toInt * 16)).toNat))) = [a]) ∧ ((.read : Access) = .read → ((laneTarget (issuing 32 0x8681313F (regs [(2, 0x300000)]) (withPage 0x300000)) q (accesses q (runsPerLane (.ld none ⟨4, 4, 98, 63⟩)) (fun q l => .generic ((q.addr 98 l + BitVec.ofInt 64 ((63#7).toInt * 16)).toNat))) 16 .read) a).isHost = true → hostArrived (issuing 32 0x8681313F (regs [(2, 0x300000)]) (withPage 0x300000)) q.asker = true)))) (by decide +kernel)⟩,
    ⟨issuing 32 0x88B9B080 (regs [(1, 16383)]), witness (h := fun q => (((issuing 32 0x88B9B080 (regs [(1, 16383)])).weak = false ∧ (issuing 32 0x88B9B080 (regs [(1, 16383)])).pendStores = []) ∧ (∀ a ∈ (accesses q (runsPerLane (.lds none ⟨5, 102, 97, 0⟩)) (fun q l => .scratch ((q.read 97 1 l : Int) + (0#7).toInt * 1))), a.loc.num % 1 = 0 ∧ ((laneTarget (issuing 32 0x88B9B080 (regs [(1, 16383)])) q (accesses q (runsPerLane (.lds none ⟨5, 102, 97, 0⟩)) (fun q l => .scratch ((q.read 97 1 l : Int) + (0#7).toInt * 1))) 1 .read) a).plain (issuing 32 0x88B9B080 (regs [(1, 16383)])) = true ∧ (findsCopy (issuing 32 0x88B9B080 (regs [(1, 16383)])) q ((laneTarget (issuing 32 0x88B9B080 (regs [(1, 16383)])) q (accesses q (runsPerLane (.lds none ⟨5, 102, 97, 0⟩)) (fun q l => .scratch ((q.read 97 1 l : Int) + (0#7).toInt * 1))) 1 .read) a) = true → (accesses q (runsPerLane (.lds none ⟨5, 102, 97, 0⟩)) (fun q l => .scratch ((q.read 97 1 l : Int) + (0#7).toInt * 1))) = [a]) ∧ ((.read : Access) = .read → ((laneTarget (issuing 32 0x88B9B080 (regs [(1, 16383)])) q (accesses q (runsPerLane (.lds none ⟨5, 102, 97, 0⟩)) (fun q l => .scratch ((q.read 97 1 l : Int) + (0#7).toInt * 1))) 1 .read) a).isHost = true → hostArrived (issuing 32 0x88B9B080 (regs [(1, 16383)])) q.asker = true)) ∧ ((q.t.setScalars q.x.members (scalarNo 102) (wordsOf 1 0)).isSome = true))) (by decide +kernel)⟩,
    ⟨issuing 32 0x8A60B087 (fun t => { t with mask := 1 }) (fun s => withPage 0x300000 (updMotif s 0 fun m => { m with header := { m.header with priv := 64 }, desc := { m.desc with pbase := 0x300000 } })), witness (h := fun q => (((issuing 32 0x8A60B087 (fun t => { t with mask := 1 }) (fun s => withPage 0x300000 (updMotif s 0 fun m => { m with header := { m.header with priv := 64 }, desc := { m.desc with pbase := 0x300000 } }))).weak = false ∧ (issuing 32 0x8A60B087 (fun t => { t with mask := 1 }) (fun s => withPage 0x300000 (updMotif s 0 fun m => { m with header := { m.header with priv := 64 }, desc := { m.desc with pbase := 0x300000 } }))).pendStores = []) ∧ (∀ a ∈ (accesses q (true) (fun q l => .priv ((q.read 97 1 l : Int) + (7#7).toInt * 8))), a.loc.num % 8 = 0 ∧ ((laneTarget (issuing 32 0x8A60B087 (fun t => { t with mask := 1 }) (fun s => withPage 0x300000 (updMotif s 0 fun m => { m with header := { m.header with priv := 64 }, desc := { m.desc with pbase := 0x300000 } }))) q (accesses q (true) (fun q l => .priv ((q.read 97 1 l : Int) + (7#7).toInt * 8))) 8 .read) a).plain (issuing 32 0x8A60B087 (fun t => { t with mask := 1 }) (fun s => withPage 0x300000 (updMotif s 0 fun m => { m with header := { m.header with priv := 64 }, desc := { m.desc with pbase := 0x300000 } }))) = true ∧ (findsCopy (issuing 32 0x8A60B087 (fun t => { t with mask := 1 }) (fun s => withPage 0x300000 (updMotif s 0 fun m => { m with header := { m.header with priv := 64 }, desc := { m.desc with pbase := 0x300000 } }))) q ((laneTarget (issuing 32 0x8A60B087 (fun t => { t with mask := 1 }) (fun s => withPage 0x300000 (updMotif s 0 fun m => { m with header := { m.header with priv := 64 }, desc := { m.desc with pbase := 0x300000 } }))) q (accesses q (true) (fun q l => .priv ((q.read 97 1 l : Int) + (7#7).toInt * 8))) 8 .read) a) = true → (accesses q (true) (fun q l => .priv ((q.read 97 1 l : Int) + (7#7).toInt * 8))) = [a]) ∧ ((.read : Access) = .read → ((laneTarget (issuing 32 0x8A60B087 (fun t => { t with mask := 1 }) (fun s => withPage 0x300000 (updMotif s 0 fun m => { m with header := { m.header with priv := 64 }, desc := { m.desc with pbase := 0x300000 } }))) q (accesses q (true) (fun q l => .priv ((q.read 97 1 l : Int) + (7#7).toInt * 8))) 8 .read) a).isHost = true → hostArrived (issuing 32 0x8A60B087 (fun t => { t with mask := 1 }) (fun s => withPage 0x300000 (updMotif s 0 fun m => { m with header := { m.header with priv := 64 }, desc := { m.desc with pbase := 0x300000 } }))) q.asker = true)))) (by decide +kernel)⟩,
    ⟨issuing 32 0x9959B081 id (fun s => updMotif s 0 fun m => { m with header := { m.header with param := 8 }, param := leBytes 8 7 }), witness (h := fun q => ((∀ l < 96, q.act.getLsbD l → 0 ≤ (q.read 97 1 0 : Int) + (1#7).toInt * 4 ∧ ((q.read 97 1 0 : Int) + (1#7).toInt * 4) % 4 = 0 ∧
      (q.read 97 1 0 : Int) + (1#7).toInt * 4 + 4 ≤ q.m.header.param) ∧ ((q.t.setScalars q.x.members (scalarNo 102) (wordsOf 1 0)).isSome = true))) (by decide +kernel)⟩⟩

theorem witness_Stores :
    (∃ s q, Issues s (.st none ⟨2, 102, 98, 0⟩) q ∧ (s.inOrder ∧ Local s q (accesses q (runsPerLane (.st none ⟨2, 102, 98, 0⟩)) (fun q l => .generic ((q.addr 98 l + BitVec.ofInt 64 ((0#7).toInt * 4)).toNat))) 4 .write ∧ AcksIn s q (((accesses q (runsPerLane (.st none ⟨2, 102, 98, 0⟩)) (fun q l => .generic ((q.addr 98 l + BitVec.ofInt 64 ((0#7).toInt * 4)).toNat)))).map (laneTarget s q (accesses q (runsPerLane (.st none ⟨2, 102, 98, 0⟩)) (fun q l => .generic ((q.addr 98 l + BitVec.ofInt 64 ((0#7).toInt * 4)).toNat))) 4 .write)))) ∧
    (∃ s q, Issues s (.st none ⟨0, 6, 98, 0⟩) q ∧ (s.inOrder ∧ Local s q (accesses q (runsPerLane (.st none ⟨0, 6, 98, 0⟩)) (fun q l => .generic ((q.addr 98 l + BitVec.ofInt 64 ((0#7).toInt * 1)).toNat))) 1 .write ∧ AcksIn s q (((accesses q (runsPerLane (.st none ⟨0, 6, 98, 0⟩)) (fun q l => .generic ((q.addr 98 l + BitVec.ofInt 64 ((0#7).toInt * 1)).toNat)))).map (laneTarget s q (accesses q (runsPerLane (.st none ⟨0, 6, 98, 0⟩)) (fun q l => .generic ((q.addr 98 l + BitVec.ofInt 64 ((0#7).toInt * 1)).toNat))) 1 .write)))) ∧
    (∃ s q, Issues s (.sts none ⟨4, 100, 97, 0⟩) q ∧ (s.inOrder ∧ Local s q (accesses q (runsPerLane (.sts none ⟨4, 100, 97, 0⟩)) (fun q l => .scratch ((q.read 97 1 l : Int) + (0#7).toInt * 16))) 16 .write ∧ AcksIn s q (((accesses q (runsPerLane (.sts none ⟨4, 100, 97, 0⟩)) (fun q l => .scratch ((q.read 97 1 l : Int) + (0#7).toInt * 16)))).map (laneTarget s q (accesses q (runsPerLane (.sts none ⟨4, 100, 97, 0⟩)) (fun q l => .scratch ((q.read 97 1 l : Int) + (0#7).toInt * 16))) 16 .write)))) ∧
    (∃ s q, Issues s (.stp none ⟨2, 6, 97, 15⟩) q ∧ (s.inOrder ∧ Local s q (accesses q (true) (fun q l => .priv ((q.read 97 1 l : Int) + (15#7).toInt * 4))) 4 .write ∧ AcksIn s q (((accesses q (true) (fun q l => .priv ((q.read 97 1 l : Int) + (15#7).toInt * 4)))).map (laneTarget s q (accesses q (true) (fun q l => .priv ((q.read 97 1 l : Int) + (15#7).toInt * 4))) 4 .write)))) :=
  ⟨⟨issuing 32 0x8759B100 (regs [(2, 0x300FFC)]) (withPage 0x300000), witness (h := fun q => (((issuing 32 0x8759B100 (regs [(2, 0x300FFC)]) (withPage 0x300000)).weak = false ∧ (issuing 32 0x8759B100 (regs [(2, 0x300FFC)]) (withPage 0x300000)).pendStores = []) ∧ (∀ a ∈ (accesses q (runsPerLane (.st none ⟨2, 102, 98, 0⟩)) (fun q l => .generic ((q.addr 98 l + BitVec.ofInt 64 ((0#7).toInt * 4)).toNat))), a.loc.num % 4 = 0 ∧ ((laneTarget (issuing 32 0x8759B100 (regs [(2, 0x300FFC)]) (withPage 0x300000)) q (accesses q (runsPerLane (.st none ⟨2, 102, 98, 0⟩)) (fun q l => .generic ((q.addr 98 l + BitVec.ofInt 64 ((0#7).toInt * 4)).toNat))) 4 .write) a).plain (issuing 32 0x8759B100 (regs [(2, 0x300FFC)]) (withPage 0x300000)) = true ∧ (findsCopy (issuing 32 0x8759B100 (regs [(2, 0x300FFC)]) (withPage 0x300000)) q ((laneTarget (issuing 32 0x8759B100 (regs [(2, 0x300FFC)]) (withPage 0x300000)) q (accesses q (runsPerLane (.st none ⟨2, 102, 98, 0⟩)) (fun q l => .generic ((q.addr 98 l + BitVec.ofInt 64 ((0#7).toInt * 4)).toNat))) 4 .write) a) = true → (accesses q (runsPerLane (.st none ⟨2, 102, 98, 0⟩)) (fun q l => .generic ((q.addr 98 l + BitVec.ofInt 64 ((0#7).toInt * 4)).toNat))) = [a]) ∧ ((.write : Access) = .read → ((laneTarget (issuing 32 0x8759B100 (regs [(2, 0x300FFC)]) (withPage 0x300000)) q (accesses q (runsPerLane (.st none ⟨2, 102, 98, 0⟩)) (fun q l => .generic ((q.addr 98 l + BitVec.ofInt 64 ((0#7).toInt * 4)).toNat))) 4 .write) a).isHost = true → hostArrived (issuing 32 0x8759B100 (regs [(2, 0x300FFC)]) (withPage 0x300000)) q.asker = true)) ∧ ((q.order.rel = true ∧ 5 ≤ q.order.scope) ∨ (∃ t ∈ ((accesses q (runsPerLane (.st none ⟨2, 102, 98, 0⟩)) (fun q l => .generic ((q.addr 98 l + BitVec.ofInt 64 ((0#7).toInt * 4)).toNat)))).map (laneTarget (issuing 32 0x8759B100 (regs [(2, 0x300FFC)]) (withPage 0x300000)) q (accesses q (runsPerLane (.st none ⟨2, 102, 98, 0⟩)) (fun q l => .generic ((q.addr 98 l + BitVec.ofInt 64 ((0#7).toInt * 4)).toNat))) 4 .write), t.so = true) → putsOpen (issuing 32 0x8759B100 (regs [(2, 0x300FFC)]) (withPage 0x300000)) q.m.uid q.t.index = false))) (by decide +kernel)⟩,
    ⟨issuing 32 0x8701B100 (regs [(2, 0x300000)]) (withPage 0x300000), witness (h := fun q => (((issuing 32 0x8701B100 (regs [(2, 0x300000)]) (withPage 0x300000)).weak = false ∧ (issuing 32 0x8701B100 (regs [(2, 0x300000)]) (withPage 0x300000)).pendStores = []) ∧ (∀ a ∈ (accesses q (runsPerLane (.st none ⟨0, 6, 98, 0⟩)) (fun q l => .generic ((q.addr 98 l + BitVec.ofInt 64 ((0#7).toInt * 1)).toNat))), a.loc.num % 1 = 0 ∧ ((laneTarget (issuing 32 0x8701B100 (regs [(2, 0x300000)]) (withPage 0x300000)) q (accesses q (runsPerLane (.st none ⟨0, 6, 98, 0⟩)) (fun q l => .generic ((q.addr 98 l + BitVec.ofInt 64 ((0#7).toInt * 1)).toNat))) 1 .write) a).plain (issuing 32 0x8701B100 (regs [(2, 0x300000)]) (withPage 0x300000)) = true ∧ (findsCopy (issuing 32 0x8701B100 (regs [(2, 0x300000)]) (withPage 0x300000)) q ((laneTarget (issuing 32 0x8701B100 (regs [(2, 0x300000)]) (withPage 0x300000)) q (accesses q (runsPerLane (.st none ⟨0, 6, 98, 0⟩)) (fun q l => .generic ((q.addr 98 l + BitVec.ofInt 64 ((0#7).toInt * 1)).toNat))) 1 .write) a) = true → (accesses q (runsPerLane (.st none ⟨0, 6, 98, 0⟩)) (fun q l => .generic ((q.addr 98 l + BitVec.ofInt 64 ((0#7).toInt * 1)).toNat))) = [a]) ∧ ((.write : Access) = .read → ((laneTarget (issuing 32 0x8701B100 (regs [(2, 0x300000)]) (withPage 0x300000)) q (accesses q (runsPerLane (.st none ⟨0, 6, 98, 0⟩)) (fun q l => .generic ((q.addr 98 l + BitVec.ofInt 64 ((0#7).toInt * 1)).toNat))) 1 .write) a).isHost = true → hostArrived (issuing 32 0x8701B100 (regs [(2, 0x300000)]) (withPage 0x300000)) q.asker = true)) ∧ ((q.order.rel = true ∧ 5 ≤ q.order.scope) ∨ (∃ t ∈ ((accesses q (runsPerLane (.st none ⟨0, 6, 98, 0⟩)) (fun q l => .generic ((q.addr 98 l + BitVec.ofInt 64 ((0#7).toInt * 1)).toNat)))).map (laneTarget (issuing 32 0x8701B100 (regs [(2, 0x300000)]) (withPage 0x300000)) q (accesses q (runsPerLane (.st none ⟨0, 6, 98, 0⟩)) (fun q l => .generic ((q.addr 98 l + BitVec.ofInt 64 ((0#7).toInt * 1)).toNat))) 1 .write), t.so = true) → putsOpen (issuing 32 0x8701B100 (regs [(2, 0x300000)]) (withPage 0x300000)) q.m.uid q.t.index = false))) (by decide +kernel)⟩,
    ⟨issuing 32 0x89993080 (regs [(1, 16368)]), witness (h := fun q => (((issuing 32 0x89993080 (regs [(1, 16368)])).weak = false ∧ (issuing 32 0x89993080 (regs [(1, 16368)])).pendStores = []) ∧ (∀ a ∈ (accesses q (runsPerLane (.sts none ⟨4, 100, 97, 0⟩)) (fun q l => .scratch ((q.read 97 1 l : Int) + (0#7).toInt * 16))), a.loc.num % 16 = 0 ∧ ((laneTarget (issuing 32 0x89993080 (regs [(1, 16368)])) q (accesses q (runsPerLane (.sts none ⟨4, 100, 97, 0⟩)) (fun q l => .scratch ((q.read 97 1 l : Int) + (0#7).toInt * 16))) 16 .write) a).plain (issuing 32 0x89993080 (regs [(1, 16368)])) = true ∧ (findsCopy (issuing 32 0x89993080 (regs [(1, 16368)])) q ((laneTarget (issuing 32 0x89993080 (regs [(1, 16368)])) q (accesses q (runsPerLane (.sts none ⟨4, 100, 97, 0⟩)) (fun q l => .scratch ((q.read 97 1 l : Int) + (0#7).toInt * 16))) 16 .write) a) = true → (accesses q (runsPerLane (.sts none ⟨4, 100, 97, 0⟩)) (fun q l => .scratch ((q.read 97 1 l : Int) + (0#7).toInt * 16))) = [a]) ∧ ((.write : Access) = .read → ((laneTarget (issuing 32 0x89993080 (regs [(1, 16368)])) q (accesses q (runsPerLane (.sts none ⟨4, 100, 97, 0⟩)) (fun q l => .scratch ((q.read 97 1 l : Int) + (0#7).toInt * 16))) 16 .write) a).isHost = true → hostArrived (issuing 32 0x89993080 (regs [(1, 16368)])) q.asker = true)) ∧ ((q.order.rel = true ∧ 5 ≤ q.order.scope) ∨ (∃ t ∈ ((accesses q (runsPerLane (.sts none ⟨4, 100, 97, 0⟩)) (fun q l => .scratch ((q.read 97 1 l : Int) + (0#7).toInt * 16)))).map (laneTarget (issuing 32 0x89993080 (regs [(1, 16368)])) q (accesses q (runsPerLane (.sts none ⟨4, 100, 97, 0⟩)) (fun q l => .scratch ((q.read 97 1 l : Int) + (0#7).toInt * 16))) 16 .write), t.so = true) → putsOpen (issuing 32 0x89993080 (regs [(1, 16368)])) q.m.uid q.t.index = false))) (by decide +kernel)⟩,
    ⟨issuing 32 0x8B41B08F (fun t => { t with mask := 1 }) (fun s => withPage 0x300000 (updMotif s 0 fun m => { m with header := { m.header with priv := 64 }, desc := { m.desc with pbase := 0x300000 } })), witness (h := fun q => (((issuing 32 0x8B41B08F (fun t => { t with mask := 1 }) (fun s => withPage 0x300000 (updMotif s 0 fun m => { m with header := { m.header with priv := 64 }, desc := { m.desc with pbase := 0x300000 } }))).weak = false ∧ (issuing 32 0x8B41B08F (fun t => { t with mask := 1 }) (fun s => withPage 0x300000 (updMotif s 0 fun m => { m with header := { m.header with priv := 64 }, desc := { m.desc with pbase := 0x300000 } }))).pendStores = []) ∧ (∀ a ∈ (accesses q (true) (fun q l => .priv ((q.read 97 1 l : Int) + (15#7).toInt * 4))), a.loc.num % 4 = 0 ∧ ((laneTarget (issuing 32 0x8B41B08F (fun t => { t with mask := 1 }) (fun s => withPage 0x300000 (updMotif s 0 fun m => { m with header := { m.header with priv := 64 }, desc := { m.desc with pbase := 0x300000 } }))) q (accesses q (true) (fun q l => .priv ((q.read 97 1 l : Int) + (15#7).toInt * 4))) 4 .write) a).plain (issuing 32 0x8B41B08F (fun t => { t with mask := 1 }) (fun s => withPage 0x300000 (updMotif s 0 fun m => { m with header := { m.header with priv := 64 }, desc := { m.desc with pbase := 0x300000 } }))) = true ∧ (findsCopy (issuing 32 0x8B41B08F (fun t => { t with mask := 1 }) (fun s => withPage 0x300000 (updMotif s 0 fun m => { m with header := { m.header with priv := 64 }, desc := { m.desc with pbase := 0x300000 } }))) q ((laneTarget (issuing 32 0x8B41B08F (fun t => { t with mask := 1 }) (fun s => withPage 0x300000 (updMotif s 0 fun m => { m with header := { m.header with priv := 64 }, desc := { m.desc with pbase := 0x300000 } }))) q (accesses q (true) (fun q l => .priv ((q.read 97 1 l : Int) + (15#7).toInt * 4))) 4 .write) a) = true → (accesses q (true) (fun q l => .priv ((q.read 97 1 l : Int) + (15#7).toInt * 4))) = [a]) ∧ ((.write : Access) = .read → ((laneTarget (issuing 32 0x8B41B08F (fun t => { t with mask := 1 }) (fun s => withPage 0x300000 (updMotif s 0 fun m => { m with header := { m.header with priv := 64 }, desc := { m.desc with pbase := 0x300000 } }))) q (accesses q (true) (fun q l => .priv ((q.read 97 1 l : Int) + (15#7).toInt * 4))) 4 .write) a).isHost = true → hostArrived (issuing 32 0x8B41B08F (fun t => { t with mask := 1 }) (fun s => withPage 0x300000 (updMotif s 0 fun m => { m with header := { m.header with priv := 64 }, desc := { m.desc with pbase := 0x300000 } }))) q.asker = true)) ∧ ((q.order.rel = true ∧ 5 ≤ q.order.scope) ∨ (∃ t ∈ ((accesses q (true) (fun q l => .priv ((q.read 97 1 l : Int) + (15#7).toInt * 4)))).map (laneTarget (issuing 32 0x8B41B08F (fun t => { t with mask := 1 }) (fun s => withPage 0x300000 (updMotif s 0 fun m => { m with header := { m.header with priv := 64 }, desc := { m.desc with pbase := 0x300000 } }))) q (accesses q (true) (fun q l => .priv ((q.read 97 1 l : Int) + (15#7).toInt * 4))) 4 .write), t.so = true) → putsOpen (issuing 32 0x8B41B08F (fun t => { t with mask := 1 }) (fun s => withPage 0x300000 (updMotif s 0 fun m => { m with header := { m.header with priv := 64 }, desc := { m.desc with pbase := 0x300000 } }))) q.m.uid q.t.index = false))) (by decide +kernel)⟩⟩

theorem witness_Atomics :
    (∃ s q, Issues s (.atom (some ⟨0, 0, 4, false, false, 0, 0⟩) ⟨3, 1, 98, 3⟩) q ∧ (s.inOrder ∧ Local s q (accesses q (runsPerLane (.atom (some ⟨0, 0, 4, false, false, 0, 0⟩) ⟨3, 1, 98, 3⟩)) (fun q l => .generic (q.read 98 2 l))) 4 .write ∧ AcksIn s q (((accesses q (runsPerLane (.atom (some ⟨0, 0, 4, false, false, 0, 0⟩) ⟨3, 1, 98, 3⟩)) (fun q l => .generic (q.read 98 2 l)))).map (laneTarget s q (accesses q (runsPerLane (.atom (some ⟨0, 0, 4, false, false, 0, 0⟩) ⟨3, 1, 98, 3⟩)) (fun q l => .generic (q.read 98 2 l))) 4 .write)))) ∧
    (∃ s q, Issues s (.atom64 none ⟨0, 100, 98, 102⟩) q ∧ (s.inOrder ∧ Local s q (accesses q (runsPerLane (.atom64 none ⟨0, 100, 98, 102⟩)) (fun q l => .generic (q.read 98 2 l))) 8 .write ∧ AcksIn s q (((accesses q (runsPerLane (.atom64 none ⟨0, 100, 98, 102⟩)) (fun q l => .generic (q.read 98 2 l)))).map (laneTarget s q (accesses q (runsPerLane (.atom64 none ⟨0, 100, 98, 102⟩)) (fun q l => .generic (q.read 98 2 l))) 8 .write)))) ∧
    (∃ s q, Issues s (.atoms none ⟨2, 1, 97, 3⟩) q ∧ (s.inOrder ∧ Local s q (accesses q (runsPerLane (.atoms none ⟨2, 1, 97, 3⟩)) (fun q l => .scratch (q.read 97 1 l))) 4 .write ∧ AcksIn s q (((accesses q (runsPerLane (.atoms none ⟨2, 1, 97, 3⟩)) (fun q l => .scratch (q.read 97 1 l)))).map (laneTarget s q (accesses q (runsPerLane (.atoms none ⟨2, 1, 97, 3⟩)) (fun q l => .scratch (q.read 97 1 l))) 4 .write)))) ∧
    (∃ s q, Issues s (.atoms64 none ⟨1, 100, 97, 102⟩) q ∧ (s.inOrder ∧ Local s q (accesses q (runsPerLane (.atoms64 none ⟨1, 100, 97, 102⟩)) (fun q l => .scratch (q.read 97 1 l))) 8 .write ∧ AcksIn s q (((accesses q (runsPerLane (.atoms64 none ⟨1, 100, 97, 102⟩)) (fun q l => .scratch (q.read 97 1 l)))).map (laneTarget s q (accesses q (runsPerLane (.atoms64 none ⟨1, 100, 97, 102⟩)) (fun q l => .scratch (q.read 97 1 l))) 8 .write)))) ∧
    (∃ s q, Issues s (.red none ⟨0, 0, 98, 3⟩) q ∧ (s.inOrder ∧ Local s q (accesses q (runsPerLane (.red none ⟨0, 0, 98, 3⟩)) (fun q l => .generic (q.read 98 2 l))) 4 .write ∧ AcksIn s q (((accesses q (runsPerLane (.red none ⟨0, 0, 98, 3⟩)) (fun q l => .generic (q.read 98 2 l)))).map (laneTarget s q (accesses q (runsPerLane (.red none ⟨0, 0, 98, 3⟩)) (fun q l => .generic (q.read 98 2 l))) 4 .write)))) ∧
    (∃ s q, Issues s (.red none ⟨7, 1, 98, 100⟩) q ∧ (s.inOrder ∧ Local s q (accesses q (runsPerLane (.red none ⟨7, 1, 98, 100⟩)) (fun q l => .generic (q.read 98 2 l))) 8 .write ∧ AcksIn s q (((accesses q (runsPerLane (.red none ⟨7, 1, 98, 100⟩)) (fun q l => .generic (q.read 98 2 l)))).map (laneTarget s q (accesses q (runsPerLane (.red none ⟨7, 1, 98, 100⟩)) (fun q l => .generic (q.read 98 2 l))) 8 .write)))) :=
  ⟨⟨issuing 64 0x8C607103FF000800 (regs [(2, 0x300000)]) (withPage 0x300000), witness (h := fun q => (((issuing 64 0x8C607103FF000800 (regs [(2, 0x300000)]) (withPage 0x300000)).weak = false ∧ (issuing 64 0x8C607103FF000800 (regs [(2, 0x300000)]) (withPage 0x300000)).pendStores = []) ∧ (∀ a ∈ (accesses q (runsPerLane (.atom (some ⟨0, 0, 4, false, false, 0, 0⟩) ⟨3, 1, 98, 3⟩)) (fun q l => .generic (q.read 98 2 l))), a.loc.num % 4 = 0 ∧ ((laneTarget (issuing 64 0x8C607103FF000800 (regs [(2, 0x300000)]) (withPage 0x300000)) q (accesses q (runsPerLane (.atom (some ⟨0, 0, 4, false, false, 0, 0⟩) ⟨3, 1, 98, 3⟩)) (fun q l => .generic (q.read 98 2 l))) 4 .write) a).plain (issuing 64 0x8C607103FF000800 (regs [(2, 0x300000)]) (withPage 0x300000)) = true ∧ (findsCopy (issuing 64 0x8C607103FF000800 (regs [(2, 0x300000)]) (withPage 0x300000)) q ((laneTarget (issuing 64 0x8C607103FF000800 (regs [(2, 0x300000)]) (withPage 0x300000)) q (accesses q (runsPerLane (.atom (some ⟨0, 0, 4, false, false, 0, 0⟩) ⟨3, 1, 98, 3⟩)) (fun q l => .generic (q.read 98 2 l))) 4 .write) a) = true → (accesses q (runsPerLane (.atom (some ⟨0, 0, 4, false, false, 0, 0⟩) ⟨3, 1, 98, 3⟩)) (fun q l => .generic (q.read 98 2 l))) = [a]) ∧ ((.write : Access) = .read → ((laneTarget (issuing 64 0x8C607103FF000800 (regs [(2, 0x300000)]) (withPage 0x300000)) q (accesses q (runsPerLane (.atom (some ⟨0, 0, 4, false, false, 0, 0⟩) ⟨3, 1, 98, 3⟩)) (fun q l => .generic (q.read 98 2 l))) 4 .write) a).isHost = true → hostArrived (issuing 64 0x8C607103FF000800 (regs [(2, 0x300000)]) (withPage 0x300000)) q.asker = true)) ∧ ((q.order.rel = true ∧ 5 ≤ q.order.scope) ∨ (∃ t ∈ ((accesses q (runsPerLane (.atom (some ⟨0, 0, 4, false, false, 0, 0⟩) ⟨3, 1, 98, 3⟩)) (fun q l => .generic (q.read 98 2 l)))).map (laneTarget (issuing 64 0x8C607103FF000800 (regs [(2, 0x300000)]) (withPage 0x300000)) q (accesses q (runsPerLane (.atom (some ⟨0, 0, 4, false, false, 0, 0⟩) ⟨3, 1, 98, 3⟩)) (fun q l => .generic (q.read 98 2 l))) 4 .write), t.so = true) → putsOpen (issuing 64 0x8C607103FF000800 (regs [(2, 0x300000)]) (withPage 0x300000)) q.m.uid q.t.index = false))) (by decide +kernel)⟩,
    ⟨issuing 32 0x8D193166 (regs [(2, 0x300FF8)]) (withPage 0x300000), witness (h := fun q => (((issuing 32 0x8D193166 (regs [(2, 0x300FF8)]) (withPage 0x300000)).weak = false ∧ (issuing 32 0x8D193166 (regs [(2, 0x300FF8)]) (withPage 0x300000)).pendStores = []) ∧ (∀ a ∈ (accesses q (runsPerLane (.atom64 none ⟨0, 100, 98, 102⟩)) (fun q l => .generic (q.read 98 2 l))), a.loc.num % 8 = 0 ∧ ((laneTarget (issuing 32 0x8D193166 (regs [(2, 0x300FF8)]) (withPage 0x300000)) q (accesses q (runsPerLane (.atom64 none ⟨0, 100, 98, 102⟩)) (fun q l => .generic (q.read 98 2 l))) 8 .write) a).plain (issuing 32 0x8D193166 (regs [(2, 0x300FF8)]) (withPage 0x300000)) = true ∧ (findsCopy (issuing 32 0x8D193166 (regs [(2, 0x300FF8)]) (withPage 0x300000)) q ((laneTarget (issuing 32 0x8D193166 (regs [(2, 0x300FF8)]) (withPage 0x300000)) q (accesses q (runsPerLane (.atom64 none ⟨0, 100, 98, 102⟩)) (fun q l => .generic (q.read 98 2 l))) 8 .write) a) = true → (accesses q (runsPerLane (.atom64 none ⟨0, 100, 98, 102⟩)) (fun q l => .generic (q.read 98 2 l))) = [a]) ∧ ((.write : Access) = .read → ((laneTarget (issuing 32 0x8D193166 (regs [(2, 0x300FF8)]) (withPage 0x300000)) q (accesses q (runsPerLane (.atom64 none ⟨0, 100, 98, 102⟩)) (fun q l => .generic (q.read 98 2 l))) 8 .write) a).isHost = true → hostArrived (issuing 32 0x8D193166 (regs [(2, 0x300FF8)]) (withPage 0x300000)) q.asker = true)) ∧ ((q.order.rel = true ∧ 5 ≤ q.order.scope) ∨ (∃ t ∈ ((accesses q (runsPerLane (.atom64 none ⟨0, 100, 98, 102⟩)) (fun q l => .generic (q.read 98 2 l)))).map (laneTarget (issuing 32 0x8D193166 (regs [(2, 0x300FF8)]) (withPage 0x300000)) q (accesses q (runsPerLane (.atom64 none ⟨0, 100, 98, 102⟩)) (fun q l => .generic (q.read 98 2 l))) 8 .write), t.so = true) → putsOpen (issuing 32 0x8D193166 (regs [(2, 0x300FF8)]) (withPage 0x300000)) q.m.uid q.t.index = false))) (by decide +kernel)⟩,
    ⟨issuing 32 0x8F407083 (regs [(1, 16380)]) (withPage 0x300000), witness (h := fun q => (((issuing 32 0x8F407083 (regs [(1, 16380)]) (withPage 0x300000)).weak = false ∧ (issuing 32 0x8F407083 (regs [(1, 16380)]) (withPage 0x300000)).pendStores = []) ∧ (∀ a ∈ (accesses q (runsPerLane (.atoms none ⟨2, 1, 97, 3⟩)) (fun q l => .scratch (q.read 97 1 l))), a.loc.num % 4 = 0 ∧ ((laneTarget (issuing 32 0x8F407083 (regs [(1, 16380)]) (withPage 0x300000)) q (accesses q (runsPerLane (.atoms none ⟨2, 1, 97, 3⟩)) (fun q l => .scratch (q.read 97 1 l))) 4 .write) a).plain (issuing 32 0x8F407083 (regs [(1, 16380)]) (withPage 0x300000)) = true ∧ (findsCopy (issuing 32 0x8F407083 (regs [(1, 16380)]) (withPage 0x300000)) q ((laneTarget (issuing 32 0x8F407083 (regs [(1, 16380)]) (withPage 0x300000)) q (accesses q (runsPerLane (.atoms none ⟨2, 1, 97, 3⟩)) (fun q l => .scratch (q.read 97 1 l))) 4 .write) a) = true → (accesses q (runsPerLane (.atoms none ⟨2, 1, 97, 3⟩)) (fun q l => .scratch (q.read 97 1 l))) = [a]) ∧ ((.write : Access) = .read → ((laneTarget (issuing 32 0x8F407083 (regs [(1, 16380)]) (withPage 0x300000)) q (accesses q (runsPerLane (.atoms none ⟨2, 1, 97, 3⟩)) (fun q l => .scratch (q.read 97 1 l))) 4 .write) a).isHost = true → hostArrived (issuing 32 0x8F407083 (regs [(1, 16380)]) (withPage 0x300000)) q.asker = true)) ∧ ((q.order.rel = true ∧ 5 ≤ q.order.scope) ∨ (∃ t ∈ ((accesses q (runsPerLane (.atoms none ⟨2, 1, 97, 3⟩)) (fun q l => .scratch (q.read 97 1 l)))).map (laneTarget (issuing 32 0x8F407083 (regs [(1, 16380)]) (withPage 0x300000)) q (accesses q (runsPerLane (.atoms none ⟨2, 1, 97, 3⟩)) (fun q l => .scratch (q.read 97 1 l))) 4 .write), t.so = true) → putsOpen (issuing 32 0x8F407083 (regs [(1, 16380)]) (withPage 0x300000)) q.m.uid q.t.index = false))) (by decide +kernel)⟩,
    ⟨issuing 32 0x983930E6 (regs [(1, 16376)]) (withPage 0x300000), witness (h := fun q => (((issuing 32 0x983930E6 (regs [(1, 16376)]) (withPage 0x300000)).weak = false ∧ (issuing 32 0x983930E6 (regs [(1, 16376)]) (withPage 0x300000)).pendStores = []) ∧ (∀ a ∈ (accesses q (runsPerLane (.atoms64 none ⟨1, 100, 97, 102⟩)) (fun q l => .scratch (q.read 97 1 l))), a.loc.num % 8 = 0 ∧ ((laneTarget (issuing 32 0x983930E6 (regs [(1, 16376)]) (withPage 0x300000)) q (accesses q (runsPerLane (.atoms64 none ⟨1, 100, 97, 102⟩)) (fun q l => .scratch (q.read 97 1 l))) 8 .write) a).plain (issuing 32 0x983930E6 (regs [(1, 16376)]) (withPage 0x300000)) = true ∧ (findsCopy (issuing 32 0x983930E6 (regs [(1, 16376)]) (withPage 0x300000)) q ((laneTarget (issuing 32 0x983930E6 (regs [(1, 16376)]) (withPage 0x300000)) q (accesses q (runsPerLane (.atoms64 none ⟨1, 100, 97, 102⟩)) (fun q l => .scratch (q.read 97 1 l))) 8 .write) a) = true → (accesses q (runsPerLane (.atoms64 none ⟨1, 100, 97, 102⟩)) (fun q l => .scratch (q.read 97 1 l))) = [a]) ∧ ((.write : Access) = .read → ((laneTarget (issuing 32 0x983930E6 (regs [(1, 16376)]) (withPage 0x300000)) q (accesses q (runsPerLane (.atoms64 none ⟨1, 100, 97, 102⟩)) (fun q l => .scratch (q.read 97 1 l))) 8 .write) a).isHost = true → hostArrived (issuing 32 0x983930E6 (regs [(1, 16376)]) (withPage 0x300000)) q.asker = true)) ∧ ((q.order.rel = true ∧ 5 ≤ q.order.scope) ∨ (∃ t ∈ ((accesses q (runsPerLane (.atoms64 none ⟨1, 100, 97, 102⟩)) (fun q l => .scratch (q.read 97 1 l)))).map (laneTarget (issuing 32 0x983930E6 (regs [(1, 16376)]) (withPage 0x300000)) q (accesses q (runsPerLane (.atoms64 none ⟨1, 100, 97, 102⟩)) (fun q l => .scratch (q.read 97 1 l))) 8 .write), t.so = true) → putsOpen (issuing 32 0x983930E6 (regs [(1, 16376)]) (withPage 0x300000)) q.m.uid q.t.index = false))) (by decide +kernel)⟩,
    ⟨issuing 32 0x8E003103 (regs [(2, 0x300000)]) (withPage 0x300000), witness (h := fun q => (((issuing 32 0x8E003103 (regs [(2, 0x300000)]) (withPage 0x300000)).weak = false ∧ (issuing 32 0x8E003103 (regs [(2, 0x300000)]) (withPage 0x300000)).pendStores = []) ∧ (∀ a ∈ (accesses q (runsPerLane (.red none ⟨0, 0, 98, 3⟩)) (fun q l => .generic (q.read 98 2 l))), a.loc.num % 4 = 0 ∧ ((laneTarget (issuing 32 0x8E003103 (regs [(2, 0x300000)]) (withPage 0x300000)) q (accesses q (runsPerLane (.red none ⟨0, 0, 98, 3⟩)) (fun q l => .generic (q.read 98 2 l))) 4 .write) a).plain (issuing 32 0x8E003103 (regs [(2, 0x300000)]) (withPage 0x300000)) = true ∧ (findsCopy (issuing 32 0x8E003103 (regs [(2, 0x300000)]) (withPage 0x300000)) q ((laneTarget (issuing 32 0x8E003103 (regs [(2, 0x300000)]) (withPage 0x300000)) q (accesses q (runsPerLane (.red none ⟨0, 0, 98, 3⟩)) (fun q l => .generic (q.read 98 2 l))) 4 .write) a) = true → (accesses q (runsPerLane (.red none ⟨0, 0, 98, 3⟩)) (fun q l => .generic (q.read 98 2 l))) = [a]) ∧ ((.write : Access) = .read → ((laneTarget (issuing 32 0x8E003103 (regs [(2, 0x300000)]) (withPage 0x300000)) q (accesses q (runsPerLane (.red none ⟨0, 0, 98, 3⟩)) (fun q l => .generic (q.read 98 2 l))) 4 .write) a).isHost = true → hostArrived (issuing 32 0x8E003103 (regs [(2, 0x300000)]) (withPage 0x300000)) q.asker = true)) ∧ ((q.order.rel = true ∧ 5 ≤ q.order.scope) ∨ (∃ t ∈ ((accesses q (runsPerLane (.red none ⟨0, 0, 98, 3⟩)) (fun q l => .generic (q.read 98 2 l)))).map (laneTarget (issuing 32 0x8E003103 (regs [(2, 0x300000)]) (withPage 0x300000)) q (accesses q (runsPerLane (.red none ⟨0, 0, 98, 3⟩)) (fun q l => .generic (q.read 98 2 l))) 4 .write), t.so = true) → putsOpen (issuing 32 0x8E003103 (regs [(2, 0x300000)]) (withPage 0x300000)) q.m.uid q.t.index = false))) (by decide +kernel)⟩,
    ⟨issuing 32 0x8EE07164 (regs [(2, 0x300000)]) (withPage 0x300000), witness (h := fun q => (((issuing 32 0x8EE07164 (regs [(2, 0x300000)]) (withPage 0x300000)).weak = false ∧ (issuing 32 0x8EE07164 (regs [(2, 0x300000)]) (withPage 0x300000)).pendStores = []) ∧ (∀ a ∈ (accesses q (runsPerLane (.red none ⟨7, 1, 98, 100⟩)) (fun q l => .generic (q.read 98 2 l))), a.loc.num % 8 = 0 ∧ ((laneTarget (issuing 32 0x8EE07164 (regs [(2, 0x300000)]) (withPage 0x300000)) q (accesses q (runsPerLane (.red none ⟨7, 1, 98, 100⟩)) (fun q l => .generic (q.read 98 2 l))) 8 .write) a).plain (issuing 32 0x8EE07164 (regs [(2, 0x300000)]) (withPage 0x300000)) = true ∧ (findsCopy (issuing 32 0x8EE07164 (regs [(2, 0x300000)]) (withPage 0x300000)) q ((laneTarget (issuing 32 0x8EE07164 (regs [(2, 0x300000)]) (withPage 0x300000)) q (accesses q (runsPerLane (.red none ⟨7, 1, 98, 100⟩)) (fun q l => .generic (q.read 98 2 l))) 8 .write) a) = true → (accesses q (runsPerLane (.red none ⟨7, 1, 98, 100⟩)) (fun q l => .generic (q.read 98 2 l))) = [a]) ∧ ((.write : Access) = .read → ((laneTarget (issuing 32 0x8EE07164 (regs [(2, 0x300000)]) (withPage 0x300000)) q (accesses q (runsPerLane (.red none ⟨7, 1, 98, 100⟩)) (fun q l => .generic (q.read 98 2 l))) 8 .write) a).isHost = true → hostArrived (issuing 32 0x8EE07164 (regs [(2, 0x300000)]) (withPage 0x300000)) q.asker = true)) ∧ ((q.order.rel = true ∧ 5 ≤ q.order.scope) ∨ (∃ t ∈ ((accesses q (runsPerLane (.red none ⟨7, 1, 98, 100⟩)) (fun q l => .generic (q.read 98 2 l)))).map (laneTarget (issuing 32 0x8EE07164 (regs [(2, 0x300000)]) (withPage 0x300000)) q (accesses q (runsPerLane (.red none ⟨7, 1, 98, 100⟩)) (fun q l => .generic (q.read 98 2 l))) 8 .write), t.so = true) → putsOpen (issuing 32 0x8EE07164 (regs [(2, 0x300000)]) (withPage 0x300000)) q.m.uid q.t.index = false))) (by decide +kernel)⟩⟩

theorem witness_FencesAndHostLines :
    (∃ s q, Issues s (.fence (some ⟨0, 3, 0, false, false, 6, 0⟩) ⟨1, 0, 0, 0⟩) q ∧ ((q.rm = 2 ∨ q.rm = 3 → 5 ≤ q.mod.toNat → putsOpen s q.m.uid q.t.index = false))) ∧
    (∃ s q, Issues s (.hflush none ⟨0, 0, 98, 100⟩) q ∧ (s.inOrder ∧ targetStop s q.view .read (hostRangeTargets s q (rangesOf q (runsPerLane (.hflush none ⟨0, 0, 98, 100⟩)) 98 100)) = none)) ∧
    (∃ s q, Issues s (.cinv none ⟨0, 0, 98, 100⟩) q ∧ (s.inOrder ∧ targetStop s q.view .read (hostRangeTargets s q (rangesOf q (runsPerLane (.cinv none ⟨0, 0, 98, 100⟩)) 98 100)) = none)) ∧
    (∃ s q, Issues s (.pref none ⟨1, 0, 98, 0⟩) q ∧ s.inOrder) ∧
    (∃ s q, Issues s (.privaddr none ⟨0, 2, 1, 0⟩) q ∧ (∀ l < 96, q.act.getLsbD l → q.read 1 1 l < q.m.header.priv)) :=
  ⟨⟨issuing 64 0x90200000FF030060, witness (by decide)⟩,
    ⟨issuing 32 0x91003164 (regs [(2, 0x300000), (4, 128)]) (withPage 0x300000), witness (h := fun q => (((issuing 32 0x91003164 (regs [(2, 0x300000), (4, 128)]) (withPage 0x300000)).weak = false ∧ (issuing 32 0x91003164 (regs [(2, 0x300000), (4, 128)]) (withPage 0x300000)).pendStores = []) ∧ targetStop (issuing 32 0x91003164 (regs [(2, 0x300000), (4, 128)]) (withPage 0x300000)) q.view .read (hostRangeTargets (issuing 32 0x91003164 (regs [(2, 0x300000), (4, 128)]) (withPage 0x300000)) q (rangesOf q (runsPerLane (.hflush none ⟨0, 0, 98, 100⟩)) 98 100)) = none)) (by decide)⟩,
    ⟨issuing 32 0x92003164 (regs [(2, 0x300000), (4, 128)]) (withPage 0x300000), witness (h := fun q => (((issuing 32 0x92003164 (regs [(2, 0x300000), (4, 128)]) (withPage 0x300000)).weak = false ∧ (issuing 32 0x92003164 (regs [(2, 0x300000), (4, 128)]) (withPage 0x300000)).pendStores = []) ∧ targetStop (issuing 32 0x92003164 (regs [(2, 0x300000), (4, 128)]) (withPage 0x300000)) q.view .read (hostRangeTargets (issuing 32 0x92003164 (regs [(2, 0x300000), (4, 128)]) (withPage 0x300000)) q (rangesOf q (runsPerLane (.cinv none ⟨0, 0, 98, 100⟩)) 98 100)) = none)) (by decide)⟩,
    ⟨issuing 32 0x93203100, witness (h := fun q => ((issuing 32 0x93203100).weak = false ∧ (issuing 32 0x93203100).pendStores = [])) (by decide)⟩,
    ⟨issuing 32 0x94008080 (fun t => { t.setVec 1 7 [63] with mask := 128 }) (fun s => withPage 0x300000 (updMotif s 0 fun m => { m with header := { m.header with priv := 64 }, desc := { m.desc with pbase := 0x300000 } })), witness (by decide)⟩⟩

theorem witness_CompressionIsLossless : (List.replicate 128 (0 : Byte)).length = 128 ∧ (0 : Nat) ≤ 8 ∧ fitsTag (List.replicate 128 0) 0 = true ∧
    fitsTag (List.replicate 128 0) 8 = true := by decide +kernel

theorem witness_LineConversions :
    (∃ s q, Issues s (.cconv none ⟨1, 0, 98, 100⟩) q ∧ (s.inOrder ∧ (∀ r ∈ rangesOf q (runsPerLane (.cconv none ⟨1, 0, 98, 100⟩)) 98 100, r.2.2 ≤ 2 ^ 24) ∧ (∀ e ∈ ((rangesOf q (runsPerLane (.cconv none ⟨1, 0, 98, 100⟩)) 98 100).flatMap fun r => (piecesOf r.2.1 r.2.2 128).map fun a =>
        (a % 2 ^ 64, resolve s q.view none (a % 2 ^ 64) 1 .read)), formatting s e.2 = false ∧ (match e.2 with
      | .phys _ _ => true
      | .scratch _ => true
      | _ => false) = true))) ∧
    (∃ s q, Issues s (.cconv none ⟨2, 0, 98, 100⟩) q ∧ (s.inOrder ∧ (∀ r ∈ rangesOf q (runsPerLane (.cconv none ⟨2, 0, 98, 100⟩)) 98 100, r.2.2 ≤ 2 ^ 24) ∧ (∀ e ∈ ((rangesOf q (runsPerLane (.cconv none ⟨2, 0, 98, 100⟩)) 98 100).flatMap fun r => (piecesOf r.2.1 r.2.2 128).map fun a =>
        (a % 2 ^ 64, resolve s q.view none (a % 2 ^ 64) 1 .read)), formatting s e.2 = false ∧ (match e.2 with
      | .phys _ _ => true
      | .scratch _ => true
      | _ => false) = true))) ∧
    (∃ s q, Issues s (.cconv none ⟨3, 0, 98, 100⟩) q ∧ (s.inOrder ∧ (∀ r ∈ rangesOf q (runsPerLane (.cconv none ⟨3, 0, 98, 100⟩)) 98 100, r.2.2 ≤ 2 ^ 24) ∧ (∀ e ∈ ((rangesOf q (runsPerLane (.cconv none ⟨3, 0, 98, 100⟩)) 98 100).flatMap fun r => (piecesOf r.2.1 r.2.2 128).map fun a =>
        (a % 2 ^ 64, resolve s q.view none (a % 2 ^ 64) 1 .write)), formatting s e.2 = false ∧ (match e.2 with
      | .phys _ _ => true
      | .scratch _ => true
      | _ => false) = true))) ∧
    (∃ s q, Issues s (.cconv none ⟨0, 102, 98, 0⟩) q ∧ (s.inOrder ∧ (∀ l < 96, q.act.getLsbD l → formatting s (resolve s q.view none (q.read 98 2 0) 1 .read) = false ∧ (match resolve s q.view none (q.read 98 2 0) 1 .read with
      | .phys _ _ => true
      | .scratch _ => true
      | _ => false) = true) ∧ keepsLanes q 102 [BitVec.ofNat 32 0x90])) :=
  ⟨⟨issuing 32 0x95203164 (regs [(2, 0x300040), (4, 128)]) (withPage 0x300000), witness (h := fun q => (((issuing 32 0x95203164 (regs [(2, 0x300040), (4, 128)]) (withPage 0x300000)).weak = false ∧ (issuing 32 0x95203164 (regs [(2, 0x300040), (4, 128)]) (withPage 0x300000)).pendStores = []) ∧ (∀ r ∈ rangesOf q (runsPerLane (.cconv none ⟨1, 0, 98, 100⟩)) 98 100, r.2.2 ≤ 2 ^ 24) ∧ (∀ e ∈ ((rangesOf q (runsPerLane (.cconv none ⟨1, 0, 98, 100⟩)) 98 100).flatMap fun r => (piecesOf r.2.1 r.2.2 128).map fun a =>
        (a % 2 ^ 64, resolve (issuing 32 0x95203164 (regs [(2, 0x300040), (4, 128)]) (withPage 0x300000)) q.view none (a % 2 ^ 64) 1 .read)), formatting (issuing 32 0x95203164 (regs [(2, 0x300040), (4, 128)]) (withPage 0x300000)) e.2 = false ∧ (match e.2 with
      | .phys _ _ => true
      | .scratch _ => true
      | _ => false) = true))) (by decide)⟩,
    ⟨issuing 32 0x95403164 (regs [(2, 0x300040), (4, 128)]) (withPage 0x300000), witness (h := fun q => (((issuing 32 0x95403164 (regs [(2, 0x300040), (4, 128)]) (withPage 0x300000)).weak = false ∧ (issuing 32 0x95403164 (regs [(2, 0x300040), (4, 128)]) (withPage 0x300000)).pendStores = []) ∧ (∀ r ∈ rangesOf q (runsPerLane (.cconv none ⟨2, 0, 98, 100⟩)) 98 100, r.2.2 ≤ 2 ^ 24) ∧ (∀ e ∈ ((rangesOf q (runsPerLane (.cconv none ⟨2, 0, 98, 100⟩)) 98 100).flatMap fun r => (piecesOf r.2.1 r.2.2 128).map fun a =>
        (a % 2 ^ 64, resolve (issuing 32 0x95403164 (regs [(2, 0x300040), (4, 128)]) (withPage 0x300000)) q.view none (a % 2 ^ 64) 1 .read)), formatting (issuing 32 0x95403164 (regs [(2, 0x300040), (4, 128)]) (withPage 0x300000)) e.2 = false ∧ (match e.2 with
      | .phys _ _ => true
      | .scratch _ => true
      | _ => false) = true))) (by decide)⟩,
    ⟨issuing 32 0x95603164 (regs [(2, 0x300040), (4, 128)]) (withPage 0x300000), witness (h := fun q => (((issuing 32 0x95603164 (regs [(2, 0x300040), (4, 128)]) (withPage 0x300000)).weak = false ∧ (issuing 32 0x95603164 (regs [(2, 0x300040), (4, 128)]) (withPage 0x300000)).pendStores = []) ∧ (∀ r ∈ rangesOf q (runsPerLane (.cconv none ⟨3, 0, 98, 100⟩)) 98 100, r.2.2 ≤ 2 ^ 24) ∧ (∀ e ∈ ((rangesOf q (runsPerLane (.cconv none ⟨3, 0, 98, 100⟩)) 98 100).flatMap fun r => (piecesOf r.2.1 r.2.2 128).map fun a =>
        (a % 2 ^ 64, resolve (issuing 32 0x95603164 (regs [(2, 0x300040), (4, 128)]) (withPage 0x300000)) q.view none (a % 2 ^ 64) 1 .write)), formatting (issuing 32 0x95603164 (regs [(2, 0x300040), (4, 128)]) (withPage 0x300000)) e.2 = false ∧ (match e.2 with
      | .phys _ _ => true
      | .scratch _ => true
      | _ => false) = true))) (by decide)⟩,
    ⟨issuing 32 0x9519B100 (regs [(2, 0x300040)]) (withPage 0x300000), witness (h := fun q => (((issuing 32 0x9519B100 (regs [(2, 0x300040)]) (withPage 0x300000)).weak = false ∧ (issuing 32 0x9519B100 (regs [(2, 0x300040)]) (withPage 0x300000)).pendStores = []) ∧ (∀ l < 96, q.act.getLsbD l → formatting (issuing 32 0x9519B100 (regs [(2, 0x300040)]) (withPage 0x300000)) (resolve (issuing 32 0x9519B100 (regs [(2, 0x300040)]) (withPage 0x300000)) q.view none (q.read 98 2 0) 1 .read) = false ∧ (match resolve (issuing 32 0x9519B100 (regs [(2, 0x300040)]) (withPage 0x300000)) q.view none (q.read 98 2 0) 1 .read with
      | .phys _ _ => true
      | .scratch _ => true
      | _ => false) = true) ∧ ((q.t.setScalars q.x.members (scalarNo 102) [BitVec.ofNat 32 0x90]).isSome = true))) (by decide)⟩⟩

/-- The 64 bytes of a handle entry: format, shape, policy, base, dims and strides (R290). -/
def entryOf (fmt shape policy base : Nat) (dims strides : List Nat) (lo hi : Nat) : List Byte :=
  leBytes 1 fmt ++ leBytes 1 shape ++ leBytes 1 policy ++ leBytes 1 0 ++ leBytes 8 base ++ leBytes 8 0 ++
  (List.range 5).flatMap (fun k => leBytes 3 (dims.getD k 1)) ++ leBytes 1 0 ++
  (List.range 5).flatMap (fun k => leBytes 4 (strides.getD k 0)) ++ leBytes 4 lo ++ leBytes 4 hi

/-- The state with a handle of the loaded context in the cluster's cache. -/
def withHandle (n : Nat) (b : List Byte) (s : State) : State :=
  updCluster s 0 0 fun c => { c with handles := c.handles ++ [{ cid := 0, handle := n, bytes := b, sticky := 0 }] }

/-- Eight .f32 elements at 0x300000. -/
def vecEntry : List Byte := entryOf 0 1 0 0x300000 [8] [4] 0 0

/-- The loaded context's handle table at an address, of 16 entries. -/
def withTable (a : Nat) (s : State) : State :=
  updMotif s 0 fun m => { m with desc := { m.desc with htbase := a, hcount := 16 } }

theorem witness_TensorLoads :
    (∃ s q, Issues s (.ldt none ⟨0, 102, 97, 98⟩) q ∧ (s.inOrder ∧ (q.read 97 1 0 < 4096 ∧ cachedEntry s q.m (q.read 97 1 0) = some (⟨0, 1, vecEntry, 0⟩ : CachedHandle)) ∧
      (Use.mk 0 102 (formWidth (parseHandle (⟨0, 1, vecEntry, 0⟩ : CachedHandle).image) 0) false .noQueue).ok q.m q.t = true ∧ (∀ l < 96, q.act.getLsbD l → q.read 98 2 0 < (parseHandle (⟨0, 1, vecEntry, 0⟩ : CachedHandle).image).count) ∧
      Local s q (accesses q (runsPerLane (.ldt none ⟨0, 102, 97, 98⟩)) fun q l => .generic (elemAddr (parseHandle (⟨0, 1, vecEntry, 0⟩ : CachedHandle).image) ((parseHandle (⟨0, 1, vecEntry, 0⟩ : CachedHandle).image).coords (q.read 98 2 l)))) (elemBytes (parseHandle (⟨0, 1, vecEntry, 0⟩ : CachedHandle).image)) .read ∧ isBlock (parseHandle (⟨0, 1, vecEntry, 0⟩ : CachedHandle).image).fmt = false ∧ q.t.arithTraps ((ldtValue (parseHandle (⟨0, 1, vecEntry, 0⟩ : CachedHandle).image) 0 ((parseHandle (⟨0, 1, vecEntry, 0⟩ : CachedHandle).image).coords (q.read 98 2 0)) (bytesAt s q 4 (locTarget s q.view ⟨ 0, .generic (elemAddr (parseHandle (⟨0, 1, vecEntry, 0⟩ : CachedHandle).image) ((parseHandle (⟨0, 1, vecEntry, 0⟩ : CachedHandle).image).coords (q.read 98 2 0))) ⟩ 4 .read)) []).2) = false ∧ keepsLanes q 102 (wordsOf 1 (ldtValue (parseHandle (⟨0, 1, vecEntry, 0⟩ : CachedHandle).image) 0 ((parseHandle (⟨0, 1, vecEntry, 0⟩ : CachedHandle).image).coords (q.read 98 2 0)) (bytesAt s q 4 (locTarget s q.view ⟨ 0, .generic (elemAddr (parseHandle (⟨0, 1, vecEntry, 0⟩ : CachedHandle).image) ((parseHandle (⟨0, 1, vecEntry, 0⟩ : CachedHandle).image).coords (q.read 98 2 0))) ⟩ 4 .read)) []).1))) :=
  ⟨issuing 32 0x9619B0E2 (regs [(1, 1), (2, 7)]) (fun s => withHandle 1 vecEntry (withWord 0x30001C 0x3F800000 (withPage 0x300000 s))), witness (h := fun q => (((issuing 32 0x9619B0E2 (regs [(1, 1), (2, 7)]) (fun s => withHandle 1 vecEntry (withWord 0x30001C 0x3F800000 (withPage 0x300000 s)))).weak = false ∧ (issuing 32 0x9619B0E2 (regs [(1, 1), (2, 7)]) (fun s => withHandle 1 vecEntry (withWord 0x30001C 0x3F800000 (withPage 0x300000 s)))).pendStores = []) ∧ (q.read 97 1 0 < 4096 ∧ cachedEntry (issuing 32 0x9619B0E2 (regs [(1, 1), (2, 7)]) (fun s => withHandle 1 vecEntry (withWord 0x30001C 0x3F800000 (withPage 0x300000 s)))) q.m (q.read 97 1 0) = some (⟨0, 1, vecEntry, 0⟩ : CachedHandle)) ∧
      (Use.mk 0 102 (formWidth (parseHandle (⟨0, 1, vecEntry, 0⟩ : CachedHandle).image) 0) false .noQueue).ok q.m q.t = true ∧ (∀ l < 96, q.act.getLsbD l → q.read 98 2 0 < (parseHandle (⟨0, 1, vecEntry, 0⟩ : CachedHandle).image).count) ∧
      (∀ a ∈ (accesses q (runsPerLane (.ldt none ⟨0, 102, 97, 98⟩)) fun q l => .generic (elemAddr (parseHandle (⟨0, 1, vecEntry, 0⟩ : CachedHandle).image) ((parseHandle (⟨0, 1, vecEntry, 0⟩ : CachedHandle).image).coords (q.read 98 2 l)))), a.loc.num % (elemBytes (parseHandle (⟨0, 1, vecEntry, 0⟩ : CachedHandle).image)) = 0 ∧ ((laneTarget (issuing 32 0x9619B0E2 (regs [(1, 1), (2, 7)]) (fun s => withHandle 1 vecEntry (withWord 0x30001C 0x3F800000 (withPage 0x300000 s)))) q (accesses q (runsPerLane (.ldt none ⟨0, 102, 97, 98⟩)) fun q l => .generic (elemAddr (parseHandle (⟨0, 1, vecEntry, 0⟩ : CachedHandle).image) ((parseHandle (⟨0, 1, vecEntry, 0⟩ : CachedHandle).image).coords (q.read 98 2 l)))) (elemBytes (parseHandle (⟨0, 1, vecEntry, 0⟩ : CachedHandle).image)) .read) a).plain (issuing 32 0x9619B0E2 (regs [(1, 1), (2, 7)]) (fun s => withHandle 1 vecEntry (withWord 0x30001C 0x3F800000 (withPage 0x300000 s)))) = true ∧ (findsCopy (issuing 32 0x9619B0E2 (regs [(1, 1), (2, 7)]) (fun s => withHandle 1 vecEntry (withWord 0x30001C 0x3F800000 (withPage 0x300000 s)))) q ((laneTarget (issuing 32 0x9619B0E2 (regs [(1, 1), (2, 7)]) (fun s => withHandle 1 vecEntry (withWord 0x30001C 0x3F800000 (withPage 0x300000 s)))) q (accesses q (runsPerLane (.ldt none ⟨0, 102, 97, 98⟩)) fun q l => .generic (elemAddr (parseHandle (⟨0, 1, vecEntry, 0⟩ : CachedHandle).image) ((parseHandle (⟨0, 1, vecEntry, 0⟩ : CachedHandle).image).coords (q.read 98 2 l)))) (elemBytes (parseHandle (⟨0, 1, vecEntry, 0⟩ : CachedHandle).image)) .read) a) = true → (accesses q (runsPerLane (.ldt none ⟨0, 102, 97, 98⟩)) fun q l => .generic (elemAddr (parseHandle (⟨0, 1, vecEntry, 0⟩ : CachedHandle).image) ((parseHandle (⟨0, 1, vecEntry, 0⟩ : CachedHandle).image).coords (q.read 98 2 l)))) = [a]) ∧ ((.read : Access) = .read → ((laneTarget (issuing 32 0x9619B0E2 (regs [(1, 1), (2, 7)]) (fun s => withHandle 1 vecEntry (withWord 0x30001C 0x3F800000 (withPage 0x300000 s)))) q (accesses q (runsPerLane (.ldt none ⟨0, 102, 97, 98⟩)) fun q l => .generic (elemAddr (parseHandle (⟨0, 1, vecEntry, 0⟩ : CachedHandle).image) ((parseHandle (⟨0, 1, vecEntry, 0⟩ : CachedHandle).image).coords (q.read 98 2 l)))) (elemBytes (parseHandle (⟨0, 1, vecEntry, 0⟩ : CachedHandle).image)) .read) a).isHost = true → hostArrived (issuing 32 0x9619B0E2 (regs [(1, 1), (2, 7)]) (fun s => withHandle 1 vecEntry (withWord 0x30001C 0x3F800000 (withPage 0x300000 s)))) q.asker = true)) ∧ isBlock (parseHandle (⟨0, 1, vecEntry, 0⟩ : CachedHandle).image).fmt = false ∧ q.t.arithTraps ((ldtValue (parseHandle (⟨0, 1, vecEntry, 0⟩ : CachedHandle).image) 0 ((parseHandle (⟨0, 1, vecEntry, 0⟩ : CachedHandle).image).coords (q.read 98 2 0)) (bytesAt (issuing 32 0x9619B0E2 (regs [(1, 1), (2, 7)]) (fun s => withHandle 1 vecEntry (withWord 0x30001C 0x3F800000 (withPage 0x300000 s)))) q 4 (locTarget (issuing 32 0x9619B0E2 (regs [(1, 1), (2, 7)]) (fun s => withHandle 1 vecEntry (withWord 0x30001C 0x3F800000 (withPage 0x300000 s)))) q.view ⟨ 0, .generic (elemAddr (parseHandle (⟨0, 1, vecEntry, 0⟩ : CachedHandle).image) ((parseHandle (⟨0, 1, vecEntry, 0⟩ : CachedHandle).image).coords (q.read 98 2 0))) ⟩ 4 .read)) []).2) = false ∧ ((q.t.setScalars q.x.members (scalarNo 102) (wordsOf 1 (ldtValue (parseHandle (⟨0, 1, vecEntry, 0⟩ : CachedHandle).image) 0 ((parseHandle (⟨0, 1, vecEntry, 0⟩ : CachedHandle).image).coords (q.read 98 2 0)) (bytesAt (issuing 32 0x9619B0E2 (regs [(1, 1), (2, 7)]) (fun s => withHandle 1 vecEntry (withWord 0x30001C 0x3F800000 (withPage 0x300000 s)))) q 4 (locTarget (issuing 32 0x9619B0E2 (regs [(1, 1), (2, 7)]) (fun s => withHandle 1 vecEntry (withWord 0x30001C 0x3F800000 (withPage 0x300000 s)))) q.view ⟨ 0, .generic (elemAddr (parseHandle (⟨0, 1, vecEntry, 0⟩ : CachedHandle).image) ((parseHandle (⟨0, 1, vecEntry, 0⟩ : CachedHandle).image).coords (q.read 98 2 0))) ⟩ 4 .read)) []).1)).isSome = true))) (by decide)⟩

/-- The same with bounds −1 to 1 under the trap action. -/
def trapEntry : List Byte := entryOf 0 1 3 0x300000 [8] [4] 0xBF800000 0x3F800000

theorem witness_TensorStores :
    (∃ s q, Issues s (.stt none ⟨0, 102, 97, 98⟩) q ∧ (s.inOrder ∧ (q.read 97 1 0 < 4096 ∧ cachedEntry s q.m (q.read 97 1 0) = some (⟨0, 1, vecEntry, 0⟩ : CachedHandle)) ∧
      (Use.mk 0 102 (formWidth (parseHandle (⟨0, 1, vecEntry, 0⟩ : CachedHandle).image) 0) false .noQueue).ok q.m q.t = true ∧ (∀ l ∈ q.accLanes (runsPerLane (.stt none ⟨0, 102, 97, 98⟩)), q.read 98 2 l < (parseHandle (⟨0, 1, vecEntry, 0⟩ : CachedHandle).image).count) ∧
      (parseHandle (⟨0, 1, vecEntry, 0⟩ : CachedHandle).image).sealed = false ∧ (isBlock (parseHandle (⟨0, 1, vecEntry, 0⟩ : CachedHandle).image).fmt = false ∧ (parseHandle (⟨0, 1, vecEntry, 0⟩ : CachedHandle).image).fmt ≠ 18) ∧ Local s q (accesses q (runsPerLane (.stt none ⟨0, 102, 97, 98⟩)) fun q l => .generic (elemAddr (parseHandle (⟨0, 1, vecEntry, 0⟩ : CachedHandle).image) ((parseHandle (⟨0, 1, vecEntry, 0⟩ : CachedHandle).image).coords (q.read 98 2 l)))) (elemBytes (parseHandle (⟨0, 1, vecEntry, 0⟩ : CachedHandle).image)) .write ∧
      putsOpen s q.m.uid q.t.index = false ∧ q.t.arithTraps (sttValue (parseHandle (⟨0, 1, vecEntry, 0⟩ : CachedHandle).image) 0 (q.read 102 1 0)).2.2 = false ∧ ∀ x ∈ ((sttValue (parseHandle (⟨0, 1, vecEntry, 0⟩ : CachedHandle).image) 0 (q.read 102 1 0)).2.1.map (boundCheck (parseHandle (⟨0, 1, vecEntry, 0⟩ : CachedHandle).image))), x.2 = false)) ∧
    (∃ s q, Issues s (.stt none ⟨0, 102, 97, 98⟩) q ∧ (s.inOrder ∧ (q.read 97 1 0 < 4096 ∧ cachedEntry s q.m (q.read 97 1 0) = some (⟨0, 1, trapEntry, 0⟩ : CachedHandle)) ∧
      (Use.mk 0 102 (formWidth (parseHandle (⟨0, 1, trapEntry, 0⟩ : CachedHandle).image) 0) false .noQueue).ok q.m q.t = true ∧ (∀ l ∈ q.accLanes (runsPerLane (.stt none ⟨0, 102, 97, 98⟩)), q.read 98 2 l < (parseHandle (⟨0, 1, trapEntry, 0⟩ : CachedHandle).image).count) ∧
      (parseHandle (⟨0, 1, trapEntry, 0⟩ : CachedHandle).image).sealed = false ∧ (isBlock (parseHandle (⟨0, 1, trapEntry, 0⟩ : CachedHandle).image).fmt = false ∧ (parseHandle (⟨0, 1, trapEntry, 0⟩ : CachedHandle).image).fmt ≠ 18) ∧ Local s q (accesses q (runsPerLane (.stt none ⟨0, 102, 97, 98⟩)) fun q l => .generic (elemAddr (parseHandle (⟨0, 1, trapEntry, 0⟩ : CachedHandle).image) ((parseHandle (⟨0, 1, trapEntry, 0⟩ : CachedHandle).image).coords (q.read 98 2 l)))) (elemBytes (parseHandle (⟨0, 1, trapEntry, 0⟩ : CachedHandle).image)) .write ∧
      putsOpen s q.m.uid q.t.index = false ∧ q.t.arithTraps (sttValue (parseHandle (⟨0, 1, trapEntry, 0⟩ : CachedHandle).image) 0 (q.read 102 1 0)).2.2 = false ∧ (∃ x ∈ ((sttValue (parseHandle (⟨0, 1, trapEntry, 0⟩ : CachedHandle).image) 0 (q.read 102 1 0)).2.1.map (boundCheck (parseHandle (⟨0, 1, trapEntry, 0⟩ : CachedHandle).image))), x.2 = true) ∧ q.canTrap)) :=
  ⟨⟨issuing 32 0x9719B0E2 (regs [(1, 1), (6, 0x40000000)]) (fun s => withHandle 1 vecEntry (withWord 0x30001C 0x3F800000 (withPage 0x300000 s))), witness (h := fun q => (((issuing 32 0x9719B0E2 (regs [(1, 1), (6, 0x40000000)]) (fun s => withHandle 1 vecEntry (withWord 0x30001C 0x3F800000 (withPage 0x300000 s)))).weak = false ∧ (issuing 32 0x9719B0E2 (regs [(1, 1), (6, 0x40000000)]) (fun s => withHandle 1 vecEntry (withWord 0x30001C 0x3F800000 (withPage 0x300000 s)))).pendStores = []) ∧ (q.read 97 1 0 < 4096 ∧ cachedEntry (issuing 32 0x9719B0E2 (regs [(1, 1), (6, 0x40000000)]) (fun s => withHandle 1 vecEntry (withWord 0x30001C 0x3F800000 (withPage 0x300000 s)))) q.m (q.read 97 1 0) = some (⟨0, 1, vecEntry, 0⟩ : CachedHandle)) ∧
      (Use.mk 0 102 (formWidth (parseHandle (⟨0, 1, vecEntry, 0⟩ : CachedHandle).image) 0) false .noQueue).ok q.m q.t = true ∧ (∀ l ∈ q.accLanes (runsPerLane (.stt none ⟨0, 102, 97, 98⟩)), q.read 98 2 l < (parseHandle (⟨0, 1, vecEntry, 0⟩ : CachedHandle).image).count) ∧
      (parseHandle (⟨0, 1, vecEntry, 0⟩ : CachedHandle).image).sealed = false ∧ (isBlock (parseHandle (⟨0, 1, vecEntry, 0⟩ : CachedHandle).image).fmt = false ∧ (parseHandle (⟨0, 1, vecEntry, 0⟩ : CachedHandle).image).fmt ≠ 18) ∧ (∀ a ∈ (accesses q (runsPerLane (.stt none ⟨0, 102, 97, 98⟩)) fun q l => .generic (elemAddr (parseHandle (⟨0, 1, vecEntry, 0⟩ : CachedHandle).image) ((parseHandle (⟨0, 1, vecEntry, 0⟩ : CachedHandle).image).coords (q.read 98 2 l)))), a.loc.num % (elemBytes (parseHandle (⟨0, 1, vecEntry, 0⟩ : CachedHandle).image)) = 0 ∧ ((laneTarget (issuing 32 0x9719B0E2 (regs [(1, 1), (6, 0x40000000)]) (fun s => withHandle 1 vecEntry (withWord 0x30001C 0x3F800000 (withPage 0x300000 s)))) q (accesses q (runsPerLane (.stt none ⟨0, 102, 97, 98⟩)) fun q l => .generic (elemAddr (parseHandle (⟨0, 1, vecEntry, 0⟩ : CachedHandle).image) ((parseHandle (⟨0, 1, vecEntry, 0⟩ : CachedHandle).image).coords (q.read 98 2 l)))) (elemBytes (parseHandle (⟨0, 1, vecEntry, 0⟩ : CachedHandle).image)) .write) a).plain (issuing 32 0x9719B0E2 (regs [(1, 1), (6, 0x40000000)]) (fun s => withHandle 1 vecEntry (withWord 0x30001C 0x3F800000 (withPage 0x300000 s)))) = true ∧ (findsCopy (issuing 32 0x9719B0E2 (regs [(1, 1), (6, 0x40000000)]) (fun s => withHandle 1 vecEntry (withWord 0x30001C 0x3F800000 (withPage 0x300000 s)))) q ((laneTarget (issuing 32 0x9719B0E2 (regs [(1, 1), (6, 0x40000000)]) (fun s => withHandle 1 vecEntry (withWord 0x30001C 0x3F800000 (withPage 0x300000 s)))) q (accesses q (runsPerLane (.stt none ⟨0, 102, 97, 98⟩)) fun q l => .generic (elemAddr (parseHandle (⟨0, 1, vecEntry, 0⟩ : CachedHandle).image) ((parseHandle (⟨0, 1, vecEntry, 0⟩ : CachedHandle).image).coords (q.read 98 2 l)))) (elemBytes (parseHandle (⟨0, 1, vecEntry, 0⟩ : CachedHandle).image)) .write) a) = true → (accesses q (runsPerLane (.stt none ⟨0, 102, 97, 98⟩)) fun q l => .generic (elemAddr (parseHandle (⟨0, 1, vecEntry, 0⟩ : CachedHandle).image) ((parseHandle (⟨0, 1, vecEntry, 0⟩ : CachedHandle).image).coords (q.read 98 2 l)))) = [a]) ∧ ((.write : Access) = .read → ((laneTarget (issuing 32 0x9719B0E2 (regs [(1, 1), (6, 0x40000000)]) (fun s => withHandle 1 vecEntry (withWord 0x30001C 0x3F800000 (withPage 0x300000 s)))) q (accesses q (runsPerLane (.stt none ⟨0, 102, 97, 98⟩)) fun q l => .generic (elemAddr (parseHandle (⟨0, 1, vecEntry, 0⟩ : CachedHandle).image) ((parseHandle (⟨0, 1, vecEntry, 0⟩ : CachedHandle).image).coords (q.read 98 2 l)))) (elemBytes (parseHandle (⟨0, 1, vecEntry, 0⟩ : CachedHandle).image)) .write) a).isHost = true → hostArrived (issuing 32 0x9719B0E2 (regs [(1, 1), (6, 0x40000000)]) (fun s => withHandle 1 vecEntry (withWord 0x30001C 0x3F800000 (withPage 0x300000 s)))) q.asker = true)) ∧
      putsOpen (issuing 32 0x9719B0E2 (regs [(1, 1), (6, 0x40000000)]) (fun s => withHandle 1 vecEntry (withWord 0x30001C 0x3F800000 (withPage 0x300000 s)))) q.m.uid q.t.index = false ∧ q.t.arithTraps (sttValue (parseHandle (⟨0, 1, vecEntry, 0⟩ : CachedHandle).image) 0 (q.read 102 1 0)).2.2 = false ∧ ∀ x ∈ ((sttValue (parseHandle (⟨0, 1, vecEntry, 0⟩ : CachedHandle).image) 0 (q.read 102 1 0)).2.1.map (boundCheck (parseHandle (⟨0, 1, vecEntry, 0⟩ : CachedHandle).image))), x.2 = false)) (by decide +kernel)⟩,
    ⟨issuing 32 0x9719B0E2 (regs [(1, 1), (6, 0x40000000)]) (fun s => withHandle 1 trapEntry (withPage 0x300000 (handled s))), witness (h := fun q => (((issuing 32 0x9719B0E2 (regs [(1, 1), (6, 0x40000000)]) (fun s => withHandle 1 trapEntry (withPage 0x300000 (handled s)))).weak = false ∧ (issuing 32 0x9719B0E2 (regs [(1, 1), (6, 0x40000000)]) (fun s => withHandle 1 trapEntry (withPage 0x300000 (handled s)))).pendStores = []) ∧ (q.read 97 1 0 < 4096 ∧ cachedEntry (issuing 32 0x9719B0E2 (regs [(1, 1), (6, 0x40000000)]) (fun s => withHandle 1 trapEntry (withPage 0x300000 (handled s)))) q.m (q.read 97 1 0) = some (⟨0, 1, trapEntry, 0⟩ : CachedHandle)) ∧
      (Use.mk 0 102 (formWidth (parseHandle (⟨0, 1, trapEntry, 0⟩ : CachedHandle).image) 0) false .noQueue).ok q.m q.t = true ∧ (∀ l ∈ q.accLanes (runsPerLane (.stt none ⟨0, 102, 97, 98⟩)), q.read 98 2 l < (parseHandle (⟨0, 1, trapEntry, 0⟩ : CachedHandle).image).count) ∧
      (parseHandle (⟨0, 1, trapEntry, 0⟩ : CachedHandle).image).sealed = false ∧ (isBlock (parseHandle (⟨0, 1, trapEntry, 0⟩ : CachedHandle).image).fmt = false ∧ (parseHandle (⟨0, 1, trapEntry, 0⟩ : CachedHandle).image).fmt ≠ 18) ∧ (∀ a ∈ (accesses q (runsPerLane (.stt none ⟨0, 102, 97, 98⟩)) fun q l => .generic (elemAddr (parseHandle (⟨0, 1, trapEntry, 0⟩ : CachedHandle).image) ((parseHandle (⟨0, 1, trapEntry, 0⟩ : CachedHandle).image).coords (q.read 98 2 l)))), a.loc.num % (elemBytes (parseHandle (⟨0, 1, trapEntry, 0⟩ : CachedHandle).image)) = 0 ∧ ((laneTarget (issuing 32 0x9719B0E2 (regs [(1, 1), (6, 0x40000000)]) (fun s => withHandle 1 trapEntry (withPage 0x300000 (handled s)))) q (accesses q (runsPerLane (.stt none ⟨0, 102, 97, 98⟩)) fun q l => .generic (elemAddr (parseHandle (⟨0, 1, trapEntry, 0⟩ : CachedHandle).image) ((parseHandle (⟨0, 1, trapEntry, 0⟩ : CachedHandle).image).coords (q.read 98 2 l)))) (elemBytes (parseHandle (⟨0, 1, trapEntry, 0⟩ : CachedHandle).image)) .write) a).plain (issuing 32 0x9719B0E2 (regs [(1, 1), (6, 0x40000000)]) (fun s => withHandle 1 trapEntry (withPage 0x300000 (handled s)))) = true ∧ (findsCopy (issuing 32 0x9719B0E2 (regs [(1, 1), (6, 0x40000000)]) (fun s => withHandle 1 trapEntry (withPage 0x300000 (handled s)))) q ((laneTarget (issuing 32 0x9719B0E2 (regs [(1, 1), (6, 0x40000000)]) (fun s => withHandle 1 trapEntry (withPage 0x300000 (handled s)))) q (accesses q (runsPerLane (.stt none ⟨0, 102, 97, 98⟩)) fun q l => .generic (elemAddr (parseHandle (⟨0, 1, trapEntry, 0⟩ : CachedHandle).image) ((parseHandle (⟨0, 1, trapEntry, 0⟩ : CachedHandle).image).coords (q.read 98 2 l)))) (elemBytes (parseHandle (⟨0, 1, trapEntry, 0⟩ : CachedHandle).image)) .write) a) = true → (accesses q (runsPerLane (.stt none ⟨0, 102, 97, 98⟩)) fun q l => .generic (elemAddr (parseHandle (⟨0, 1, trapEntry, 0⟩ : CachedHandle).image) ((parseHandle (⟨0, 1, trapEntry, 0⟩ : CachedHandle).image).coords (q.read 98 2 l)))) = [a]) ∧ ((.write : Access) = .read → ((laneTarget (issuing 32 0x9719B0E2 (regs [(1, 1), (6, 0x40000000)]) (fun s => withHandle 1 trapEntry (withPage 0x300000 (handled s)))) q (accesses q (runsPerLane (.stt none ⟨0, 102, 97, 98⟩)) fun q l => .generic (elemAddr (parseHandle (⟨0, 1, trapEntry, 0⟩ : CachedHandle).image) ((parseHandle (⟨0, 1, trapEntry, 0⟩ : CachedHandle).image).coords (q.read 98 2 l)))) (elemBytes (parseHandle (⟨0, 1, trapEntry, 0⟩ : CachedHandle).image)) .write) a).isHost = true → hostArrived (issuing 32 0x9719B0E2 (regs [(1, 1), (6, 0x40000000)]) (fun s => withHandle 1 trapEntry (withPage 0x300000 (handled s)))) q.asker = true)) ∧
      putsOpen (issuing 32 0x9719B0E2 (regs [(1, 1), (6, 0x40000000)]) (fun s => withHandle 1 trapEntry (withPage 0x300000 (handled s)))) q.m.uid q.t.index = false ∧ q.t.arithTraps (sttValue (parseHandle (⟨0, 1, trapEntry, 0⟩ : CachedHandle).image) 0 (q.read 102 1 0)).2.2 = false ∧ (∃ x ∈ ((sttValue (parseHandle (⟨0, 1, trapEntry, 0⟩ : CachedHandle).image) 0 (q.read 102 1 0)).2.1.map (boundCheck (parseHandle (⟨0, 1, trapEntry, 0⟩ : CachedHandle).image))), x.2 = true) ∧ (q.t.handler = false ∧ q.m.header.trap ≠ 0))) (by decide +kernel)⟩⟩

/-- The translation of the page that `withPage 0x300000` gives. -/
def dataPage : TlbEntry := { loadedPage with vbase := 0x300000, pbase := 0x300000, gpbase := 0x300000, w := true, w1 := true }

theorem witness_HandleCache :
    (∃ s q, Issues s (.tdef none ⟨0, 0, 97, 0⟩) q ∧ (s.inOrder ∧ q.read 97 1 0 < 4096 ∧ q.read 97 1 0 < q.m.desc.hcount ∧ cachedEntry s q.m (q.read 97 1 0) = none ∧
      resolve s q.view none (entryAddr q.m.desc (q.read 97 1 0)) 64 .read = .phys (⟨.device, 0x300040⟩ : PAddr) dataPage ∧ isPoisoned s (⟨.device, 0x300040⟩ : PAddr) = false ∧
      formatting s (.phys (⟨.device, 0x300040⟩ : PAddr) dataPage) = false ∧ (parseHandle (readBytes (spaceMem s .device) 0x300040 64)).malformed = false ∧ (clusterOf s q.m.die q.m.cluster).handles.length < 64)) ∧
    (∃ s q, Issues s (.tinv none ⟨0, 0, 97, 0⟩) q ∧ (q.read 97 1 0 < 4096 ∧ (cachedEntry s q.m (q.read 97 1 0)).isNone)) ∧
    (∃ s q, Issues s (.tinvAll none ⟨1, 0, 0, 0⟩) q ∧ (∀ c ∈ (clusterOf s q.m.die q.m.cluster).handles, c.cid = q.m.cid → c.image.getD 3 0 = 0)) ∧
    (∃ s q, Issues s (.tbnd none ⟨3, 97, 98, 99⟩) q ∧ (s.inOrder ∧ (q.read 97 1 0 < 4096 ∧ cachedEntry s q.m (q.read 97 1 0) = some (⟨0, 1, vecEntry, 0⟩ : CachedHandle)) ∧ (parseHandle (⟨0, 1, vecEntry, 0⟩ : CachedHandle).image).sealed = false ∧ badBounds (q.read 98 1 0) (q.read 99 1 0) = false ∧
      resolve s q.view none (entryAddr q.m.desc (q.read 97 1 0)) 64 .write = .phys (⟨.device, 0x300040⟩ : PAddr) dataPage ∧ resolve s q.view none ((entryAddr q.m.desc (q.read 97 1 0)) + 0x38) 8 .write = .phys (⟨.device, 0x300078⟩ : PAddr) dataPage ∧
      resolve s q.view none ((entryAddr q.m.desc (q.read 97 1 0)) + 2) 1 .write = .phys (⟨.device, 0x300042⟩ : PAddr) dataPage ∧ formatting s (.phys (⟨.device, 0x300040⟩ : PAddr) dataPage) = false ∧
      formatting s (.phys (⟨.device, 0x300078⟩ : PAddr) dataPage) = false ∧ formatting s (.phys (⟨.device, 0x300042⟩ : PAddr) dataPage) = false ∧
      isPoisoned s (⟨.device, 0x300040⟩ : PAddr) = false ∧ isPoisoned s (⟨.device, 0x300078⟩ : PAddr) = false ∧ isPoisoned s (⟨.device, 0x300042⟩ : PAddr) = false)) ∧
    (∃ s q, Issues s (.tstat none ⟨1, 98, 97, 0⟩) q ∧ (s.inOrder ∧ (q.read 97 1 0 < 4096 ∧ cachedEntry s q.m (q.read 97 1 0) = some (⟨0, 1, vecEntry, 0⟩ : CachedHandle)) ∧ keepsLanes q 98 [BitVec.ofNat 32 0x10000] ∧ resolve s q.view none ((((entryAddr q.m.desc (q.read 97 1 0))) + 3) % 2 ^ 64) 1 .write = .phys (⟨.device, 0x300043⟩ : PAddr) dataPage ∧
      formatting s (.phys (⟨.device, 0x300043⟩ : PAddr) dataPage) = false ∧ isPoisoned s (⟨.device, 0x300043⟩ : PAddr) = false)) :=
  ⟨⟨issuing 32 0xA6003080 (regs [(1, 1)]) (fun s => withTable 0x300000 { withPage 0x300000 s with mem := writeBytes s.mem 0x300040 vecEntry }), witness (h := fun q => (((issuing 32 0xA6003080 (regs [(1, 1)]) (fun s => withTable 0x300000 { withPage 0x300000 s with mem := writeBytes s.mem 0x300040 vecEntry })).weak = false ∧ (issuing 32 0xA6003080 (regs [(1, 1)]) (fun s => withTable 0x300000 { withPage 0x300000 s with mem := writeBytes s.mem 0x300040 vecEntry })).pendStores = []) ∧ q.read 97 1 0 < 4096 ∧ q.read 97 1 0 < q.m.desc.hcount ∧ cachedEntry (issuing 32 0xA6003080 (regs [(1, 1)]) (fun s => withTable 0x300000 { withPage 0x300000 s with mem := writeBytes s.mem 0x300040 vecEntry })) q.m (q.read 97 1 0) = none ∧
      resolve (issuing 32 0xA6003080 (regs [(1, 1)]) (fun s => withTable 0x300000 { withPage 0x300000 s with mem := writeBytes s.mem 0x300040 vecEntry })) q.view none (entryAddr q.m.desc (q.read 97 1 0)) 64 .read = .phys (⟨.device, 0x300040⟩ : PAddr) dataPage ∧ isPoisoned (issuing 32 0xA6003080 (regs [(1, 1)]) (fun s => withTable 0x300000 { withPage 0x300000 s with mem := writeBytes s.mem 0x300040 vecEntry })) (⟨.device, 0x300040⟩ : PAddr) = false ∧
      formatting (issuing 32 0xA6003080 (regs [(1, 1)]) (fun s => withTable 0x300000 { withPage 0x300000 s with mem := writeBytes s.mem 0x300040 vecEntry })) (.phys (⟨.device, 0x300040⟩ : PAddr) dataPage) = false ∧ (parseHandle (readBytes (spaceMem (issuing 32 0xA6003080 (regs [(1, 1)]) (fun s => withTable 0x300000 { withPage 0x300000 s with mem := writeBytes s.mem 0x300040 vecEntry })) .device) 0x300040 64)).malformed = false ∧ (clusterOf (issuing 32 0xA6003080 (regs [(1, 1)]) (fun s => withTable 0x300000 { withPage 0x300000 s with mem := writeBytes s.mem 0x300040 vecEntry })) q.m.die q.m.cluster).handles.length < 64)) (by decide +kernel)⟩,
    ⟨issuing 32 0xA7003080 (regs [(1, 4095)]), witness (by decide +kernel)⟩,
    ⟨issuing 32 0xA7200000 id (withHandle 1 vecEntry), witness (by decide +kernel)⟩,
    ⟨issuing 32 0xA8787163 (regs [(1, 1), (2, 0xBF800000), (3, 0x3F800000)]) (fun s => withTable 0x300000 (withHandle 1 vecEntry (withPage 0x300000 s))), witness (h := fun q => (((issuing 32 0xA8787163 (regs [(1, 1), (2, 0xBF800000), (3, 0x3F800000)]) (fun s => withTable 0x300000 (withHandle 1 vecEntry (withPage 0x300000 s)))).weak = false ∧ (issuing 32 0xA8787163 (regs [(1, 1), (2, 0xBF800000), (3, 0x3F800000)]) (fun s => withTable 0x300000 (withHandle 1 vecEntry (withPage 0x300000 s)))).pendStores = []) ∧ (q.read 97 1 0 < 4096 ∧ cachedEntry (issuing 32 0xA8787163 (regs [(1, 1), (2, 0xBF800000), (3, 0x3F800000)]) (fun s => withTable 0x300000 (withHandle 1 vecEntry (withPage 0x300000 s)))) q.m (q.read 97 1 0) = some (⟨0, 1, vecEntry, 0⟩ : CachedHandle)) ∧ (parseHandle (⟨0, 1, vecEntry, 0⟩ : CachedHandle).image).sealed = false ∧ badBounds (q.read 98 1 0) (q.read 99 1 0) = false ∧
      resolve (issuing 32 0xA8787163 (regs [(1, 1), (2, 0xBF800000), (3, 0x3F800000)]) (fun s => withTable 0x300000 (withHandle 1 vecEntry (withPage 0x300000 s)))) q.view none (entryAddr q.m.desc (q.read 97 1 0)) 64 .write = .phys (⟨.device, 0x300040⟩ : PAddr) dataPage ∧ resolve (issuing 32 0xA8787163 (regs [(1, 1), (2, 0xBF800000), (3, 0x3F800000)]) (fun s => withTable 0x300000 (withHandle 1 vecEntry (withPage 0x300000 s)))) q.view none ((entryAddr q.m.desc (q.read 97 1 0)) + 0x38) 8 .write = .phys (⟨.device, 0x300078⟩ : PAddr) dataPage ∧
      resolve (issuing 32 0xA8787163 (regs [(1, 1), (2, 0xBF800000), (3, 0x3F800000)]) (fun s => withTable 0x300000 (withHandle 1 vecEntry (withPage 0x300000 s)))) q.view none ((entryAddr q.m.desc (q.read 97 1 0)) + 2) 1 .write = .phys (⟨.device, 0x300042⟩ : PAddr) dataPage ∧ formatting (issuing 32 0xA8787163 (regs [(1, 1), (2, 0xBF800000), (3, 0x3F800000)]) (fun s => withTable 0x300000 (withHandle 1 vecEntry (withPage 0x300000 s)))) (.phys (⟨.device, 0x300040⟩ : PAddr) dataPage) = false ∧
      formatting (issuing 32 0xA8787163 (regs [(1, 1), (2, 0xBF800000), (3, 0x3F800000)]) (fun s => withTable 0x300000 (withHandle 1 vecEntry (withPage 0x300000 s)))) (.phys (⟨.device, 0x300078⟩ : PAddr) dataPage) = false ∧ formatting (issuing 32 0xA8787163 (regs [(1, 1), (2, 0xBF800000), (3, 0x3F800000)]) (fun s => withTable 0x300000 (withHandle 1 vecEntry (withPage 0x300000 s)))) (.phys (⟨.device, 0x300042⟩ : PAddr) dataPage) = false ∧
      isPoisoned (issuing 32 0xA8787163 (regs [(1, 1), (2, 0xBF800000), (3, 0x3F800000)]) (fun s => withTable 0x300000 (withHandle 1 vecEntry (withPage 0x300000 s)))) (⟨.device, 0x300040⟩ : PAddr) = false ∧ isPoisoned (issuing 32 0xA8787163 (regs [(1, 1), (2, 0xBF800000), (3, 0x3F800000)]) (fun s => withTable 0x300000 (withHandle 1 vecEntry (withPage 0x300000 s)))) (⟨.device, 0x300078⟩ : PAddr) = false ∧ isPoisoned (issuing 32 0xA8787163 (regs [(1, 1), (2, 0xBF800000), (3, 0x3F800000)]) (fun s => withTable 0x300000 (withHandle 1 vecEntry (withPage 0x300000 s)))) (⟨.device, 0x300042⟩ : PAddr) = false)) (by decide +kernel)⟩,
    ⟨issuing 32 0xAA38B080 (regs [(1, 1)]) (fun s => withTable 0x300000 (withHandle 1 vecEntry (withPage 0x300000 s))), witness (h := fun q => (((issuing 32 0xAA38B080 (regs [(1, 1)]) (fun s => withTable 0x300000 (withHandle 1 vecEntry (withPage 0x300000 s)))).weak = false ∧ (issuing 32 0xAA38B080 (regs [(1, 1)]) (fun s => withTable 0x300000 (withHandle 1 vecEntry (withPage 0x300000 s)))).pendStores = []) ∧ (q.read 97 1 0 < 4096 ∧ cachedEntry (issuing 32 0xAA38B080 (regs [(1, 1)]) (fun s => withTable 0x300000 (withHandle 1 vecEntry (withPage 0x300000 s)))) q.m (q.read 97 1 0) = some (⟨0, 1, vecEntry, 0⟩ : CachedHandle)) ∧ ((q.t.setScalars q.x.members (scalarNo 98) [BitVec.ofNat 32 0x10000]).isSome = true) ∧ resolve (issuing 32 0xAA38B080 (regs [(1, 1)]) (fun s => withTable 0x300000 (withHandle 1 vecEntry (withPage 0x300000 s)))) q.view none ((((entryAddr q.m.desc (q.read 97 1 0))) + 3) % 2 ^ 64) 1 .write = .phys (⟨.device, 0x300043⟩ : PAddr) dataPage ∧
      formatting (issuing 32 0xAA38B080 (regs [(1, 1)]) (fun s => withTable 0x300000 (withHandle 1 vecEntry (withPage 0x300000 s)))) (.phys (⟨.device, 0x300043⟩ : PAddr) dataPage) = false ∧ isPoisoned (issuing 32 0xAA38B080 (regs [(1, 1)]) (fun s => withTable 0x300000 (withHandle 1 vecEntry (withPage 0x300000 s)))) (⟨.device, 0x300043⟩ : PAddr) = false)) (by decide +kernel)⟩⟩

/-- The context's stage-one table: 0x300000 lies in a 2 MiB leaf. -/
def withTables (s : State) : State :=
  updMotif { s with mem := writeBytes (writeBytes (writeBytes (writeBytes s.mem 0x400000 (leBytes 8 0x401003)) 0x401000 (leBytes 8 0x402003))
      0x402000 (leBytes 8 0x403003)) 0x403008 (leBytes 8 0x200045) } 0
    fun m => { m with desc := { m.desc with sroot := 0x400000 } }

/-- What sealing the tensor's page leaves. -/
def sealedState (s : State) (q : Iss) (c : CachedHandle) : State :=
  match sealPages q ((tensorRuns (parseHandle c.image)).flatMap fun u => piecesOf u.1 u.2 4096) (touched s q (q.read 97 1 0) c) with
  | .ok t => t
  | .error _ => s

/-- Whether the pages were sealed. -/
def sealsAll (s : State) (q : Iss) (c : CachedHandle) : Bool :=
  match sealPages q ((tensorRuns (parseHandle c.image)).flatMap fun u => piecesOf u.1 u.2 4096) (touched s q (q.read 97 1 0) c) with
  | .ok _ => true
  | .error _ => false

theorem sealsAll_ok {s : State} {q : Iss} {c : CachedHandle} (h : sealsAll s q c = true) :
    sealPages q ((tensorRuns (parseHandle c.image)).flatMap fun u => piecesOf u.1 u.2 4096) (touched s q (q.read 97 1 0) c) =
      .ok (sealedState s q c) := by
  unfold sealsAll at h
  unfold sealedState
  split at h
  · rename_i t ht
    rw [ht]
  · cases h

theorem witness_Sealing :
    (∃ s q, Issues s (.tseal none ⟨0, 0, 97, 0⟩) q ∧ (s.inOrder ∧ (q.read 97 1 0 < 4096 ∧ cachedEntry s q.m (q.read 97 1 0) = some (⟨0, 1, vecEntry, 0⟩ : CachedHandle)) ∧ resolve s q.view none ((((entryAddr q.m.desc (q.read 97 1 0))) + 1) % 2 ^ 64) 1 .write = .phys (⟨.device, 0x300041⟩ : PAddr) dataPage ∧
      formatting s (.phys (⟨.device, 0x300041⟩ : PAddr) dataPage) = false ∧ isPoisoned s (⟨.device, 0x300041⟩ : PAddr) = false ∧
      (∀ u ∈ (tensorRuns (parseHandle (⟨0, 1, vecEntry, 0⟩ : CachedHandle).image)), ordinaryByte q.m.desc u.1 ∧ ordinaryByte q.m.desc (u.1 + u.2 - 1) ∧ (u.1 < q.m.desc.msave → u.1 + u.2 ≤ q.m.desc.msave)) ∧
      (∀ k ∈ q.m.commands, k.complete = true ∨ q.read 97 1 0 ∉ cmdTargets k) ∧ sealsAll s q (⟨0, 1, vecEntry, 0⟩ : CachedHandle) = true)) :=
  ⟨issuing 32 0xA9003080 (regs [(1, 1)]) (fun s => withTables (withTable 0x300000 (withHandle 1 vecEntry (withPage 0x300000 s)))), witness (h := fun q => (((issuing 32 0xA9003080 (regs [(1, 1)]) (fun s => withTables (withTable 0x300000 (withHandle 1 vecEntry (withPage 0x300000 s))))).weak = false ∧ (issuing 32 0xA9003080 (regs [(1, 1)]) (fun s => withTables (withTable 0x300000 (withHandle 1 vecEntry (withPage 0x300000 s))))).pendStores = []) ∧ (q.read 97 1 0 < 4096 ∧ cachedEntry (issuing 32 0xA9003080 (regs [(1, 1)]) (fun s => withTables (withTable 0x300000 (withHandle 1 vecEntry (withPage 0x300000 s))))) q.m (q.read 97 1 0) = some (⟨0, 1, vecEntry, 0⟩ : CachedHandle)) ∧ resolve (issuing 32 0xA9003080 (regs [(1, 1)]) (fun s => withTables (withTable 0x300000 (withHandle 1 vecEntry (withPage 0x300000 s))))) q.view none ((((entryAddr q.m.desc (q.read 97 1 0))) + 1) % 2 ^ 64) 1 .write = .phys (⟨.device, 0x300041⟩ : PAddr) dataPage ∧
      formatting (issuing 32 0xA9003080 (regs [(1, 1)]) (fun s => withTables (withTable 0x300000 (withHandle 1 vecEntry (withPage 0x300000 s))))) (.phys (⟨.device, 0x300041⟩ : PAddr) dataPage) = false ∧ isPoisoned (issuing 32 0xA9003080 (regs [(1, 1)]) (fun s => withTables (withTable 0x300000 (withHandle 1 vecEntry (withPage 0x300000 s))))) (⟨.device, 0x300041⟩ : PAddr) = false ∧
      (∀ u ∈ (tensorRuns (parseHandle (⟨0, 1, vecEntry, 0⟩ : CachedHandle).image)), ordinaryByte q.m.desc u.1 ∧ ordinaryByte q.m.desc (u.1 + u.2 - 1) ∧ (u.1 < q.m.desc.msave → u.1 + u.2 ≤ q.m.desc.msave)) ∧
      (∀ k ∈ q.m.commands, k.complete = true ∨ q.read 97 1 0 ∉ cmdTargets k) ∧ sealsAll (issuing 32 0xA9003080 (regs [(1, 1)]) (fun s => withTables (withTable 0x300000 (withHandle 1 vecEntry (withPage 0x300000 s))))) q (⟨0, 1, vecEntry, 0⟩ : CachedHandle) = true)) (by decide)⟩

theorem witness_EngineCommands_issue :
    (∃ s q, Issues s (.xcopy none ⟨0, 106, 100, 104⟩) q ∧ (s.inOrder ∧ (q.read 104 1 0 % 16 = 0 ∧ q.read 104 1 0 + 16 ≤ q.m.header.scratch * 1024) ∧ (∀ h ∈ [1, 2], (cachedEntry s q.m h).isSome) ∧ inFlight q.m 0 < 32)) ∧
    (∃ s q, Issues s (.xtile none ⟨0, 106, 100, 96⟩) q ∧ (s.inOrder ∧ ((q.t.sreg 5).toNat % 64 = 0 ∧ (q.t.sreg 5).toNat + 64 ≤ q.m.header.scratch * 1024) ∧ (∀ h ∈ [1, 2], (cachedEntry s q.m h).isSome) ∧ inFlight q.m 0 < 32)) ∧
    (∃ s q, Issues s (.xgath none ⟨0, 96, 100, 96⟩) q ∧ (s.inOrder ∧ (∀ h ∈ [1, 2, 3], (cachedEntry s q.m h).isSome) ∧ inFlight q.m 0 < 32)) ∧
    (∃ s q, Issues s (.xscat none ⟨0, 96, 100, 96⟩) q ∧ (s.inOrder ∧ (∀ h ∈ [1, 2, 3], (cachedEntry s q.m h).isSome) ∧ inFlight q.m 0 < 32)) ∧
    (∃ s q, Issues s (.xfill none ⟨0, 96, 100, 96⟩) q ∧ (s.inOrder ∧ ((q.t.sreg 5).toNat % 64 = 0 ∧ (q.t.sreg 5).toNat + 64 ≤ q.m.header.scratch * 1024) ∧ (∀ h ∈ [2], (cachedEntry s q.m h).isSome) ∧ inFlight q.m 0 < 32)) ∧
    (∃ s q, Issues s (.xform none ⟨6, 96, 100, 96⟩) q ∧ (s.inOrder ∧ ((q.t.sreg 5).toNat % 64 = 0 ∧ (q.t.sreg 5).toNat + 64 ≤ q.m.header.scratch * 1024) ∧ (∀ h ∈ [1, 2, 3], (cachedEntry s q.m h).isSome) ∧ inFlight q.m 1 < 32)) ∧
    (∃ s q, Issues s (.seedscan none ⟨0, 106, 100, 105⟩) q ∧ (s.inOrder ∧ (q.read 105 1 0 % 16 = 0 ∧ q.read 105 1 0 + 16 ≤ q.m.header.scratch * 1024) ∧ (∀ h ∈ [1, 2], (cachedEntry s q.m h).isSome) ∧ inFlight q.m 2 < 32)) :=
  ⟨⟨issuing 32 0xA01AB268 (regs [(4, 0x2001), (5, 0), (6, 0), (7, 0), (8, 0x3FF0)]) (fun s => withHandle 3 vecEntry (withHandle 2 vecEntry (withHandle 1 vecEntry s))), witness (h := fun q => (((issuing 32 0xA01AB268 (regs [(4, 0x2001), (5, 0), (6, 0), (7, 0), (8, 0x3FF0)]) (fun s => withHandle 3 vecEntry (withHandle 2 vecEntry (withHandle 1 vecEntry s)))).weak = false ∧ (issuing 32 0xA01AB268 (regs [(4, 0x2001), (5, 0), (6, 0), (7, 0), (8, 0x3FF0)]) (fun s => withHandle 3 vecEntry (withHandle 2 vecEntry (withHandle 1 vecEntry s)))).pendStores = []) ∧ (q.read 104 1 0 % 16 = 0 ∧ q.read 104 1 0 + 16 ≤ q.m.header.scratch * 1024) ∧ (∀ h ∈ [1, 2], (cachedEntry (issuing 32 0xA01AB268 (regs [(4, 0x2001), (5, 0), (6, 0), (7, 0), (8, 0x3FF0)]) (fun s => withHandle 3 vecEntry (withHandle 2 vecEntry (withHandle 1 vecEntry s)))) q.m h).isSome) ∧ inFlight q.m 0 < 32)) (by decide)⟩,
    ⟨issuing 32 0xA11AB260 (regs [(4, 0x2001), (5, 0), (6, 0), (7, 0), (8, 0x3FF0)]) (fun s => withHandle 3 vecEntry (withHandle 2 vecEntry (withHandle 1 vecEntry s))), witness (h := fun q => (((issuing 32 0xA11AB260 (regs [(4, 0x2001), (5, 0), (6, 0), (7, 0), (8, 0x3FF0)]) (fun s => withHandle 3 vecEntry (withHandle 2 vecEntry (withHandle 1 vecEntry s)))).weak = false ∧ (issuing 32 0xA11AB260 (regs [(4, 0x2001), (5, 0), (6, 0), (7, 0), (8, 0x3FF0)]) (fun s => withHandle 3 vecEntry (withHandle 2 vecEntry (withHandle 1 vecEntry s)))).pendStores = []) ∧ ((q.t.sreg 5).toNat % 64 = 0 ∧ (q.t.sreg 5).toNat + 64 ≤ q.m.header.scratch * 1024) ∧ (∀ h ∈ [1, 2], (cachedEntry (issuing 32 0xA11AB260 (regs [(4, 0x2001), (5, 0), (6, 0), (7, 0), (8, 0x3FF0)]) (fun s => withHandle 3 vecEntry (withHandle 2 vecEntry (withHandle 1 vecEntry s)))) q.m h).isSome) ∧ inFlight q.m 0 < 32)) (by decide)⟩,
    ⟨issuing 32 0xB0183260 (regs [(4, 0x2001), (5, 3)]) (fun s => withHandle 3 vecEntry (withHandle 2 vecEntry (withHandle 1 vecEntry s))), witness (h := fun q => (((issuing 32 0xB0183260 (regs [(4, 0x2001), (5, 3)]) (fun s => withHandle 3 vecEntry (withHandle 2 vecEntry (withHandle 1 vecEntry s)))).weak = false ∧ (issuing 32 0xB0183260 (regs [(4, 0x2001), (5, 3)]) (fun s => withHandle 3 vecEntry (withHandle 2 vecEntry (withHandle 1 vecEntry s)))).pendStores = []) ∧ (∀ h ∈ [1, 2, 3], (cachedEntry (issuing 32 0xB0183260 (regs [(4, 0x2001), (5, 3)]) (fun s => withHandle 3 vecEntry (withHandle 2 vecEntry (withHandle 1 vecEntry s)))) q.m h).isSome) ∧ inFlight q.m 0 < 32)) (by decide)⟩,
    ⟨issuing 32 0xB1183260 (regs [(4, 0x2001), (5, 3)]) (fun s => withHandle 3 vecEntry (withHandle 2 vecEntry (withHandle 1 vecEntry s))), witness (h := fun q => (((issuing 32 0xB1183260 (regs [(4, 0x2001), (5, 3)]) (fun s => withHandle 3 vecEntry (withHandle 2 vecEntry (withHandle 1 vecEntry s)))).weak = false ∧ (issuing 32 0xB1183260 (regs [(4, 0x2001), (5, 3)]) (fun s => withHandle 3 vecEntry (withHandle 2 vecEntry (withHandle 1 vecEntry s)))).pendStores = []) ∧ (∀ h ∈ [1, 2, 3], (cachedEntry (issuing 32 0xB1183260 (regs [(4, 0x2001), (5, 3)]) (fun s => withHandle 3 vecEntry (withHandle 2 vecEntry (withHandle 1 vecEntry s)))) q.m h).isSome) ∧ inFlight q.m 0 < 32)) (by decide)⟩,
    ⟨issuing 32 0xB2183260 (regs [(4, 0x2001), (5, 0), (6, 0), (7, 0), (8, 0x3FF0)]) (fun s => withHandle 3 vecEntry (withHandle 2 vecEntry (withHandle 1 vecEntry s))), witness (h := fun q => (((issuing 32 0xB2183260 (regs [(4, 0x2001), (5, 0), (6, 0), (7, 0), (8, 0x3FF0)]) (fun s => withHandle 3 vecEntry (withHandle 2 vecEntry (withHandle 1 vecEntry s)))).weak = false ∧ (issuing 32 0xB2183260 (regs [(4, 0x2001), (5, 0), (6, 0), (7, 0), (8, 0x3FF0)]) (fun s => withHandle 3 vecEntry (withHandle 2 vecEntry (withHandle 1 vecEntry s)))).pendStores = []) ∧ ((q.t.sreg 5).toNat % 64 = 0 ∧ (q.t.sreg 5).toNat + 64 ≤ q.m.header.scratch * 1024) ∧ (∀ h ∈ [2], (cachedEntry (issuing 32 0xB2183260 (regs [(4, 0x2001), (5, 0), (6, 0), (7, 0), (8, 0x3FF0)]) (fun s => withHandle 3 vecEntry (withHandle 2 vecEntry (withHandle 1 vecEntry s)))) q.m h).isSome) ∧ inFlight q.m 0 < 32)) (by decide)⟩,
    ⟨issuing 32 0xA2D83260 (regs [(4, 0x2001), (5, 16320), (6, 3)]) (fun s => withHandle 3 vecEntry (withHandle 2 vecEntry (withHandle 1 vecEntry s))), witness (h := fun q => (((issuing 32 0xA2D83260 (regs [(4, 0x2001), (5, 16320), (6, 3)]) (fun s => withHandle 3 vecEntry (withHandle 2 vecEntry (withHandle 1 vecEntry s)))).weak = false ∧ (issuing 32 0xA2D83260 (regs [(4, 0x2001), (5, 16320), (6, 3)]) (fun s => withHandle 3 vecEntry (withHandle 2 vecEntry (withHandle 1 vecEntry s)))).pendStores = []) ∧ ((q.t.sreg 5).toNat % 64 = 0 ∧ (q.t.sreg 5).toNat + 64 ≤ q.m.header.scratch * 1024) ∧ (∀ h ∈ [1, 2, 3], (cachedEntry (issuing 32 0xA2D83260 (regs [(4, 0x2001), (5, 16320), (6, 3)]) (fun s => withHandle 3 vecEntry (withHandle 2 vecEntry (withHandle 1 vecEntry s)))) q.m h).isSome) ∧ inFlight q.m 1 < 32)) (by decide)⟩,
    ⟨issuing 32 0xAB1AB269 (regs [(4, 0x2001), (5, 0), (6, 0), (7, 0), (8, 0x3FF0)]) (fun s => withHandle 3 vecEntry (withHandle 2 vecEntry (withHandle 1 vecEntry s))), witness (h := fun q => (((issuing 32 0xAB1AB269 (regs [(4, 0x2001), (5, 0), (6, 0), (7, 0), (8, 0x3FF0)]) (fun s => withHandle 3 vecEntry (withHandle 2 vecEntry (withHandle 1 vecEntry s)))).weak = false ∧ (issuing 32 0xAB1AB269 (regs [(4, 0x2001), (5, 0), (6, 0), (7, 0), (8, 0x3FF0)]) (fun s => withHandle 3 vecEntry (withHandle 2 vecEntry (withHandle 1 vecEntry s)))).pendStores = []) ∧ (q.read 105 1 0 % 16 = 0 ∧ q.read 105 1 0 + 16 ≤ q.m.header.scratch * 1024) ∧ (∀ h ∈ [1, 2], (cachedEntry (issuing 32 0xAB1AB269 (regs [(4, 0x2001), (5, 0), (6, 0), (7, 0), (8, 0x3FF0)]) (fun s => withHandle 3 vecEntry (withHandle 2 vecEntry (withHandle 1 vecEntry s)))) q.m h).isSome) ∧ inFlight q.m 2 < 32)) (by decide)⟩⟩

theorem witness_EngineCommands_control :
    (∃ s q, Issues s (.xcancel none ⟨0, 96, 98, 0⟩) q ∧ (q.read 98 2 0 ≠ 0 ∧ (96 : Reg) = 96)) ∧
    (∃ s q, Issues s (.xcancel none ⟨0, 100, 98, 0⟩) q ∧ (q.read 98 2 0 ≠ 0 ∧ ∀ c ∈ q.m.commands, ¬(fun c : Command => c.tl == 0 && !c.complete && decide (q.read 98 2 0 ≤ c.number)) c = true)) ∧
    (∃ s q, Issues s (.xcancel none ⟨0, 100, 98, 0⟩) q ∧ (q.read 98 2 0 ≠ 0 ∧ ∃ c ∈ q.m.commands, (fun c : Command => c.tl == 0 && !c.complete && decide (q.read 98 2 0 ≤ c.number)) c = true)) ∧
    (∃ s q, Issues s (.xstat none ⟨0, 100, 98, 0⟩) q ∧ ((q.m.commands.find? fun c => c.tl == 0 && c.number == q.read 98 2 0 && !c.complete).isSome ∧ q.read 98 2 0 ≠ 0 ∧ q.read 98 2 0 ≤ (timelineOf q.m 0).issued ∧ keepsLanes q 100 [0])) ∧
    (∃ s q, Issues s (.xstat none ⟨0, 100, 98, 0⟩) q ∧ ((q.m.commands.find? fun c => c.tl == 0 && c.number == q.read 98 2 0 && !c.complete) = none ∧ (timelineOf q.m 0).issued < q.read 98 2 0 + 256 ∧ q.read 98 2 0 ≠ 0 ∧ q.read 98 2 0 ≤ (timelineOf q.m 0).issued ∧ keepsLanes q 100 [0])) ∧
    (∃ s q, Issues s (.xstat none ⟨0, 100, 98, 0⟩) q ∧ ((q.m.commands.find? fun c => c.tl == 0 && c.number == q.read 98 2 0 && !c.complete) = none ∧ q.read 98 2 0 + 256 ≤ (timelineOf q.m 0).issued ∧ q.read 98 2 0 ≠ 0 ∧ keepsLanes q 100 [0])) :=
  ⟨⟨issuing 32 0xB3183100 (regs [(2, 1)]), witness (by decide)⟩,
    ⟨issuing 32 0xB3193100 (regs [(2, 1)]), witness (by decide)⟩,
    ⟨issuing 32 0xB3193100 (regs [(2, 1)]) (fun s => updMotif s 0 fun m => { m with timelines := m.timelines.set 0 ⟨1, 0⟩, commands := [{ blankCommand 0 1 .xcopy 0 with chunks := 2 }] }), witness (by decide)⟩,
    ⟨issuing 32 0xB4193100 (regs [(2, 1)]) (fun s => updMotif s 0 fun m => { m with timelines := m.timelines.set 0 ⟨1, 0⟩, commands := [{ blankCommand 0 1 .xcopy 0 with chunks := 2 }] }), witness (h := fun q => ((q.m.commands.find? fun c => c.tl == 0 && c.number == q.read 98 2 0 && !c.complete).isSome ∧ q.read 98 2 0 ≠ 0 ∧ q.read 98 2 0 ≤ (timelineOf q.m 0).issued ∧ ((q.t.setScalars q.x.members (scalarNo 100) [0]).isSome = true))) (by decide)⟩,
    ⟨issuing 32 0xB4193100 (regs [(2, 2)]) (fun s => updMotif s 0 fun m => { m with timelines := m.timelines.set 0 ⟨257, 0⟩, commands := [{ blankCommand 0 1 .xcopy 0 with chunks := 2 }] }), witness (h := fun q => ((q.m.commands.find? fun c => c.tl == 0 && c.number == q.read 98 2 0 && !c.complete) = none ∧ (timelineOf q.m 0).issued < q.read 98 2 0 + 256 ∧ q.read 98 2 0 ≠ 0 ∧ q.read 98 2 0 ≤ (timelineOf q.m 0).issued ∧ ((q.t.setScalars q.x.members (scalarNo 100) [0]).isSome = true))) (by decide)⟩,
    ⟨issuing 32 0xB4193100 (regs [(2, 2)]) (fun s => updMotif s 0 fun m => { m with timelines := m.timelines.set 0 ⟨258, 0⟩, commands := [{ blankCommand 0 1 .xcopy 0 with chunks := 2 }] }), witness (h := fun q => ((q.m.commands.find? fun c => c.tl == 0 && c.number == q.read 98 2 0 && !c.complete) = none ∧ q.read 98 2 0 + 256 ≤ (timelineOf q.m 0).issued ∧ q.read 98 2 0 ≠ 0 ∧ ((q.t.setScalars q.x.members (scalarNo 100) [0]).isSome = true))) (by decide)⟩⟩

/-- The state in which the loaded sequencer word issues. -/
def sequencing (w : Nat) (f : Sequencer → Sequencer := id) (g : State → State := id) : State :=
  (planSequence (g (updSeq (State.reset.withFetchWord 32 w) 0 f)) 0).1

/-- Whether the sequencer word issues in the state with an issue that satisfies a test. -/
def seqMeets (s : State) (i : Instr) (h : SeqIss → Bool) : Bool :=
  match seqIssuerOf s with
  | none => false
  | some z => i.wf && !z.q.ended && !seqRefused s (cidVd z.m.cid) i && h z

/-- A sequencer's issue that meets decidable hypotheses. -/
theorem seqWitness {s : State} {i : Instr} {h : SeqIss → Prop} [DecidablePred h] (w : seqMeets s i (fun z => decide (h z)) = true) :
    ∃ z, SeqIssues s i z ∧ h z := by
  unfold seqMeets at w
  split at w
  · cases w
  · rename_i z hz
    simp only [Bool.and_eq_true, Bool.not_eq_eq_eq_not, Bool.not_true] at w
    exact ⟨z, ⟨w.1.1.1, hz, w.1.1.2, w.1.2⟩, of_decide_eq_true w.2⟩

theorem witness_SequencerArithmetic :
    (∃ s z, SeqIssues s (.kadd ⟨0, 31, 0, 31⟩) z ∧ (∀ r ∈ [(31 : Reg), (0 : Reg), (31 : Reg)], r.toNat < 32)) ∧
    (∃ s z, SeqIssues s (.ksub ⟨0, 31, 0, 31⟩) z ∧ (∀ r ∈ [(31 : Reg), (0 : Reg), (31 : Reg)], r.toNat < 32)) ∧
    (∃ s z, SeqIssues s (.kmul ⟨0, 31, 0, 31⟩) z ∧ (∀ r ∈ [(31 : Reg), (0 : Reg), (31 : Reg)], r.toNat < 32)) ∧
    (∃ s z, SeqIssues s (.kand ⟨0, 31, 0, 31⟩) z ∧ (∀ r ∈ [(31 : Reg), (0 : Reg), (31 : Reg)], r.toNat < 32)) ∧
    (∃ s z, SeqIssues s (.kor ⟨0, 31, 0, 31⟩) z ∧ (∀ r ∈ [(31 : Reg), (0 : Reg), (31 : Reg)], r.toNat < 32)) ∧
    (∃ s z, SeqIssues s (.kshl ⟨0, 31, 0, 31⟩) z ∧ (∀ r ∈ [(31 : Reg), (0 : Reg), (31 : Reg)], r.toNat < 32)) ∧
    (∃ s z, SeqIssues s (.kaddi ⟨0, 31, 1023⟩) z ∧ (∀ r ∈ [(0 : Reg), (31 : Reg)], r.toNat < 32)) ∧
    (∃ s z, SeqIssues s (.kli ⟨31, 131071⟩) z ∧ (∀ r ∈ [(31 : Reg)], r.toNat < 32)) ∧
    (∃ s z, SeqIssues s (.kadd ⟨0, 31, 0, 32⟩) z ∧ ([(31 : Reg), (0 : Reg), (32 : Reg)].find? fun r => decide (32 ≤ r.toNat)) = some 32) ∧
    (∃ s z, SeqIssues s (.ksub ⟨0, 31, 0, 32⟩) z ∧ ([(31 : Reg), (0 : Reg), (32 : Reg)].find? fun r => decide (32 ≤ r.toNat)) = some 32) ∧
    (∃ s z, SeqIssues s (.kmul ⟨0, 31, 0, 32⟩) z ∧ ([(31 : Reg), (0 : Reg), (32 : Reg)].find? fun r => decide (32 ≤ r.toNat)) = some 32) ∧
    (∃ s z, SeqIssues s (.kand ⟨0, 31, 0, 32⟩) z ∧ ([(31 : Reg), (0 : Reg), (32 : Reg)].find? fun r => decide (32 ≤ r.toNat)) = some 32) ∧
    (∃ s z, SeqIssues s (.kor ⟨0, 31, 0, 32⟩) z ∧ ([(31 : Reg), (0 : Reg), (32 : Reg)].find? fun r => decide (32 ≤ r.toNat)) = some 32) ∧
    (∃ s z, SeqIssues s (.kshl ⟨0, 31, 0, 32⟩) z ∧ ([(31 : Reg), (0 : Reg), (32 : Reg)].find? fun r => decide (32 ≤ r.toNat)) = some 32) ∧
    (∃ s z, SeqIssues s (.kaddi ⟨0, 32, 1023⟩) z ∧ ([(0 : Reg), (32 : Reg)].find? fun r => decide (32 ≤ r.toNat)) = some 32) ∧
    (∃ s z, SeqIssues s (.kli ⟨32, 131071⟩) z ∧ ([(32 : Reg)].find? fun r => decide (32 ≤ r.toNat)) = some 32) ∧
    (∃ s z, SeqIssues s (.kbra ⟨1, 32, 1⟩) z ∧ (1 : BitVec 3) ≠ 0 ∧ 32 ≤ (32 : Reg).toNat) ∧
    (∃ s z, SeqIssues s (.kbra ⟨0, 0, 16383⟩) z ∧ (0 : BitVec 3) = 0) ∧
    (∃ s z, SeqIssues s (.kbra ⟨1, 31, 8191⟩) z ∧ ((31 : Reg).toNat < 32 ∧ (z.q.kreg 31).toInt = 0)) ∧
    (∃ s z, SeqIssues s (.kbra ⟨1, 31, 8191⟩) z ∧ ((31 : Reg).toNat < 32 ∧ ¬(z.q.kreg 31).toInt = 0)) ∧
    (∃ s z, SeqIssues s (.kbra ⟨2, 31, 8191⟩) z ∧ ((31 : Reg).toNat < 32 ∧ (z.q.kreg 31).toInt ≠ 0)) ∧
    (∃ s z, SeqIssues s (.kbra ⟨2, 31, 8191⟩) z ∧ ((31 : Reg).toNat < 32 ∧ ¬(z.q.kreg 31).toInt ≠ 0)) ∧
    (∃ s z, SeqIssues s (.kbra ⟨3, 31, 8191⟩) z ∧ ((31 : Reg).toNat < 32 ∧ (z.q.kreg 31).toInt < 0)) ∧
    (∃ s z, SeqIssues s (.kbra ⟨3, 31, 8191⟩) z ∧ ((31 : Reg).toNat < 32 ∧ ¬(z.q.kreg 31).toInt < 0)) ∧
    (∃ s z, SeqIssues s (.kbra ⟨4, 31, 8191⟩) z ∧ ((31 : Reg).toNat < 32 ∧ 0 ≤ (z.q.kreg 31).toInt)) ∧
    (∃ s z, SeqIssues s (.kbra ⟨4, 31, 8191⟩) z ∧ ((31 : Reg).toNat < 32 ∧ ¬0 ≤ (z.q.kreg 31).toInt)) ∧
    (∃ s z, SeqIssues s (.kbra ⟨5, 31, 8191⟩) z ∧ ((31 : Reg).toNat < 32 ∧ 0 < (z.q.kreg 31).toInt)) ∧
    (∃ s z, SeqIssues s (.kbra ⟨5, 31, 8191⟩) z ∧ ((31 : Reg).toNat < 32 ∧ ¬0 < (z.q.kreg 31).toInt)) ∧
    (∃ s z, SeqIssues s (.kbra ⟨6, 31, 8191⟩) z ∧ ((31 : Reg).toNat < 32 ∧ (z.q.kreg 31).toInt ≤ 0)) ∧
    (∃ s z, SeqIssues s (.kbra ⟨6, 31, 8191⟩) z ∧ ((31 : Reg).toNat < 32 ∧ ¬(z.q.kreg 31).toInt ≤ 0)) ∧
    (∃ s z, SeqIssues s (.kend ⟨0, 0, 0, 0⟩) z ∧ True) ∧
    (∃ s z, SeqIssues s (.myield ⟨0, 0, 0, 0⟩) z ∧ True) :=
  ⟨⟨sequencing 0xC807C01F (fun q => { q with k := [(31, 7)] }), seqWitness (h := fun z => (∀ r ∈ [(31 : Reg), (0 : Reg), (31 : Reg)], r.toNat < 32)) (by decide)⟩,
    ⟨sequencing 0xD407C01F (fun q => { q with k := [(31, 7)] }), seqWitness (h := fun z => (∀ r ∈ [(31 : Reg), (0 : Reg), (31 : Reg)], r.toNat < 32)) (by decide)⟩,
    ⟨sequencing 0xD707C01F (fun q => { q with k := [(31, 7)] }), seqWitness (h := fun z => (∀ r ∈ [(31 : Reg), (0 : Reg), (31 : Reg)], r.toNat < 32)) (by decide)⟩,
    ⟨sequencing 0xD607C01F (fun q => { q with k := [(31, 7)] }), seqWitness (h := fun z => (∀ r ∈ [(31 : Reg), (0 : Reg), (31 : Reg)], r.toNat < 32)) (by decide)⟩,
    ⟨sequencing 0xD907C01F (fun q => { q with k := [(31, 7)] }), seqWitness (h := fun z => (∀ r ∈ [(31 : Reg), (0 : Reg), (31 : Reg)], r.toNat < 32)) (by decide)⟩,
    ⟨sequencing 0xD507C01F (fun q => { q with k := [(31, 7)] }), seqWitness (h := fun z => (∀ r ∈ [(31 : Reg), (0 : Reg), (31 : Reg)], r.toNat < 32)) (by decide)⟩,
    ⟨sequencing 0xC9007FFF (fun q => { q with k := [(31, 7)] }), seqWitness (h := fun z => (∀ r ∈ [(0 : Reg), (31 : Reg)], r.toNat < 32)) (by decide)⟩,
    ⟨sequencing 0xCA3FFFFF, seqWitness (h := fun z => (∀ r ∈ [(31 : Reg)], r.toNat < 32)) (by decide)⟩,
    ⟨sequencing 0xC807C020, seqWitness (h := fun z => ([(31 : Reg), (0 : Reg), (32 : Reg)].find? fun r => decide (32 ≤ r.toNat)) = some 32) (by decide)⟩,
    ⟨sequencing 0xD407C020, seqWitness (h := fun z => ([(31 : Reg), (0 : Reg), (32 : Reg)].find? fun r => decide (32 ≤ r.toNat)) = some 32) (by decide)⟩,
    ⟨sequencing 0xD707C020, seqWitness (h := fun z => ([(31 : Reg), (0 : Reg), (32 : Reg)].find? fun r => decide (32 ≤ r.toNat)) = some 32) (by decide)⟩,
    ⟨sequencing 0xD607C020, seqWitness (h := fun z => ([(31 : Reg), (0 : Reg), (32 : Reg)].find? fun r => decide (32 ≤ r.toNat)) = some 32) (by decide)⟩,
    ⟨sequencing 0xD907C020, seqWitness (h := fun z => ([(31 : Reg), (0 : Reg), (32 : Reg)].find? fun r => decide (32 ≤ r.toNat)) = some 32) (by decide)⟩,
    ⟨sequencing 0xD507C020, seqWitness (h := fun z => ([(31 : Reg), (0 : Reg), (32 : Reg)].find? fun r => decide (32 ≤ r.toNat)) = some 32) (by decide)⟩,
    ⟨sequencing 0xC90083FF, seqWitness (h := fun z => ([(0 : Reg), (32 : Reg)].find? fun r => decide (32 ≤ r.toNat)) = some 32) (by decide)⟩,
    ⟨sequencing 0xCA41FFFF, seqWitness (h := fun z => ([(32 : Reg)].find? fun r => decide (32 ≤ r.toNat)) = some 32) (by decide)⟩,
    ⟨sequencing 0xCD280001, seqWitness (h := fun z => (1 : BitVec 3) ≠ 0 ∧ 32 ≤ (32 : Reg).toNat) (by decide)⟩,
    ⟨sequencing 0xCD003FFF, seqWitness (h := fun z => (0 : BitVec 3) = 0) (by decide)⟩,
    ⟨sequencing 0xCD27DFFF, seqWitness (h := fun z => ((31 : Reg).toNat < 32 ∧ (z.q.kreg 31).toInt = 0)) (by decide)⟩,
    ⟨sequencing 0xCD27DFFF (fun q => { q with k := [(31, 1)] }), seqWitness (h := fun z => ((31 : Reg).toNat < 32 ∧ ¬(z.q.kreg 31).toInt = 0)) (by decide)⟩,
    ⟨sequencing 0xCD47DFFF (fun q => { q with k := [(31, BitVec.ofInt 64 (-1))] }), seqWitness (h := fun z => ((31 : Reg).toNat < 32 ∧ (z.q.kreg 31).toInt ≠ 0)) (by decide)⟩,
    ⟨sequencing 0xCD47DFFF, seqWitness (h := fun z => ((31 : Reg).toNat < 32 ∧ ¬(z.q.kreg 31).toInt ≠ 0)) (by decide)⟩,
    ⟨sequencing 0xCD67DFFF (fun q => { q with k := [(31, BitVec.ofInt 64 (-1))] }), seqWitness (h := fun z => ((31 : Reg).toNat < 32 ∧ (z.q.kreg 31).toInt < 0)) (by decide)⟩,
    ⟨sequencing 0xCD67DFFF, seqWitness (h := fun z => ((31 : Reg).toNat < 32 ∧ ¬(z.q.kreg 31).toInt < 0)) (by decide)⟩,
    ⟨sequencing 0xCD87DFFF, seqWitness (h := fun z => ((31 : Reg).toNat < 32 ∧ 0 ≤ (z.q.kreg 31).toInt)) (by decide)⟩,
    ⟨sequencing 0xCD87DFFF (fun q => { q with k := [(31, BitVec.ofInt 64 (-1))] }), seqWitness (h := fun z => ((31 : Reg).toNat < 32 ∧ ¬0 ≤ (z.q.kreg 31).toInt)) (by decide)⟩,
    ⟨sequencing 0xCDA7DFFF (fun q => { q with k := [(31, 1)] }), seqWitness (h := fun z => ((31 : Reg).toNat < 32 ∧ 0 < (z.q.kreg 31).toInt)) (by decide)⟩,
    ⟨sequencing 0xCDA7DFFF, seqWitness (h := fun z => ((31 : Reg).toNat < 32 ∧ ¬0 < (z.q.kreg 31).toInt)) (by decide)⟩,
    ⟨sequencing 0xCDC7DFFF, seqWitness (h := fun z => ((31 : Reg).toNat < 32 ∧ (z.q.kreg 31).toInt ≤ 0)) (by decide)⟩,
    ⟨sequencing 0xCDC7DFFF (fun q => { q with k := [(31, 1)] }), seqWitness (h := fun z => ((31 : Reg).toNat < 32 ∧ ¬(z.q.kreg 31).toInt ≤ 0)) (by decide)⟩,
    ⟨sequencing 0xCE000000, seqWitness (h := fun z => True) (by decide)⟩,
    ⟨sequencing 0xDA000000, seqWitness (h := fun z => True) (by decide)⟩⟩

theorem witness_SequencerMemory_1 :
    (∃ s z, SeqIssues s (.kld ⟨2, 1, 31, 127⟩) z ∧ ((((1 : Reg).toNat < 32 ∧ (31 : Reg).toNat < 32) ∧ (((z.q.kreg 31).toNat + (127#7).toInt * 4) % 2 ^ 64).toNat % 4 = 0) ∧ agentTarget s z.m ((((z.q.kreg 31).toNat + (127#7).toInt * 4) % 2 ^ 64).toNat) 4 .read = .phys ⟨.device, 0x300FFC⟩ dataPage ∧
      formatting s (.phys ⟨.device, 0x300FFC⟩ dataPage) = false ∧ isPoisoned s ⟨.device, 0x300FFC⟩ = false)) :=
  ⟨sequencing 0xCB404FFF (fun q => { q with k := [(31, 0x301000)] }) (withPage 0x300000), seqWitness (h := fun z => ((((1 : Reg).toNat < 32 ∧ (31 : Reg).toNat < 32) ∧ (((z.q.kreg 31).toNat + (127#7).toInt * 4) % 2 ^ 64).toNat % 4 = 0) ∧ agentTarget (sequencing 0xCB404FFF (fun q => { q with k := [(31, 0x301000)] }) (withPage 0x300000)) z.m ((((z.q.kreg 31).toNat + (127#7).toInt * 4) % 2 ^ 64).toNat) 4 .read = .phys ⟨.device, 0x300FFC⟩ dataPage ∧
      formatting (sequencing 0xCB404FFF (fun q => { q with k := [(31, 0x301000)] }) (withPage 0x300000)) (.phys ⟨.device, 0x300FFC⟩ dataPage) = false ∧ isPoisoned (sequencing 0xCB404FFF (fun q => { q with k := [(31, 0x301000)] }) (withPage 0x300000)) ⟨.device, 0x300FFC⟩ = false)) (by decide +kernel)⟩

theorem witness_SequencerMemory_2 :
    (∃ s z, SeqIssues s (.kld ⟨3, 1, 31, 127⟩) z ∧ ((((1 : Reg).toNat < 32 ∧ (31 : Reg).toNat < 32) ∧ (((z.q.kreg 31).toNat + (127#7).toInt * 8) % 2 ^ 64).toNat % 8 = 0) ∧ agentTarget s z.m ((((z.q.kreg 31).toNat + (127#7).toInt * 8) % 2 ^ 64).toNat) 8 .read = .phys ⟨.device, 0x300FF8⟩ dataPage ∧
      formatting s (.phys ⟨.device, 0x300FF8⟩ dataPage) = false ∧ isPoisoned s ⟨.device, 0x300FF8⟩ = false)) :=
  ⟨sequencing 0xCB604FFF (fun q => { q with k := [(31, 0x301000)] }) (withPage 0x300000), seqWitness (h := fun z => ((((1 : Reg).toNat < 32 ∧ (31 : Reg).toNat < 32) ∧ (((z.q.kreg 31).toNat + (127#7).toInt * 8) % 2 ^ 64).toNat % 8 = 0) ∧ agentTarget (sequencing 0xCB604FFF (fun q => { q with k := [(31, 0x301000)] }) (withPage 0x300000)) z.m ((((z.q.kreg 31).toNat + (127#7).toInt * 8) % 2 ^ 64).toNat) 8 .read = .phys ⟨.device, 0x300FF8⟩ dataPage ∧
      formatting (sequencing 0xCB604FFF (fun q => { q with k := [(31, 0x301000)] }) (withPage 0x300000)) (.phys ⟨.device, 0x300FF8⟩ dataPage) = false ∧ isPoisoned (sequencing 0xCB604FFF (fun q => { q with k := [(31, 0x301000)] }) (withPage 0x300000)) ⟨.device, 0x300FF8⟩ = false)) (by decide +kernel)⟩

theorem witness_SequencerMemory_3 :
    (∃ s z, SeqIssues s (.kld ⟨3, 1, 31, 127⟩) z ∧ (((((1 : Reg).toNat < 32 ∧ (31 : Reg).toNat < 32) ∧ (((z.q.kreg 31).toNat + (127#7).toInt * 8) % 2 ^ 64).toNat % 8 = 0) ∧ agentTarget s z.m ((((z.q.kreg 31).toNat + (127#7).toInt * 8) % 2 ^ 64).toNat) 8 .read = .scratch 16376))) :=
  ⟨sequencing 0xCB604FFF (fun q => { q with k := [(31, 0x00FFFFFF00000000+16384)] }) (withPage 0x300000), seqWitness (h := fun z => (((((1 : Reg).toNat < 32 ∧ (31 : Reg).toNat < 32) ∧ (((z.q.kreg 31).toNat + (127#7).toInt * 8) % 2 ^ 64).toNat % 8 = 0) ∧ agentTarget (sequencing 0xCB604FFF (fun q => { q with k := [(31, 0x00FFFFFF00000000+16384)] }) (withPage 0x300000)) z.m ((((z.q.kreg 31).toNat + (127#7).toInt * 8) % 2 ^ 64).toNat) 8 .read = .scratch 16376))) (by decide +kernel)⟩

theorem witness_SequencerMemory_4 :
    (∃ s z, SeqIssues s (.kst ⟨2, 1, 31, 127⟩) z ∧ ((((1 : Reg).toNat < 32 ∧ (31 : Reg).toNat < 32) ∧ (((z.q.kreg 31).toNat + (127#7).toInt * 4) % 2 ^ 64).toNat % 4 = 0) ∧ agentTarget s z.m ((((z.q.kreg 31).toNat + (127#7).toInt * 4) % 2 ^ 64).toNat) 4 .write = .phys ⟨.device, 0x300FFC⟩ dataPage ∧
      formatting s (.phys ⟨.device, 0x300FFC⟩ dataPage) = false ∧ isPoisoned s ⟨.device, 0x300FFC⟩ = false) ∧ nothingFaults z = true) :=
  ⟨sequencing 0xCC404FFF (fun q => { q with k := [(31, 0x301000)] }) (withPage 0x300000), seqWitness (h := fun z => ((((1 : Reg).toNat < 32 ∧ (31 : Reg).toNat < 32) ∧ (((z.q.kreg 31).toNat + (127#7).toInt * 4) % 2 ^ 64).toNat % 4 = 0) ∧ agentTarget (sequencing 0xCC404FFF (fun q => { q with k := [(31, 0x301000)] }) (withPage 0x300000)) z.m ((((z.q.kreg 31).toNat + (127#7).toInt * 4) % 2 ^ 64).toNat) 4 .write = .phys ⟨.device, 0x300FFC⟩ dataPage ∧
      formatting (sequencing 0xCC404FFF (fun q => { q with k := [(31, 0x301000)] }) (withPage 0x300000)) (.phys ⟨.device, 0x300FFC⟩ dataPage) = false ∧ isPoisoned (sequencing 0xCC404FFF (fun q => { q with k := [(31, 0x301000)] }) (withPage 0x300000)) ⟨.device, 0x300FFC⟩ = false) ∧ nothingFaults z = true) (by decide +kernel)⟩

theorem witness_SequencerMemory_5 :
    (∃ s z, SeqIssues s (.kst ⟨3, 1, 31, 127⟩) z ∧ ((((1 : Reg).toNat < 32 ∧ (31 : Reg).toNat < 32) ∧ (((z.q.kreg 31).toNat + (127#7).toInt * 8) % 2 ^ 64).toNat % 8 = 0) ∧ agentTarget s z.m ((((z.q.kreg 31).toNat + (127#7).toInt * 8) % 2 ^ 64).toNat) 8 .write = .phys ⟨.device, 0x300FF8⟩ dataPage ∧
      formatting s (.phys ⟨.device, 0x300FF8⟩ dataPage) = false ∧ isPoisoned s ⟨.device, 0x300FF8⟩ = false) ∧ nothingFaults z = true) :=
  ⟨sequencing 0xCC604FFF (fun q => { q with k := [(31, 0x301000)] }) (withPage 0x300000), seqWitness (h := fun z => ((((1 : Reg).toNat < 32 ∧ (31 : Reg).toNat < 32) ∧ (((z.q.kreg 31).toNat + (127#7).toInt * 8) % 2 ^ 64).toNat % 8 = 0) ∧ agentTarget (sequencing 0xCC604FFF (fun q => { q with k := [(31, 0x301000)] }) (withPage 0x300000)) z.m ((((z.q.kreg 31).toNat + (127#7).toInt * 8) % 2 ^ 64).toNat) 8 .write = .phys ⟨.device, 0x300FF8⟩ dataPage ∧
      formatting (sequencing 0xCC604FFF (fun q => { q with k := [(31, 0x301000)] }) (withPage 0x300000)) (.phys ⟨.device, 0x300FF8⟩ dataPage) = false ∧ isPoisoned (sequencing 0xCC604FFF (fun q => { q with k := [(31, 0x301000)] }) (withPage 0x300000)) ⟨.device, 0x300FF8⟩ = false) ∧ nothingFaults z = true) (by decide +kernel)⟩

theorem witness_SequencerMemory_6 :
    (∃ s z, SeqIssues s (.kst ⟨3, 1, 31, 127⟩) z ∧ (((((1 : Reg).toNat < 32 ∧ (31 : Reg).toNat < 32) ∧ (((z.q.kreg 31).toNat + (127#7).toInt * 8) % 2 ^ 64).toNat % 8 = 0) ∧ agentTarget s z.m ((((z.q.kreg 31).toNat + (127#7).toInt * 8) % 2 ^ 64).toNat) 8 .write = .scratch 16376)) ∧ nothingFaults z = true) :=
  ⟨sequencing 0xCC604FFF (fun q => { q with k := [(31, 0x00FFFFFF00000000+16384)] }) (withPage 0x300000), seqWitness (h := fun z => (((((1 : Reg).toNat < 32 ∧ (31 : Reg).toNat < 32) ∧ (((z.q.kreg 31).toNat + (127#7).toInt * 8) % 2 ^ 64).toNat % 8 = 0) ∧ agentTarget (sequencing 0xCC604FFF (fun q => { q with k := [(31, 0x00FFFFFF00000000+16384)] }) (withPage 0x300000)) z.m ((((z.q.kreg 31).toNat + (127#7).toInt * 8) % 2 ^ 64).toNat) 8 .write = .scratch 16376)) ∧ nothingFaults z = true) (by decide +kernel)⟩

theorem witness_SequencerMemory_7 :
    (∃ s z, SeqIssues s (.kst ⟨3, 1, 31, 127⟩) z ∧ (((((1 : Reg).toNat < 32 ∧ (31 : Reg).toNat < 32) ∧ (((z.q.kreg 31).toNat + (127#7).toInt * 8) % 2 ^ 64).toNat % 8 = 0) ∧ agentTarget s z.m ((((z.q.kreg 31).toNat + (127#7).toInt * 8) % 2 ^ 64).toNat) 8 .write = .scratch 16376)) ∧ nothingFaults z = false) :=
  ⟨sequencing 0xCC604FFF (fun q => { q with k := [(31, 0x00FFFFFF00000000+16384)], work := [.mldacc 0 0 [] 0] }) (withPage 0x300000), seqWitness (h := fun z => (((((1 : Reg).toNat < 32 ∧ (31 : Reg).toNat < 32) ∧ (((z.q.kreg 31).toNat + (127#7).toInt * 8) % 2 ^ 64).toNat % 8 = 0) ∧ agentTarget (sequencing 0xCC604FFF (fun q => { q with k := [(31, 0x00FFFFFF00000000+16384)], work := [.mldacc 0 0 [] 0] }) (withPage 0x300000)) z.m ((((z.q.kreg 31).toNat + (127#7).toInt * 8) % 2 ^ 64).toNat) 8 .write = .scratch 16376)) ∧ nothingFaults z = false) (by decide +kernel)⟩

theorem witness_SequencerMemory_8 :
    (∃ s z, SeqIssues s (.kld ⟨3, 1, 31, 0⟩) z ∧ (((1 : Reg).toNat < 32 ∧ (31 : Reg).toNat < 32) ∧ (((z.q.kreg 31).toNat + (0#7).toInt * 8) % 2 ^ 64).toNat % 8 ≠ 0)) :=
  ⟨sequencing 0xCB604F80 (fun q => { q with k := [(31, 0x300004)] }) (withPage 0x300000), seqWitness (h := fun z => (((1 : Reg).toNat < 32 ∧ (31 : Reg).toNat < 32) ∧ (((z.q.kreg 31).toNat + (0#7).toInt * 8) % 2 ^ 64).toNat % 8 ≠ 0)) (by decide +kernel)⟩

theorem witness_SequencerMemory_9 :
    (∃ s z, SeqIssues s (.kst ⟨2, 1, 31, 0⟩) z ∧ (((1 : Reg).toNat < 32 ∧ (31 : Reg).toNat < 32) ∧ (((z.q.kreg 31).toNat + (0#7).toInt * 4) % 2 ^ 64).toNat % 4 ≠ 0)) :=
  ⟨sequencing 0xCC404F80 (fun q => { q with k := [(31, 0x300002)] }) (withPage 0x300000), seqWitness (h := fun z => (((1 : Reg).toNat < 32 ∧ (31 : Reg).toNat < 32) ∧ (((z.q.kreg 31).toNat + (0#7).toInt * 4) % 2 ^ 64).toNat % 4 ≠ 0)) (by decide +kernel)⟩

theorem witness_SequencerBarriers :
    (∃ s z, SeqIssues s (.msig ⟨0, 0, 0, 15⟩) z ∧ ((z.m.header.barriers.getLsbD 15 = true ∧ z.m.header.seqbar.getLsbD 15 = true) ∧ (tget Barrier.reset z.m.barriers 15).seqIn = false ∧ (z.q.work = [] ∧ (∀ c ∈ z.m.commands, c.op = .mstore → c.complete = true) ∧ ∀ r ∈ s.requests, r.uid = z.m.uid → r.strand = 2000 → r.op = 3 → r.answer.isSome))) ∧
    (∃ s z, SeqIssues s (.msig ⟨0, 0, 0, 15⟩) z ∧ ((z.m.header.barriers.getLsbD 15 = true ∧ z.m.header.seqbar.getLsbD 15 = true) ∧ (tget Barrier.reset z.m.barriers 15).seqIn = false ∧ ¬(z.q.work = [] ∧ (∀ c ∈ z.m.commands, c.op = .mstore → c.complete = true) ∧ ∀ r ∈ s.requests, r.uid = z.m.uid → r.strand = 2000 → r.op = 3 → r.answer.isSome))) ∧
    (∃ s z, SeqIssues s (.msig ⟨0, 0, 0, 15⟩) z ∧ ((z.m.header.barriers.getLsbD 15 = true ∧ z.m.header.seqbar.getLsbD 15 = true) ∧ (tget Barrier.reset z.m.barriers 15).seqIn = true ∧ ¬(∀ t ∈ z.m.strands, t.over = true))) ∧
    (∃ s z, SeqIssues s (.mwait ⟨0, 0, 0, 15⟩) z ∧ (z.m.header.barriers.getLsbD 15 = true ∧ (∀ e ∈ z.q.arrived, e.1 = 15 → e.2 ≠ (tget Barrier.reset z.m.barriers 15).phase))) ∧
    (∃ s z, SeqIssues s (.mwait ⟨0, 0, 0, 15⟩) z ∧ (z.m.header.barriers.getLsbD 15 = true ∧ (∀ e ∈ z.q.arrived, e.1 = 15 → e.2 ≠ (tget Barrier.reset z.m.barriers 15).phase))) ∧
    (∃ s z, SeqIssues s (.mwait ⟨0, 0, 0, 15⟩) z ∧ (z.m.header.barriers.getLsbD 15 = true ∧ (z.q.arrived.find? fun e => e.1 == 15) = some (15, (tget Barrier.reset z.m.barriers 15).phase) ∧ ¬(∀ t ∈ z.m.strands, t.over = true))) ∧
    (∃ s z, SeqIssues s (.mwait ⟨0, 0, 0, 15⟩) z ∧ (z.m.header.barriers.getLsbD 15 = true ∧ (z.q.arrived.find? fun e => e.1 == 15) = some (15, (tget Barrier.reset z.m.barriers 15).phase) ∧ (∀ t ∈ z.m.strands, t.over = true))) ∧
    (∃ s z, SeqIssues s (.mwait ⟨0, 0, 0, 15⟩) z ∧ ¬z.m.header.barriers.getLsbD 15 = true) ∧
    (∃ s z, SeqIssues s (.mwaitt ⟨0, 0, 31, 3⟩) z ∧ ((31 : Reg).toNat < 32 ∧ ((z.q.kreg 31).toNat) ≤ (timelineOf z.m 3).done)) ∧
    (∃ s z, SeqIssues s (.mwaitt ⟨0, 0, 31, 3⟩) z ∧ ((31 : Reg).toNat < 32 ∧ (timelineOf z.m 3).done < ((z.q.kreg 31).toNat) ∧ (((z.q.kreg 31).toNat) ≤ (timelineOf z.m 3).issued ∨ ¬(∀ t ∈ z.m.strands, t.over = true)))) ∧
    (∃ s z, SeqIssues s (.mwaitt ⟨0, 0, 31, 3⟩) z ∧ ((31 : Reg).toNat < 32 ∧ (timelineOf z.m 3).done < ((z.q.kreg 31).toNat) ∧ (timelineOf z.m 3).issued < ((z.q.kreg 31).toNat) ∧ (∀ t ∈ z.m.strands, t.over = true))) :=
  ⟨⟨sequencing 0xC600000F, seqWitness (h := fun z => ((z.m.header.barriers.getLsbD 15 = true ∧ z.m.header.seqbar.getLsbD 15 = true) ∧ (tget Barrier.reset z.m.barriers 15).seqIn = false ∧ (z.q.work = [] ∧ (∀ c ∈ z.m.commands, c.op = .mstore → c.complete = true) ∧ ∀ r ∈ (sequencing 0xC600000F).requests, r.uid = z.m.uid → r.strand = 2000 → r.op = 3 → r.answer.isSome))) (by decide)⟩,
    ⟨sequencing 0xC600000F (fun q => { q with work := [.mzero 0 false] }), seqWitness (h := fun z => ((z.m.header.barriers.getLsbD 15 = true ∧ z.m.header.seqbar.getLsbD 15 = true) ∧ (tget Barrier.reset z.m.barriers 15).seqIn = false ∧ ¬(z.q.work = [] ∧ (∀ c ∈ z.m.commands, c.op = .mstore → c.complete = true) ∧ ∀ r ∈ (sequencing 0xC600000F (fun q => { q with work := [.mzero 0 false] })).requests, r.uid = z.m.uid → r.strand = 2000 → r.op = 3 → r.answer.isSome))) (by decide)⟩,
    ⟨sequencing 0xC600000F (id) (fun s => updMotif s 0 fun m => { m with barriers := tset Barrier.reset m.barriers 15 { Barrier.reset with seqIn := true } }), seqWitness (h := fun z => ((z.m.header.barriers.getLsbD 15 = true ∧ z.m.header.seqbar.getLsbD 15 = true) ∧ (tget Barrier.reset z.m.barriers 15).seqIn = true ∧ ¬(∀ t ∈ z.m.strands, t.over = true))) (by decide)⟩,
    ⟨sequencing 0xC700000F, seqWitness (h := fun z => (z.m.header.barriers.getLsbD 15 = true ∧ (∀ e ∈ z.q.arrived, e.1 = 15 → e.2 ≠ (tget Barrier.reset z.m.barriers 15).phase))) (by decide)⟩,
    ⟨sequencing 0xC700000F (fun q => { q with arrived := [(15, 0)] }) (fun s => updMotif s 0 fun m => { m with barriers := tset Barrier.reset m.barriers 15 { Barrier.reset with phase := 1 } }), seqWitness (h := fun z => (z.m.header.barriers.getLsbD 15 = true ∧ (∀ e ∈ z.q.arrived, e.1 = 15 → e.2 ≠ (tget Barrier.reset z.m.barriers 15).phase))) (by decide)⟩,
    ⟨sequencing 0xC700000F (fun q => { q with arrived := [(15, 0)] }), seqWitness (h := fun z => (z.m.header.barriers.getLsbD 15 = true ∧ (z.q.arrived.find? fun e => e.1 == 15) = some (15, (tget Barrier.reset z.m.barriers 15).phase) ∧ ¬(∀ t ∈ z.m.strands, t.over = true))) (by decide)⟩,
    ⟨sequencing 0xC700000F (fun q => { q with arrived := [(15, 0)] }) (fun s => updMotif s 0 fun m => { m with strands := m.strands.map fun t => { t with ended := t.launched } }), seqWitness (h := fun z => (z.m.header.barriers.getLsbD 15 = true ∧ (z.q.arrived.find? fun e => e.1 == 15) = some (15, (tget Barrier.reset z.m.barriers 15).phase) ∧ (∀ t ∈ z.m.strands, t.over = true))) (by decide)⟩,
    ⟨sequencing 0xC700000F (id) (fun s => updMotif s 0 fun m => { m with header := { m.header with barriers := 0x7FFF } }), seqWitness (h := fun z => ¬z.m.header.barriers.getLsbD 15 = true) (by decide)⟩,
    ⟨sequencing 0xD8000F83, seqWitness (h := fun z => ((31 : Reg).toNat < 32 ∧ ((z.q.kreg 31).toNat) ≤ (timelineOf z.m 3).done)) (by decide)⟩,
    ⟨sequencing 0xD8000F83 (fun q => { q with k := [(31, 1)] }), seqWitness (h := fun z => ((31 : Reg).toNat < 32 ∧ (timelineOf z.m 3).done < ((z.q.kreg 31).toNat) ∧ (((z.q.kreg 31).toNat) ≤ (timelineOf z.m 3).issued ∨ ¬(∀ t ∈ z.m.strands, t.over = true)))) (by decide)⟩,
    ⟨sequencing 0xD8000F83 (fun q => { q with k := [(31, 1)] }) (fun s => updMotif s 0 fun m => { m with strands := m.strands.map fun t => { t with ended := t.launched } }), seqWitness (h := fun z => ((31 : Reg).toNat < 32 ∧ (timelineOf z.m 3).done < ((z.q.kreg 31).toNat) ∧ (timelineOf z.m 3).issued < ((z.q.kreg 31).toNat) ∧ (∀ t ∈ z.m.strands, t.over = true))) (by decide)⟩⟩

/-- The entry of a 128 by 16 tensor of .f16 at 0x300000. -/
def matA : List Byte := entryOf 3 2 0 0x300000 [16, 128] [2, 32] 0 0

/-- The entry of a 256 by 16 tensor of .f16 at 0x301000. -/
def matB : List Byte := entryOf 3 2 0 0x301000 [16, 256] [2, 32] 0 0

/-- The entry of a sealed sparse tensor. -/
def matS : List Byte := entryOf 18 0x12 0 0x302000 [32, 256] [1, 32] 0 0

/-- The entry of a .f64 tensor. -/
def matD : List Byte := entryOf 1 2 0 0x300000 [256, 128] [8, 2048] 0 0

/-- The state whose cluster holds four matrix entries, handles 1 to 4. -/
def withMats (s : State) : State := withHandle 4 matD (withHandle 3 matS (withHandle 2 matB (withHandle 1 matA s)))

theorem witness_MatrixIssue :
    (∃ s z, SeqIssues s (.mma ⟨0, 35, 2, 31⟩) z ∧ (((35 : Reg).toNat = 32 + 3 ∧ 3 < 4 ∧ z.m.header.acctiles.getLsbD 3 = true) ∧ ((2 : Reg).toNat < 32 ∧ (2 : Reg).toNat % 2 = 0 ∧ (31 : Reg).toNat < 32) ∧ (z.q.kreg 31).toNat < 65536 ∧ (z.q.kreg 2).toNat < 2 ^ 60 ∧ (z.q.kreg 3).toNat < 2 ^ 60 ∧
      cachedEntry s z.m (descH (z.q.kreg 2)) = some ⟨0, 1, matA, 0⟩ ∧ cachedEntry s z.m (descH (z.q.kreg 3)) = some ⟨0, 2, matB, 0⟩ ∧ (parseHandle (⟨0, 1, matA, 0⟩ : CachedHandle).image).rank = 2 ∧ (parseHandle (⟨0, 2, matB, 0⟩ : CachedHandle).image).rank = 2 ∧ classOn s (cidVd z.m.cid) (parseHandle (⟨0, 1, matA, 0⟩ : CachedHandle).image).fmt (parseHandle (⟨0, 2, matB, 0⟩ : CachedHandle).image).fmt = some 16 ∧ (parseHandle (⟨0, 1, matA, 0⟩ : CachedHandle).image).fmt < 12 ∧ descK (z.q.kreg 2) % 16 = 0 ∧
      (parseHandle (⟨0, 2, matB, 0⟩ : CachedHandle).image).fmt < 12 ∧ descK (z.q.kreg 3) % 16 = 0 ∧ (parseHandle (⟨0, 1, matA, 0⟩ : CachedHandle).image).fmt ≠ 1 ∧ modeAfter z.q 3 = false)) ∧
    (∃ s z, SeqIssues s (.mma ⟨0, 32, 2, 31⟩) z ∧ (((32 : Reg).toNat = 32 + 0 ∧ 0 < 4 ∧ z.m.header.acctiles.getLsbD 0 = true) ∧ ((2 : Reg).toNat < 32 ∧ (2 : Reg).toNat % 2 = 0 ∧ (31 : Reg).toNat < 32) ∧ (z.q.kreg 31).toNat < 65536 ∧ (z.q.kreg 2).toNat < 2 ^ 60 ∧ (z.q.kreg 3).toNat < 2 ^ 60 ∧
      cachedEntry s z.m (descH (z.q.kreg 2)) = some ⟨0, 1, matA, 0⟩ ∧ cachedEntry s z.m (descH (z.q.kreg 3)) = some ⟨0, 2, matB, 0⟩ ∧ (parseHandle (⟨0, 1, matA, 0⟩ : CachedHandle).image).rank = 2 ∧ (parseHandle (⟨0, 2, matB, 0⟩ : CachedHandle).image).rank = 2 ∧ classOn s (cidVd z.m.cid) (parseHandle (⟨0, 1, matA, 0⟩ : CachedHandle).image).fmt (parseHandle (⟨0, 2, matB, 0⟩ : CachedHandle).image).fmt = some 16 ∧ (z.q.kreg 31).toNat = 0 ∧ (parseHandle (⟨0, 1, matA, 0⟩ : CachedHandle).image).fmt < 12 ∧ descK (z.q.kreg 2) % 16 = 0 ∧
      (parseHandle (⟨0, 2, matB, 0⟩ : CachedHandle).image).fmt < 12 ∧ descK (z.q.kreg 3) % 16 = 0 ∧ (parseHandle (⟨0, 1, matA, 0⟩ : CachedHandle).image).fmt ≠ 1 ∧ modeAfter z.q 0 = false)) ∧
    (∃ s z, SeqIssues s (.mmas ⟨0, 32, 2, 31⟩) z ∧ (((32 : Reg).toNat = 32 + 0 ∧ 0 < 4 ∧ z.m.header.acctiles.getLsbD 0 = true) ∧ ((2 : Reg).toNat < 32 ∧ (2 : Reg).toNat % 2 = 0 ∧ (31 : Reg).toNat < 32) ∧ (z.q.kreg 31).toNat < 65536 ∧ (z.q.kreg 2).toNat < 2 ^ 60 ∧ (z.q.kreg 3).toNat < 2 ^ 60 ∧
      cachedEntry s z.m (descH (z.q.kreg 2)) = some ⟨0, 1, matA, 0⟩ ∧ cachedEntry s z.m (descH (z.q.kreg 3)) = some ⟨0, 3, matS, 0⟩ ∧ (parseHandle (⟨0, 1, matA, 0⟩ : CachedHandle).image).rank = 2 ∧ (parseHandle (⟨0, 3, matS, 0⟩ : CachedHandle).image).rank = 2 ∧ (parseHandle (⟨0, 1, matA, 0⟩ : CachedHandle).image).fmt = 3 ∧ (parseHandle (⟨0, 3, matS, 0⟩ : CachedHandle).image).fmt = 18 ∧ (parseHandle (⟨0, 3, matS, 0⟩ : CachedHandle).image).sealed = true ∧ (parseHandle (⟨0, 3, matS, 0⟩ : CachedHandle).image).major = false ∧
      descK (z.q.kreg 2) % 16 = 0 ∧ descK (z.q.kreg 3) % 32 = 0 ∧ modeAfter z.q 0 = false)) ∧
    (∃ s z, SeqIssues s (.mzero ⟨1, 34, 0, 0⟩) z ∧ (((34 : Reg).toNat = 32 + 2 ∧ 2 < 4 ∧ z.m.header.acctiles.getLsbD 2 = true) ∧ 2 % 2 = 0 ∧ z.m.header.acctiles.getLsbD (2 + 1) = true)) ∧
    (∃ s z, SeqIssues s (.mldacc ⟨0, 32, 31, 0⟩) z ∧ (((32 : Reg).toNat = 32 + 0 ∧ 0 < 4 ∧ z.m.header.acctiles.getLsbD 0 = true) ∧ (31 : Reg).toNat < 32 ∧ (z.q.kreg 31).toNat < 2 ^ 60 ∧ cachedEntry s z.m (descH (z.q.kreg 31)) = some ⟨0, 4, matD, 0⟩ ∧ (parseHandle (⟨0, 4, matD, 0⟩ : CachedHandle).image).rank = 2 ∧ (parseHandle (⟨0, 4, matD, 0⟩ : CachedHandle).image).fmt < 2 ∧
      (0 % 2 = 0 ∧ z.m.header.acctiles.getLsbD (0 + 1) = true))) ∧
    (∃ s z, SeqIssues s (.mrowmax ⟨0, 35, 32, 31⟩) z ∧ (((35 : Reg).toNat = 32 + 3 ∧ 3 < 4 ∧ z.m.header.acctiles.getLsbD 3 = true) ∧ ((32 : Reg).toNat = 32 + 0 ∧ 0 < 4 ∧ z.m.header.acctiles.getLsbD 0 = true) ∧ (31 : Reg).toNat < 32 ∧ bitsAt (z.q.kreg 31).toNat 10 22 = 0 ∧ (z.q.kreg 31).toNat < 2 ^ 32 ∧ modeAfter z.q 3 = false ∧ modeAfter z.q 0 = false)) ∧
    (∃ s z, SeqIssues s (.mrowsum ⟨0, 35, 32, 31⟩) z ∧ (((35 : Reg).toNat = 32 + 3 ∧ 3 < 4 ∧ z.m.header.acctiles.getLsbD 3 = true) ∧ ((32 : Reg).toNat = 32 + 0 ∧ 0 < 4 ∧ z.m.header.acctiles.getLsbD 0 = true) ∧ (31 : Reg).toNat < 32 ∧ bitsAt (z.q.kreg 31).toNat 10 22 = 0 ∧ (z.q.kreg 31).toNat < 2 ^ 32 ∧ modeAfter z.q 3 = false ∧ modeAfter z.q 0 = false)) ∧
    (∃ s z, SeqIssues s (.mscale ⟨1, 35, 32, 31⟩) z ∧ (((35 : Reg).toNat = 32 + 3 ∧ 3 < 4 ∧ z.m.header.acctiles.getLsbD 3 = true) ∧ ((32 : Reg).toNat = 32 + 0 ∧ 0 < 4 ∧ z.m.header.acctiles.getLsbD 0 = true) ∧ (31 : Reg).toNat < 32 ∧ bitsAt (z.q.kreg 31).toNat 10 22 = 0 ∧ modeAfter z.q 3 = false ∧ modeAfter z.q 0 = false)) ∧
    (∃ s z, SeqIssues s (.mscale ⟨0, 35, 32, 31⟩) z ∧ (((35 : Reg).toNat = 32 + 3 ∧ 3 < 4 ∧ z.m.header.acctiles.getLsbD 3 = true) ∧ ((32 : Reg).toNat = 32 + 0 ∧ 0 < 4 ∧ z.m.header.acctiles.getLsbD 0 = true) ∧ (31 : Reg).toNat < 32 ∧ bitsAt (z.q.kreg 31).toNat 10 22 = 0 ∧ (z.q.kreg 31).toNat < 2 ^ 32 ∧ modeAfter z.q 3 = false ∧ modeAfter z.q 0 = false ∧ z.m.header.acctiles.getLsbD (bitsAt (z.q.kreg 31).toNat 8 2) = true ∧ modeAfter z.q (bitsAt (z.q.kreg 31).toNat 8 2) = false)) ∧
    (∃ s z, SeqIssues s (.mcopy ⟨0, 35, 32, 0⟩) z ∧ (((35 : Reg).toNat = 32 + 3 ∧ 3 < 4 ∧ z.m.header.acctiles.getLsbD 3 = true) ∧ ((32 : Reg).toNat = 32 + 0 ∧ 0 < 4 ∧ z.m.header.acctiles.getLsbD 0 = true) ∧ modeAfter z.q 3 = false ∧ modeAfter z.q 0 = false)) ∧
    (∃ s z, SeqIssues s (.mfetch ⟨0, 0, 2, 31⟩) z ∧ (((2 : Reg).toNat < 32 ∧ (2 : Reg).toNat % 2 = 0 ∧ (31 : Reg).toNat < 32) ∧ (cachedEntry s z.m (descH (z.q.kreg 2))).isSome ∧ (cachedEntry s z.m (descH (z.q.kreg 3))).isSome)) ∧
    (∃ s z, SeqIssues s (.mepi ⟨1, 0, 30, 31⟩) z ∧ ((30 : Reg).toNat < 32 ∧ (31 : Reg).toNat < 32 ∧ (z.q.kreg 30).toNat < 2 ^ 32 ∧ (f32.unpack (z.q.kreg 30).toNat).special = false ∧ bitsAt (z.q.kreg 31).toNat 36 27 = 0)) :=
  ⟨⟨sequencing 0xC108C11F (fun q => { q with k := [(2, 1), (3, 2), (31, 65535)] }) (withMats), seqWitness (h := fun z => (((35 : Reg).toNat = 32 + 3 ∧ 3 < 4 ∧ z.m.header.acctiles.getLsbD 3 = true) ∧ ((2 : Reg).toNat < 32 ∧ (2 : Reg).toNat % 2 = 0 ∧ (31 : Reg).toNat < 32) ∧ (z.q.kreg 31).toNat < 65536 ∧ (z.q.kreg 2).toNat < 2 ^ 60 ∧ (z.q.kreg 3).toNat < 2 ^ 60 ∧
      cachedEntry (sequencing 0xC108C11F (fun q => { q with k := [(2, 1), (3, 2), (31, 65535)] }) (withMats)) z.m (descH (z.q.kreg 2)) = some ⟨0, 1, matA, 0⟩ ∧ cachedEntry (sequencing 0xC108C11F (fun q => { q with k := [(2, 1), (3, 2), (31, 65535)] }) (withMats)) z.m (descH (z.q.kreg 3)) = some ⟨0, 2, matB, 0⟩ ∧ (parseHandle (⟨0, 1, matA, 0⟩ : CachedHandle).image).rank = 2 ∧ (parseHandle (⟨0, 2, matB, 0⟩ : CachedHandle).image).rank = 2 ∧ classOn (sequencing 0xC108C11F (fun q => { q with k := [(2, 1), (3, 2), (31, 65535)] }) (withMats)) (cidVd z.m.cid) (parseHandle (⟨0, 1, matA, 0⟩ : CachedHandle).image).fmt (parseHandle (⟨0, 2, matB, 0⟩ : CachedHandle).image).fmt = some 16 ∧ (parseHandle (⟨0, 1, matA, 0⟩ : CachedHandle).image).fmt < 12 ∧ descK (z.q.kreg 2) % 16 = 0 ∧
      (parseHandle (⟨0, 2, matB, 0⟩ : CachedHandle).image).fmt < 12 ∧ descK (z.q.kreg 3) % 16 = 0 ∧ (parseHandle (⟨0, 1, matA, 0⟩ : CachedHandle).image).fmt ≠ 1 ∧ modeAfter z.q 3 = false)) (by decide +kernel)⟩,
    ⟨sequencing 0xC108011F (fun q => { q with k := [(2, 1), (3, 2)] }) (withMats), seqWitness (h := fun z => (((32 : Reg).toNat = 32 + 0 ∧ 0 < 4 ∧ z.m.header.acctiles.getLsbD 0 = true) ∧ ((2 : Reg).toNat < 32 ∧ (2 : Reg).toNat % 2 = 0 ∧ (31 : Reg).toNat < 32) ∧ (z.q.kreg 31).toNat < 65536 ∧ (z.q.kreg 2).toNat < 2 ^ 60 ∧ (z.q.kreg 3).toNat < 2 ^ 60 ∧
      cachedEntry (sequencing 0xC108011F (fun q => { q with k := [(2, 1), (3, 2)] }) (withMats)) z.m (descH (z.q.kreg 2)) = some ⟨0, 1, matA, 0⟩ ∧ cachedEntry (sequencing 0xC108011F (fun q => { q with k := [(2, 1), (3, 2)] }) (withMats)) z.m (descH (z.q.kreg 3)) = some ⟨0, 2, matB, 0⟩ ∧ (parseHandle (⟨0, 1, matA, 0⟩ : CachedHandle).image).rank = 2 ∧ (parseHandle (⟨0, 2, matB, 0⟩ : CachedHandle).image).rank = 2 ∧ classOn (sequencing 0xC108011F (fun q => { q with k := [(2, 1), (3, 2)] }) (withMats)) (cidVd z.m.cid) (parseHandle (⟨0, 1, matA, 0⟩ : CachedHandle).image).fmt (parseHandle (⟨0, 2, matB, 0⟩ : CachedHandle).image).fmt = some 16 ∧ (z.q.kreg 31).toNat = 0 ∧ (parseHandle (⟨0, 1, matA, 0⟩ : CachedHandle).image).fmt < 12 ∧ descK (z.q.kreg 2) % 16 = 0 ∧
      (parseHandle (⟨0, 2, matB, 0⟩ : CachedHandle).image).fmt < 12 ∧ descK (z.q.kreg 3) % 16 = 0 ∧ (parseHandle (⟨0, 1, matA, 0⟩ : CachedHandle).image).fmt ≠ 1 ∧ modeAfter z.q 0 = false)) (by decide +kernel)⟩,
    ⟨sequencing 0xC208011F (fun q => { q with k := [(2, 1), (3, 3), (31, 1)] }) (withMats), seqWitness (h := fun z => (((32 : Reg).toNat = 32 + 0 ∧ 0 < 4 ∧ z.m.header.acctiles.getLsbD 0 = true) ∧ ((2 : Reg).toNat < 32 ∧ (2 : Reg).toNat % 2 = 0 ∧ (31 : Reg).toNat < 32) ∧ (z.q.kreg 31).toNat < 65536 ∧ (z.q.kreg 2).toNat < 2 ^ 60 ∧ (z.q.kreg 3).toNat < 2 ^ 60 ∧
      cachedEntry (sequencing 0xC208011F (fun q => { q with k := [(2, 1), (3, 3), (31, 1)] }) (withMats)) z.m (descH (z.q.kreg 2)) = some ⟨0, 1, matA, 0⟩ ∧ cachedEntry (sequencing 0xC208011F (fun q => { q with k := [(2, 1), (3, 3), (31, 1)] }) (withMats)) z.m (descH (z.q.kreg 3)) = some ⟨0, 3, matS, 0⟩ ∧ (parseHandle (⟨0, 1, matA, 0⟩ : CachedHandle).image).rank = 2 ∧ (parseHandle (⟨0, 3, matS, 0⟩ : CachedHandle).image).rank = 2 ∧ (parseHandle (⟨0, 1, matA, 0⟩ : CachedHandle).image).fmt = 3 ∧ (parseHandle (⟨0, 3, matS, 0⟩ : CachedHandle).image).fmt = 18 ∧ (parseHandle (⟨0, 3, matS, 0⟩ : CachedHandle).image).sealed = true ∧ (parseHandle (⟨0, 3, matS, 0⟩ : CachedHandle).image).major = false ∧
      descK (z.q.kreg 2) % 16 = 0 ∧ descK (z.q.kreg 3) % 32 = 0 ∧ modeAfter z.q 0 = false)) (by decide +kernel)⟩,
    ⟨sequencing 0xC0288000, seqWitness (h := fun z => (((34 : Reg).toNat = 32 + 2 ∧ 2 < 4 ∧ z.m.header.acctiles.getLsbD 2 = true) ∧ 2 % 2 = 0 ∧ z.m.header.acctiles.getLsbD (2 + 1) = true)) (by decide +kernel)⟩,
    ⟨sequencing 0xC5080F80 (fun q => { q with k := [(31, 4)] }) (withMats), seqWitness (h := fun z => (((32 : Reg).toNat = 32 + 0 ∧ 0 < 4 ∧ z.m.header.acctiles.getLsbD 0 = true) ∧ (31 : Reg).toNat < 32 ∧ (z.q.kreg 31).toNat < 2 ^ 60 ∧ cachedEntry (sequencing 0xC5080F80 (fun q => { q with k := [(31, 4)] }) (withMats)) z.m (descH (z.q.kreg 31)) = some ⟨0, 4, matD, 0⟩ ∧ (parseHandle (⟨0, 4, matD, 0⟩ : CachedHandle).image).rank = 2 ∧ (parseHandle (⟨0, 4, matD, 0⟩ : CachedHandle).image).fmt < 2 ∧
      (0 % 2 = 0 ∧ z.m.header.acctiles.getLsbD (0 + 1) = true))) (by decide +kernel)⟩,
    ⟨sequencing 0xD008D01F (fun q => { q with k := [(31, 255)] }), seqWitness (h := fun z => (((35 : Reg).toNat = 32 + 3 ∧ 3 < 4 ∧ z.m.header.acctiles.getLsbD 3 = true) ∧ ((32 : Reg).toNat = 32 + 0 ∧ 0 < 4 ∧ z.m.header.acctiles.getLsbD 0 = true) ∧ (31 : Reg).toNat < 32 ∧ bitsAt (z.q.kreg 31).toNat 10 22 = 0 ∧ (z.q.kreg 31).toNat < 2 ^ 32 ∧ modeAfter z.q 3 = false ∧ modeAfter z.q 0 = false)) (by decide +kernel)⟩,
    ⟨sequencing 0xD108D01F (fun q => { q with k := [(31, 255)] }), seqWitness (h := fun z => (((35 : Reg).toNat = 32 + 3 ∧ 3 < 4 ∧ z.m.header.acctiles.getLsbD 3 = true) ∧ ((32 : Reg).toNat = 32 + 0 ∧ 0 < 4 ∧ z.m.header.acctiles.getLsbD 0 = true) ∧ (31 : Reg).toNat < 32 ∧ bitsAt (z.q.kreg 31).toNat 10 22 = 0 ∧ (z.q.kreg 31).toNat < 2 ^ 32 ∧ modeAfter z.q 3 = false ∧ modeAfter z.q 0 = false)) (by decide +kernel)⟩,
    ⟨sequencing 0xD228D01F (fun q => { q with k := [(31, 0x3F800000000000FF)] }), seqWitness (h := fun z => (((35 : Reg).toNat = 32 + 3 ∧ 3 < 4 ∧ z.m.header.acctiles.getLsbD 3 = true) ∧ ((32 : Reg).toNat = 32 + 0 ∧ 0 < 4 ∧ z.m.header.acctiles.getLsbD 0 = true) ∧ (31 : Reg).toNat < 32 ∧ bitsAt (z.q.kreg 31).toNat 10 22 = 0 ∧ modeAfter z.q 3 = false ∧ modeAfter z.q 0 = false)) (by decide +kernel)⟩,
    ⟨sequencing 0xD208D01F (fun q => { q with k := [(31, 1023)] }), seqWitness (h := fun z => (((35 : Reg).toNat = 32 + 3 ∧ 3 < 4 ∧ z.m.header.acctiles.getLsbD 3 = true) ∧ ((32 : Reg).toNat = 32 + 0 ∧ 0 < 4 ∧ z.m.header.acctiles.getLsbD 0 = true) ∧ (31 : Reg).toNat < 32 ∧ bitsAt (z.q.kreg 31).toNat 10 22 = 0 ∧ (z.q.kreg 31).toNat < 2 ^ 32 ∧ modeAfter z.q 3 = false ∧ modeAfter z.q 0 = false ∧ z.m.header.acctiles.getLsbD (bitsAt (z.q.kreg 31).toNat 8 2) = true ∧ modeAfter z.q (bitsAt (z.q.kreg 31).toNat 8 2) = false)) (by decide +kernel)⟩,
    ⟨sequencing 0xD308D000, seqWitness (h := fun z => (((35 : Reg).toNat = 32 + 3 ∧ 3 < 4 ∧ z.m.header.acctiles.getLsbD 3 = true) ∧ ((32 : Reg).toNat = 32 + 0 ∧ 0 < 4 ∧ z.m.header.acctiles.getLsbD 0 = true) ∧ modeAfter z.q 3 = false ∧ modeAfter z.q 0 = false)) (by decide +kernel)⟩,
    ⟨sequencing 0xCF00011F (fun q => { q with k := [(2, 1), (3, 2)] }) (withMats), seqWitness (h := fun z => (((2 : Reg).toNat < 32 ∧ (2 : Reg).toNat % 2 = 0 ∧ (31 : Reg).toNat < 32) ∧ (cachedEntry (sequencing 0xCF00011F (fun q => { q with k := [(2, 1), (3, 2)] }) (withMats)) z.m (descH (z.q.kreg 2))).isSome ∧ (cachedEntry (sequencing 0xCF00011F (fun q => { q with k := [(2, 1), (3, 2)] }) (withMats)) z.m (descH (z.q.kreg 3))).isSome)) (by decide +kernel)⟩,
    ⟨sequencing 0xC4200F1F (fun q => { q with k := [(30, 0x3F800000), (31, 0x8000000000000002)] }), seqWitness (h := fun z => ((30 : Reg).toNat < 32 ∧ (31 : Reg).toNat < 32 ∧ (z.q.kreg 30).toNat < 2 ^ 32 ∧ (f32.unpack (z.q.kreg 30).toNat).special = false ∧ bitsAt (z.q.kreg 31).toNat 36 27 = 0)) (by decide +kernel)⟩⟩

theorem witness_MatrixWork_store :
    (∃ s z, SeqIssues s (.mstore ⟨1, 32, 31, 0⟩) z ∧ (((32 : Reg).toNat = 32 + 0 ∧ 0 < 4 ∧ z.m.header.acctiles.getLsbD 0 = true) ∧ (31 : Reg).toNat < 32 ∧ (z.q.kreg 31).toNat < 2 ^ 60 ∧ cachedEntry s z.m (descH (z.q.kreg 31)) = some ⟨0, 1, matA, 0⟩ ∧ (parseHandle (⟨0, 1, matA, 0⟩ : CachedHandle).image).rank = 2 ∧ (parseHandle (⟨0, 1, matA, 0⟩ : CachedHandle).image).fmt < 18 ∧ isBlock (parseHandle (⟨0, 1, matA, 0⟩ : CachedHandle).image).fmt = false ∧
      modeAfter z.q 0 = false ∧ (parseHandle (⟨0, 1, matA, 0⟩ : CachedHandle).image).sealed = false ∧ tileBusy z.q 0 = false ∧ tileBusy z.q 1 = false ∧ inFlight z.m 3 < 32 ∧ nothingFaults z = true ∧ (parseHandle (⟨0, 1, matA, 0⟩ : CachedHandle).image).bound ≠ 3 ∧ z.q.biasOn = false)) :=
  ⟨sequencing 0xC3280F80 (fun q => { q with k := [(31, 1)] }) (withMats), seqWitness (h := fun z => (((32 : Reg).toNat = 32 + 0 ∧ 0 < 4 ∧ z.m.header.acctiles.getLsbD 0 = true) ∧ (31 : Reg).toNat < 32 ∧ (z.q.kreg 31).toNat < 2 ^ 60 ∧ cachedEntry (sequencing 0xC3280F80 (fun q => { q with k := [(31, 1)] }) (withMats)) z.m (descH (z.q.kreg 31)) = some ⟨0, 1, matA, 0⟩ ∧ (parseHandle (⟨0, 1, matA, 0⟩ : CachedHandle).image).rank = 2 ∧ (parseHandle (⟨0, 1, matA, 0⟩ : CachedHandle).image).fmt < 18 ∧ isBlock (parseHandle (⟨0, 1, matA, 0⟩ : CachedHandle).image).fmt = false ∧
      modeAfter z.q 0 = false ∧ (parseHandle (⟨0, 1, matA, 0⟩ : CachedHandle).image).sealed = false ∧ tileBusy z.q 0 = false ∧ tileBusy z.q 1 = false ∧ inFlight z.m 3 < 32 ∧ nothingFaults z = true ∧ (parseHandle (⟨0, 1, matA, 0⟩ : CachedHandle).image).bound ≠ 3 ∧ z.q.biasOn = false)) (by decide +kernel)⟩

/-- The sequencer's state with queued work, its page and matrix entries at hand. -/
def working (o : List EngineOp) : State :=
  (withMats ∘ withPage 0x300000 ∘ withPage 0x301000 ∘ withPage 0x302000) (updSeq (State.reset.withFetchWord 32 0xC0000000) 0 fun q => { q with work := o })

theorem witness_MatrixWork_queue :
    (∀ o ∈ [EngineOp.mzero 2 true, .copy 3 0], ∃ q, ((motifOf (working [o]) 0).bind (·.seq)) = some q ∧ q.opWaits = [] ∧ q.tiles.length = 4 ∧ q.fault = none ∧
      q.work = [o] ∧ (ctxOf (working [o]) 0).stopped = false) :=
  fun o h => by
    rcases List.mem_cons.1 h with rfl | h
    · exact ⟨((motifOf (working [.mzero 2 true]) 0).bind (·.seq)).get (by decide +kernel), by decide +kernel, by decide +kernel,
        by decide +kernel, by decide +kernel, by decide +kernel⟩
    · obtain rfl := List.mem_singleton.1 h
      exact ⟨((motifOf (working [.copy 3 0]) 0).bind (·.seq)).get (by decide +kernel), by decide +kernel, by decide +kernel,
        by decide +kernel, by decide +kernel, by decide +kernel⟩

/-- A copy of 16 bytes from 0x300000 to 0x300080 in flight, whose strand waits for its status. -/
def copyCmd : Command :=
  { blankCommand 0 1 .xcopy 0 with
    quad := [0x2001, 0, 128, 16], handles := [(1, vecEntry), (2, vecEntry)], chunks := 1, limit := 1, status := some 10 }

/-- The state with commands in flight on the first counter. -/
def commanding (l : List Command) : State :=
  loaded 32 0x49000000 (fun t => { t with pending := [{ reg := 10, tl := 0, number := 1, cancel := [] }] }) fun s =>
    withPage 0x300000 (updMotif s 0 fun m => { m with timelines := m.timelines.set 0 ⟨1, 0⟩, commands := l })

/-- The loaded motif as a state holds it. -/
def itsMotif (s : State) : Motif := (motifOf s 0).getD (loadedMotif 0 false)

/-- What the state holds of the motif. -/
theorem itsMotif_some {s : State} (h : (motifOf s 0).isSome = true) : motifOf s 0 = some (itsMotif s) := by
  obtain ⟨m, hm⟩ := Option.isSome_iff_exists.1 h
  rw [itsMotif, hm]
  rfl

/-- Whether a read of pieces has all of them. -/
def gotAll : Got → Bool
  | .ok _ _ => true
  | _ => false

/-- The state that a read of pieces leaves. -/
def gotState : Got → State
  | .ok s _ => s
  | _ => State.reset

/-- The bytes that a read of pieces has. -/
def gotData : Got → List (List Byte)
  | .ok _ d => d
  | _ => []

theorem got_eq {g : Got} (h : gotAll g = true) : g = .ok (gotState g) (gotData g) := by
  cases g <;> first | rfl | cases h

/-- What the copy's chunk reads. -/
def copyGot : Got :=
  gather (commanding [copyCmd]) (itsMotif (commanding [copyCmd])) (cmdAsker (itsMotif (commanding [copyCmd])) 0 1) false
    ((cmdUnits copyCmd).flatMap (·.src))

theorem witness_CommandsRunAndComplete_chunk :
    let s := commanding [copyCmd]
    let m := itsMotif s
    let c := copyCmd
    motifOf s 0 = some m ∧ commandOf m 0 1 = some c ∧ m.drained = false ∧ c.op ≠ .mstore ∧ c.index.isSome ∧ 0 ∉ c.done ∧
      0 < min c.chunks c.limit ∧
    let lines := ((unitLines (cmdUnits c)).drop (8 * 0)).take 8
    let us := (cmdUnits c).filter fun u => u.dst.any fun p => (linesOf [p]).any lines.contains
    us.any (pieceSkewed c) = false ∧ us = cmdUnits c ∧ ∃ s1 data, copyGot = .ok s1 data ∧
      let outs := (us.foldl (fun (a : List UnitOut × List (List Byte)) u =>
        (a.1 ++ [cmdOut c (a.2.take u.src.length)], a.2.drop u.src.length)) ([], data)).1
      outs.any (·.fail) = false ∧
      let go := (((us.zip outs).flatMap fun e => (e.1.dst.zip e.2.bytes).flatMap fun d =>
        (cutPiece d.1).map fun x => (x.1, (d.2.drop ((x.1 + 2 ^ 64 - d.1.1) % 2 ^ 64)).take x.2))).filter
          fun p => lines.contains (p.1 / 128)
      go.length = 1 ∧ ∀ p ∈ go, (match agentTarget s1 m p.1 p.2.length .write with
        | .scratch _ => true
        | .phys a e => !formatting s1 (.phys a e)
        | _ => false) = true := by
  refine ⟨itsMotif_some (by decide), by decide, by decide, by decide, by decide, by decide, by decide, by decide +kernel,
    by decide +kernel, ?_⟩
  have h : gotAll copyGot = true := by decide +kernel
  exact ⟨gotState copyGot, gotData copyGot, got_eq h, by decide +kernel, by decide +kernel, by decide +kernel⟩

/-- The copy with its chunk performed. -/
def copiedCmd : Command := { copyCmd with done := [0] }

theorem witness_CommandsRunAndComplete_complete :
    let s := commanding [copiedCmd]
    let m := itsMotif s
    let c := copiedCmd
    motifOf s 0 = some m ∧ commandOf m 0 1 = some c ∧ canComplete s m c = true ∧ c.sticky = 0 ∧ c.object = none ∧
      0 < m.timelines.length ∧ 1 = (timelineOf m 0).done + 1 ∧ c.code ≠ 4 ∧ c.code ≠ 5 ∧
      (∀ x ∈ m.commands, x.complete = true → x.tl ≠ 0) ∧ c.status = some 10 ∧ ∃ t, strandOf m t.index = some t ∧
      c.strand = t.index ∧ t.over = false ∧ t.pending = [{ reg := 10, tl := 0, number := 1, cancel := [] }] :=
  ⟨itsMotif_some (by decide), by decide, by decide, by decide, by decide, by decide, by decide, by decide, by decide, by decide,
    by decide, (strandOf (itsMotif (commanding [copiedCmd])) 0).get (by decide), by decide, by decide, by decide, by decide⟩

/-- The entries of two tensors of two rows of 16 .f16 elements. -/
def smallA : List Byte := entryOf 3 2 0 0x300000 [16, 2] [2, 32] 0 0
def smallB : List Byte := entryOf 3 2 0 0x301000 [16, 2] [2, 32] 0 0

/-- What the K-step at the head of the queued work reads. -/
def stepGot : Got :=
  let s := working [.mma 3 1 2 2 0 smallA smallB false 0x100]
  gather s (itsMotif s) (seqAsker (itsMotif s) 0x100) true
    (matPieces (parseHandle smallA) 0 16 0 128 ++ matPieces (parseHandle smallB) 0 16 0 256)

theorem witness_MatrixWork_step :
    let s := working [.mma 3 1 2 2 0 smallA smallB false 0x100]
    let a := parseHandle smallA
    let b := parseHandle smallB
    motifOf s 0 = some (itsMotif s) ∧ (classK a.fmt b.fmt).getD 1 = 16 ∧ a.fmt ≠ 1 ∧ b.major = false ∧
      descK 1 = 0 ∧ descO 1 = 0 ∧ descK 2 = 0 ∧ descO 2 = 0 ∧
      skewedPiece a (matPieces a 0 16 0 128) = none ∧ skewedPiece b (matPieces b 0 16 0 256) = none ∧
      ∃ s1 data, stepGot = .ok s1 data :=
  ⟨itsMotif_some (by decide +kernel), by decide +kernel, by decide +kernel, by decide +kernel, by decide +kernel, by decide +kernel,
    by decide +kernel, by decide +kernel, by decide +kernel, by decide +kernel,
    gotState stepGot, gotData stepGot, got_eq (by decide +kernel)⟩

/-! ### A device with one context -/

/-- A context's descriptor: its tables at 0x400000, the cut right, one save slot at 0x800000 (R208, R367). -/
def descBytes : List Byte :=
  leBytes 8 0x400000 ++ leBytes 16 0 ++ leBytes 2 1 ++ leBytes 6 0 ++ leBytes 8 0x300000 ++ leBytes 2 16 ++ leBytes 2 2 ++ leBytes 8 0 ++
  leBytes 4 1 ++ leBytes 8 0x800000

/-- A kernel header of one strand of 32 lanes' registers that needs feature 0 (R149). -/
def headerBytes : List Byte :=
  leBytes 4 0x454E4C4B ++ leBytes 2 1 ++ leBytes 2 256 ++ leBytes 32 1 ++ leBytes 2 32 ++ leBytes 1 1 ++ leBytes 1 0 ++ leBytes 2 1 ++
  leBytes 1 1 ++ leBytes 1 0 ++ leBytes 208 0

/-- A launch record of one kernel at 0x311000, for one motif (R184). -/
def recordBytes : List Byte :=
  leBytes 1 1 ++ leBytes 1 2 ++ leBytes 22 0 ++ leBytes 8 0x311000 ++ leBytes 8 0 ++ leBytes 4 1 ++ leBytes 20 0

/-- A cut block for a job of n chips with one link, its images of 256 MiB in device memory (R431). -/
def cutBytes (coord n : Nat) : List Byte :=
  leBytes 6 1 ++ leBytes 2 coord ++ leBytes 2 n ++ leBytes 6 0 ++ leBytes 8 0x10000000 ++ leBytes 8 0x20000000 ++ leBytes 8 0x10000000 ++
  leBytes 24 0

/-- Device memory with the context's descriptor, its tables, which map 0x200000 to 0x3FFFFF in place, a cut block, a record
and a kernel header. -/
def hostedMem (coord n : Nat) : Memory :=
  writeBytes (writeBytes (writeBytes (writeBytes (writeBytes (writeBytes (writeBytes (writeBytes State.reset.mem 0x500000 descBytes)
    0x400000 (leBytes 8 0x401003)) 0x401000 (leBytes 8 0x402003)) 0x402000 (leBytes 8 0x403003)) 0x403008 (leBytes 8 0x20005D))
    0x510000 (cutBytes coord n)) 0x310000 recordBytes) 0x311000 headerBytes

/-- Device 0 with that context. -/
def withContext (coord n : Nat) (s : State) : State :=
  updVdev { s with mem := hostedMem coord n } 0 fun v =>
    { v with enabled := true, ctxbase := 0x500000, ctxcount := 1, cutbase := 0x510000, accepted := 0x1FFF, route := [(0, 0x803F), (1, 0x8000)] }

/-- The translation of 0x200000 to 0x3FFFFF as the front end has it. -/
def hostedPage : TlbEntry := { loadedPage with size := 2 ^ 21 }

/-- A package with that device and its ring 0, one record written and not yet fetched. -/
def hosted : State :=
  updRing (updCluster { withContext 0 1 State.reset with hoop := [0] } 0 frontCluster fun c => { c with tlb := [hostedPage] }) 0 fun r =>
    { r with owner := some 0, base := 0x310000, logsize := 4, enable := true, tail := 1 }

/-- What one event leaves. -/
def eventLeaves (i : Instr) (s : State) : State :=
  match exec i s with
  | .next t => t
  | _ => s

/-- Whether a computation succeeds. -/
def succeeds {e a : Type} : Except e a → Bool
  | .ok _ => true
  | .error _ => false

theorem ok_of {e a : Type} {x : Except e a} (h : succeeds x = true) : ∃ y, x = .ok y := by
  cases x with
  | error _ => cases h
  | ok y => exact ⟨y, rfl⟩

/-! ### Cuts of one strand -/

/-- A cut as its record leaves it. -/
def blankCut (n : Nat) (live : Bool) : Cut :=
  { cutid := n, desc := none, state := if live then 2 else 4, cause := 0, markers := [0], doneFrom := [], doneSent := false, bytes := 0, live := live
    freed := false, visited := [], units := [], preserved := [], streamed := [], motifs := [], saved := [], records := [], rings := [], requests := []
    logs := [], headerWritten := false, coord := 0, nchips := 1, links := 1, sticky := [] }

/-- The job of the context, whose last cut is number 1. -/
def withCut (live : Bool) (s : State) : State :=
  { s with jobs := [{ cid := 0, epoch := 1, latest := 1, colours := [none, some (blankCut 1 live)], asked := [] }] }

/-- The loaded context's right to cuts and its cut block. -/
def withBlock (coord n : Nat) (s : State) : State :=
  updVdev { updMotif s 0 (fun m => { m with desc := { m.desc with cutRight := true } }) with mem := writeBytes s.mem 0x510000 (cutBytes coord n) } 0
    fun v => { v with cutbase := 0x510000, route := [(0, 0x803F), (1, 0x8000)] }

theorem witness_Snapshots :
    (∃ s q, Issues s (.snap none ⟨0, 102, 0, 0⟩) q ∧ (q.m.desc.cutRight = false ∧ keepsLanes q 102 [0xFFFFFFFF])) ∧
    (∃ s q, Issues s (.snap none ⟨0, 102, 0, 0⟩) q ∧ (q.m.desc.cutRight = true ∧ cutBlockOf s q.m.cid = some ⟨1, 0, 1, 0, [0x10000000, 0x20000000], 0x10000000⟩ ∧ 0 = ownChip s (cidVd q.m.cid) ∧ colourReady s q.m.cid (nextCut (jobOf s q.m.cid).latest) = true ∧ (jobOf s q.m.cid).colours.length = 2 ∧ keepsLanes q 102 [BitVec.ofNat 32 (nextCut (jobOf s q.m.cid).latest)])) ∧
    (∃ s q, Issues s (.snap none ⟨0, 102, 0, 0⟩) q ∧ (q.m.desc.cutRight = true ∧ cutBlockOf s q.m.cid = some ⟨1, 0, 1, 0, [0x10000000, 0x20000000], 0x10000000⟩ ∧ 0 = ownChip s (cidVd q.m.cid) ∧ colourReady s q.m.cid (nextCut (jobOf s q.m.cid).latest) = false ∧ keepsLanes q 102 [0])) ∧
    (∃ s q, Issues s (.snap none ⟨0, 102, 0, 0⟩) q ∧ (q.m.desc.cutRight = true ∧ cutBlockOf s q.m.cid = some ⟨1, 1, 2, 0, [0x10000000, 0x20000000], 0x10000000⟩ ∧ 1 ≠ ownChip s (cidVd q.m.cid) ∧ requestBy s q.asker (scalarNo 102) 9 = none)) ∧
    (∃ s q, Issues s (.snapwait none ⟨0, 102, 97, 0⟩) q ∧ (cutOf s q.m.cid (q.read 97 1 0) = none ∧ keepsLanes q 102 [7])) ∧
    (∃ s q, Issues s (.snapwait none ⟨0, 102, 97, 0⟩) q ∧ (cutOf s q.m.cid (q.read 97 1 0) = some (blankCut 1 false) ∧ (blankCut 1 false).live = false ∧ keepsLanes q 102 [4])) ∧
    (∃ s q, Issues s (.snapwait none ⟨0, 102, 97, 0⟩) q ∧ (cutOf s q.m.cid (q.read 97 1 0) = some (blankCut 1 true) ∧ (blankCut 1 true).live = true)) ∧
    (∃ s q, Issues s (.snapstat none ⟨0, 102, 97, 0⟩) q ∧ (cutOf s q.m.cid (q.read 97 1 0) = none ∧ keepsLanes q 102 (wordsOf 1 7))) ∧
    (∃ s q, Issues s (.snapstat none ⟨3, 102, 97, 0⟩) q ∧ (cutOf s q.m.cid (q.read 97 1 0) = none ∧ keepsLanes q 102 (wordsOf 2 0))) ∧
    (∃ s q, Issues s (.snapstat none ⟨0, 102, 97, 0⟩) q ∧ (cutOf s q.m.cid (q.read 97 1 0) = some (blankCut 1 true) ∧ keepsLanes q 102 (wordsOf 1 2))) ∧
    (∃ s q, Issues s (.snapstat none ⟨1, 102, 97, 0⟩) q ∧ (cutOf s q.m.cid (q.read 97 1 0) = some (blankCut 1 true) ∧ keepsLanes q 102 (wordsOf 1 (1 + 2 ^ 16 * 8)))) ∧
    (∃ s q, Issues s (.snapstat none ⟨2, 102, 97, 0⟩) q ∧ (cutOf s q.m.cid (q.read 97 1 0) = some (blankCut 1 true) ∧ keepsLanes q 102 (wordsOf 1 0))) ∧
    (∃ s q, Issues s (.snapstat none ⟨3, 102, 97, 0⟩) q ∧ (cutOf s q.m.cid (q.read 97 1 0) = some (blankCut 1 true) ∧ keepsLanes q 102 (wordsOf 2 0))) :=
  ⟨⟨issuing 32 0xAD198000, witness (h := fun q => (q.m.desc.cutRight = false ∧ ((q.t.setScalars q.x.members (scalarNo 102) [0xFFFFFFFF]).isSome = true))) (by decide +kernel)⟩,
    ⟨issuing 32 0xAD198000 id (withBlock 0 1), witness (h := fun q => (q.m.desc.cutRight = true ∧ cutBlockOf (issuing 32 0xAD198000 id (withBlock 0 1)) q.m.cid = some ⟨1, 0, 1, 0, [0x10000000, 0x20000000], 0x10000000⟩ ∧ 0 = ownChip (issuing 32 0xAD198000 id (withBlock 0 1)) (cidVd q.m.cid) ∧ colourReady (issuing 32 0xAD198000 id (withBlock 0 1)) q.m.cid (nextCut (jobOf (issuing 32 0xAD198000 id (withBlock 0 1)) q.m.cid).latest) = true ∧ (jobOf (issuing 32 0xAD198000 id (withBlock 0 1)) q.m.cid).colours.length = 2 ∧ ((q.t.setScalars q.x.members (scalarNo 102) [BitVec.ofNat 32 (nextCut (jobOf (issuing 32 0xAD198000 id (withBlock 0 1)) q.m.cid).latest)]).isSome = true))) (by decide +kernel)⟩,
    ⟨issuing 32 0xAD198000 id (fun s => withBlock 0 1 { s with jobs := [{ cid := 0, epoch := 1, latest := 1, colours := [some (blankCut 2 true), some (blankCut 1 true)], asked := [] }] }), witness (h := fun q => (q.m.desc.cutRight = true ∧ cutBlockOf (issuing 32 0xAD198000 id (fun s => withBlock 0 1 { s with jobs := [{ cid := 0, epoch := 1, latest := 1, colours := [some (blankCut 2 true), some (blankCut 1 true)], asked := [] }] })) q.m.cid = some ⟨1, 0, 1, 0, [0x10000000, 0x20000000], 0x10000000⟩ ∧ 0 = ownChip (issuing 32 0xAD198000 id (fun s => withBlock 0 1 { s with jobs := [{ cid := 0, epoch := 1, latest := 1, colours := [some (blankCut 2 true), some (blankCut 1 true)], asked := [] }] })) (cidVd q.m.cid) ∧ colourReady (issuing 32 0xAD198000 id (fun s => withBlock 0 1 { s with jobs := [{ cid := 0, epoch := 1, latest := 1, colours := [some (blankCut 2 true), some (blankCut 1 true)], asked := [] }] })) q.m.cid (nextCut (jobOf (issuing 32 0xAD198000 id (fun s => withBlock 0 1 { s with jobs := [{ cid := 0, epoch := 1, latest := 1, colours := [some (blankCut 2 true), some (blankCut 1 true)], asked := [] }] })) q.m.cid).latest) = false ∧ ((q.t.setScalars q.x.members (scalarNo 102) [0]).isSome = true))) (by decide +kernel)⟩,
    ⟨issuing 32 0xAD198000 id (withBlock 1 2), witness (by decide +kernel)⟩,
    ⟨issuing 32 0xAE19B080 (regs [(1, 1)]), witness (h := fun q => (cutOf (issuing 32 0xAE19B080 (regs [(1, 1)])) q.m.cid (q.read 97 1 0) = none ∧ ((q.t.setScalars q.x.members (scalarNo 102) [7]).isSome = true))) (by decide +kernel)⟩,
    ⟨issuing 32 0xAE19B080 (regs [(1, 1)]) (withCut false), witness (h := fun q => (cutOf (issuing 32 0xAE19B080 (regs [(1, 1)]) (withCut false)) q.m.cid (q.read 97 1 0) = some (blankCut 1 false) ∧ (blankCut 1 false).live = false ∧ ((q.t.setScalars q.x.members (scalarNo 102) [4]).isSome = true))) (by decide +kernel)⟩,
    ⟨issuing 32 0xAE19B080 (regs [(1, 1)]) (withCut true), witness (by decide +kernel)⟩,
    ⟨issuing 32 0xAF19B080 (regs [(1, 1)]), witness (h := fun q => (cutOf (issuing 32 0xAF19B080 (regs [(1, 1)])) q.m.cid (q.read 97 1 0) = none ∧ ((q.t.setScalars q.x.members (scalarNo 102) (wordsOf 1 7)).isSome = true))) (by decide +kernel)⟩,
    ⟨issuing 32 0xAF79B080 (regs [(1, 1)]), witness (h := fun q => (cutOf (issuing 32 0xAF79B080 (regs [(1, 1)])) q.m.cid (q.read 97 1 0) = none ∧ ((q.t.setScalars q.x.members (scalarNo 102) (wordsOf 2 0)).isSome = true))) (by decide +kernel)⟩,
    ⟨issuing 32 0xAF19B080 (regs [(1, 1)]) (withCut true), witness (h := fun q => (cutOf (issuing 32 0xAF19B080 (regs [(1, 1)]) (withCut true)) q.m.cid (q.read 97 1 0) = some (blankCut 1 true) ∧ ((q.t.setScalars q.x.members (scalarNo 102) (wordsOf 1 2)).isSome = true))) (by decide +kernel)⟩,
    ⟨issuing 32 0xAF39B080 (regs [(1, 1)]) (withCut true), witness (h := fun q => (cutOf (issuing 32 0xAF39B080 (regs [(1, 1)]) (withCut true)) q.m.cid (q.read 97 1 0) = some (blankCut 1 true) ∧ ((q.t.setScalars q.x.members (scalarNo 102) (wordsOf 1 (1 + 2 ^ 16 * 8))).isSome = true))) (by decide +kernel)⟩,
    ⟨issuing 32 0xAF59B080 (regs [(1, 1)]) (withCut true), witness (h := fun q => (cutOf (issuing 32 0xAF59B080 (regs [(1, 1)]) (withCut true)) q.m.cid (q.read 97 1 0) = some (blankCut 1 true) ∧ ((q.t.setScalars q.x.members (scalarNo 102) (wordsOf 1 0)).isSome = true))) (by decide +kernel)⟩,
    ⟨issuing 32 0xAF79B080 (regs [(1, 1)]) (withCut true), witness (h := fun q => (cutOf (issuing 32 0xAF79B080 (regs [(1, 1)]) (withCut true)) q.m.cid (q.read 97 1 0) = some (blankCut 1 true) ∧ ((q.t.setScalars q.x.members (scalarNo 102) (wordsOf 2 0)).isSome = true))) (by decide +kernel)⟩⟩

/-! ### Events -/

/-- The context's descriptor. -/
def hostedDesc : Desc := (descOfCtx hosted 0).getD loadedDesc

/-- The package as the walk of an address leaves it once the reads of its tables have found their errors. -/
def walkedAt (va : Nat) : State := discoverWalk hosted 0 0 hostedDesc false va

theorem witness_WalksAndWaitingStores_walk :
    descOfCtx hosted 0 = some hostedDesc ∧ inSaveRegion hostedDesc 0x3FFFFF = false ∧ inSaveRegion hostedDesc 0x7FFFFF = false ∧
    (∃ e, walk (walkedAt 0x3FFFFF) (some 0) 0 hostedDesc false 0x3FFFFF = .ok e ∧ denied e .read = none) ∧
    ∃ f, walk (walkedAt 0x7FFFFF) (some 0) 0 hostedDesc false 0x7FFFFF = .error f ∧ f.replayable = true := by
  obtain ⟨e, hw⟩ := ok_of (x := walk (walkedAt 0x3FFFFF) (some 0) 0 hostedDesc false 0x3FFFFF) (by decide +kernel)
  exact ⟨by decide +kernel, by decide +kernel, by decide +kernel, ⟨e, hw, rfl⟩,
    { stage2 := false, kind := 1, page := 0x7FF000 }, by decide +kernel, by decide⟩

/-- A store that waits for its point of performance. -/
def waitingStore (a : Nat) : PendStore :=
  { uid := 0, strand := 0, lanes := 1, shared := false, move := none, target := ⟨.device, a⟩, va := a, bytes := [1, 2, 3, 4], comp := false, snap := false, host := none
    uo := false, issued := 0, epoch := 0, cid := 0 }

/-- The state with two stores of one strand to lines of their own that wait. -/
def storing : State := { hosted with pendStores := [waitingStore 0x3000FC, waitingStore 0x300100] }

theorem witness_WalksAndWaitingStores_store :
    storing.pendStores[1]? = some (waitingStore 0x300100) ∧ (waitingStore 0x300100).move = none ∧
    (∀ e ∈ storing.pendStores.take 1, ¬(e.uid = 0 ∧ e.strand = 0 ∧ e.target.line = (waitingStore 0x300100).target.line)) ∧
    isPoisoned storing (waitingStore 0x300100).target = false :=
  ⟨by decide, by decide, by decide, by decide⟩

/-- The loaded strand, which waits for one thing, in a state where the cluster's caches are changed. -/
def pausing (w : Wait) (g : State → State) : State :=
  g (loaded 32 0x49000000 (fun t => { t with live := t.live.map fun x => { x with wait := w } }) id)

/-- A page fault that a device has reported. -/
def pageFault (stage2 : Bool) : PFault :=
  { tag := 7, stage2 := stage2, cid := 0, page := 0x300000, kind := 1, access := 1, reported := true, failHeld := false }

/-- A translation request of the front end that waits for its reply. -/
def askedAts : AtsAsk := { die := 0, cid := 0, pasid := 0xFFFFF, page := 0x5000, mask := 1, front := true }

/-- A page request, which the front end waits on or nobody. -/
def askedPri (front : Bool) : PriAsk := { cid := 0, pasid := 0xFFFFF, page := 0x5000, access := .write, front := front }

theorem witness_Invalidations :
    (¬(({ addr := 0xFFFFFFFFFFFFF000, pages := 1, ctx := 2048, stage := 0, rsv := 0 } : InvCmd).rsv = 0 ∧ ({ addr := 0xFFFFFFFFFFFFF000, pages := 1, ctx := 2048, stage := 0, rsv := 0 } : InvCmd).ctx.toNat < 2048 ∧ ({ addr := 0xFFFFFFFFFFFFF000, pages := 1, ctx := 2048, stage := 0, rsv := 0 } : InvCmd).addr.toNat % 4096 = 0 ∧ ({ addr := 0xFFFFFFFFFFFFF000, pages := 1, ctx := 2048, stage := 0, rsv := 0 } : InvCmd).stage = 0)) ∧
    (¬(({ addr := 0xFFFFFFFFFFFFF000, pages := 1, ctx := 0, stage := 0, rsv := 0 } : InvCmd).rsv = 0 ∧ ({ addr := 0xFFFFFFFFFFFFF000, pages := 1, ctx := 0, stage := 0, rsv := 0 } : InvCmd).ctx.toNat < 2048 ∧ ({ addr := 0xFFFFFFFFFFFFF000, pages := 1, ctx := 0, stage := 0, rsv := 0 } : InvCmd).addr.toNat % 4096 = 0 ∧ ({ addr := 0xFFFFFFFFFFFFF000, pages := 1, ctx := 0, stage := 0, rsv := 0 } : InvCmd).stage = 1)) ∧
    (({ addr := 0xFFFFFFFFFFFFF000, pages := 1, ctx := 2047, stage := 0, rsv := 0 } : InvCmd).rsv = 0 ∧ ({ addr := 0xFFFFFFFFFFFFF000, pages := 1, ctx := 2047, stage := 0, rsv := 0 } : InvCmd).ctx.toNat < 2048 ∧ ({ addr := 0xFFFFFFFFFFFFF000, pages := 1, ctx := 2047, stage := 0, rsv := 0 } : InvCmd).addr.toNat % 4096 = 0 ∧ ({ addr := 0xFFFFFFFFFFFFF000, pages := 1, ctx := 2047, stage := 0, rsv := 0 } : InvCmd).stage = 0) ∧
    (({ addr := 0xFFFFFFFFFFFFF000, pages := 1, ctx := 0, stage := 1, rsv := 0 } : InvCmd).rsv = 0 ∧ ({ addr := 0xFFFFFFFFFFFFF000, pages := 1, ctx := 0, stage := 1, rsv := 0 } : InvCmd).ctx.toNat < 2048 ∧ ({ addr := 0xFFFFFFFFFFFFF000, pages := 1, ctx := 0, stage := 1, rsv := 0 } : InvCmd).addr.toNat % 4096 = 0 ∧ ({ addr := 0xFFFFFFFFFFFFF000, pages := 1, ctx := 0, stage := 1, rsv := 0 } : InvCmd).stage = 1) ∧
    ((∀ d ∈ ({ hosted with invs := [⟨31, 1⟩, ⟨31, 2⟩] } : State).pendStores, cidVd d.cid ≠ 31) ∧ InvPending.mk 31 1 ∈ ({ hosted with invs := [⟨31, 1⟩, ⟨31, 2⟩] } : State).invs ∧ InvPending.mk 31 2 ∈ ({ hosted with invs := [⟨31, 1⟩, ⟨31, 2⟩] } : State).invs) ∧
    (askedAts ∈ ({ hosted with ats := [askedAts] } : State).ats ∧ askedAts.isFor 0 0 0xFFFFF 0x5000 = true ∧ ({ die := 0, vd := 0, pasid := 0xFFFFF, page := 0x5FFF, frame := 0x9000, r := true, w := true, x := true } : AtsReply).pasid.toNat = 0xFFFFF ∧ ({ die := 0, vd := 0, pasid := 0xFFFFF, page := 0x5FFF, frame := 0x9000, r := true, w := true, x := true } : AtsReply).page.toNat / 4096 * 4096 = 0x5000 ∧ (∀ x ∈ ({ hosted with ats := [askedAts] } : State).ats, x = askedAts) ∧ ({ die := 0, vd := 0, pasid := 0xFFFFF, page := 0x5FFF, frame := 0x9000, r := true, w := true, x := true } : AtsReply).r = true ∧ ({ die := 0, vd := 0, pasid := 0xFFFFF, page := 0x5FFF, frame := 0x9000, r := true, w := true, x := true } : AtsReply).w = true ∧ ({ die := 0, vd := 0, pasid := 0xFFFFF, page := 0x5FFF, frame := 0x9000, r := true, w := true, x := true } : AtsReply).x = true ∧ ∀ e ∈ hosted.clusters, e.2.stickyPend = []) ∧
    (askedPri true ∈ priSent ({ hosted with pri := [askedPri true] } : State) 0 ∧ (askedPri true).isFor 0 0xFFFFF 0x5000 .write = true ∧ (∀ x ∈ ({ hosted with pri := [askedPri true] } : State).pri, x = askedPri true) ∧ priWanted ({ hosted with pri := [askedPri true] } : State) (askedPri true) (fun w => w == PageWait.pri 0 0xFFFFF 0x5000 .write) = true) ∧
    (askedPri false ∈ priSent ({ hosted with pri := [askedPri false] } : State) 0 ∧ (askedPri false).isFor 0 0xFFFFF 0x5000 .write = true ∧ (∀ x ∈ ({ hosted with pri := [askedPri false] } : State).pri, x = askedPri false) ∧ priWanted ({ hosted with pri := [askedPri false] } : State) (askedPri false) (fun w => w == PageWait.pri 0 0xFFFFF 0x5000 .write) = false) ∧
    (hosted.pendStores = []) :=
  ⟨by decide +kernel, by decide +kernel, by decide +kernel, by decide +kernel, by decide +kernel, by decide +kernel, by decide +kernel, by decide +kernel, by decide +kernel⟩

theorem witness_FaultsResolvedAndFrames :
    (pageFault false ∈ ({ pausing (.pages [.fault 7]) id with faults := [pageFault false] } : State).faults ∧ (∀ g ∈ ({ pausing (.pages [.fault 7]) id with faults := [pageFault false] } : State).faults, g.tag = 7 → g = pageFault false) ∧ (pageFault false).reported = true ∧ (∀ e ∈ ({ pausing (.pages [.fault 7]) id with faults := [pageFault false] } : State).clusters, e.2.stickyPend = []) ∧ (pageFault false).stage2 = false ∧ cidVd (pageFault false).cid = 0 ∧ failWaits ({ pausing (.pages [.fault 7]) id with faults := [pageFault false] } : State) 7 = false) ∧
    (pageFault true ∈ ({ pausing (.pages [.fault 7]) id with faults := [pageFault true] } : State).faults ∧ (∀ g ∈ ({ pausing (.pages [.fault 7]) id with faults := [pageFault true] } : State).faults, g.tag = 7 → g = pageFault true) ∧ (pageFault true).reported = true ∧ (∀ e ∈ ({ pausing (.pages [.fault 7]) id with faults := [pageFault true] } : State).clusters, e.2.stickyPend = []) ∧ (pageFault true).stage2 = true ∧ cidVd (pageFault true).cid = 0 ∧ failWaits ({ pausing (.pages [.fault 7]) id with faults := [pageFault true] } : State) 7 = false) ∧
    ((vdevOf (updVdev { hosted with frames := [(3, ⟨1, some 0⟩)] } 0 fun v => { v with fmtaddr := 0x600000 }) 0).fmtBusy = none ∧ (2 : BitVec 64).toNat % 4 ≠ 3 ∧ (vdevOf (updVdev { hosted with frames := [(3, ⟨1, some 0⟩)] } 0 fun v => { v with fmtaddr := 0x600000 }) 0).fmtaddr % 2 ^ 21 = 0 ∧ inWindow (vdevOf (updVdev { hosted with frames := [(3, ⟨1, some 0⟩)] } 0 fun v => { v with fmtaddr := 0x600000 }) 0).fmtaddr = false ∧ (frameOf (updVdev { hosted with frames := [(3, ⟨1, some 0⟩)] } 0 fun v => { v with fmtaddr := 0x600000 }) (vdevOf (updVdev { hosted with frames := [(3, ⟨1, some 0⟩)] } 0 fun v => { v with fmtaddr := 0x600000 }) 0).fmtaddr).owner = some 0 ∧ (updVdev { hosted with frames := [(3, ⟨1, some 0⟩)] } 0 fun v => { v with fmtaddr := 0x600000 }).pendStores = []) ∧
    ((vdevOf hosted 0).fmtBusy = none ∧ (frameOf hosted (vdevOf hosted 0).fmtaddr).owner ≠ some 0) ∧
    ((vdevOf (updVdev hosted 0 fun v => { v with fmtBusy := some (3, 2) }) 0).fmtBusy = some (3, 2) ∧ cutLive (updVdev hosted 0 fun v => { v with fmtBusy := some (3, 2) }) 0 = false ∧ hosted.rxHeld = [] ∧ ∀ e ∈ hosted.clusters, e.2.stickyPend = []) :=
  ⟨by decide +kernel, by decide +kernel, by decide +kernel, by decide +kernel, by decide +kernel⟩

/-- Poisoned data, or good data that ends its line. -/
def arriving (poisoned : Bool) : Ingress :=
  { port := .pcie, space := .device, cid := 0, addr := 0x3000F8, bytes := [1, 2, 3, 4, 5, 6, 7, 8], poisoned := poisoned, check := none, again := [], rewrite := false }

/-- Data whose check fails in both deliveries. -/
def twice : Ingress := { arriving false with check := some 0, again := [1, 2, 3] }

/-- The last bytes of the window as a function reaches them. -/
def windowAt (f : Func) (offset : Nat) : WindowAccess := { func := f, offset := offset, size := 8, write := none }

/-- The package whose device 31 has slice 31 of the window. -/
def sliced : State := updVdev State.reset 31 fun v => { v with enabled := true, winslice := some 31 }

/-- The package with a resident motif of the context, whose descriptor is locked. -/
def lockedState : State := { withContext 0 1 State.reset with motifs := [loadedMotif 0 false] }

theorem witness_WindowAndIngress :
    ((twice.poisoned = false ∧ twice.check = some 0 ∧ crc32c twice.bytes ≠ 0 ∧ crc32c twice.again ≠ 0 ∧ twice.space = .device)) ∧
    (State.reset.recovery = false ∧ (windowAt .pf 0x3FFF8).func = .pf ∧ (windowAt .pf 0x3FFF8).offset + (windowAt .pf 0x3FFF8).size ≤ 0x40000) ∧
    (sliced.recovery = false ∧ (vdevOf sliced 31).enabled = true ∧ (vdevOf sliced 31).winslice = some 31 ∧ (windowAt (.vf 31) 8184).offset + (windowAt (.vf 31) 8184).size ≤ 8192) ∧
    ((arriving false).check = none ∧ (arriving false).poisoned = false ∧ (arriving false).addr % 128 + (arriving false).bytes.length ≤ 128 ∧ lockedBy State.reset ⟨.device, 0x3000F8⟩ 8 = none ∧ isPoisoned State.reset ⟨.device, 0x3000F8⟩ = false) ∧
    ((arriving false).check = none ∧ lockedBy lockedState ⟨.device, 0x500038⟩ 8 = some 0) ∧
    ((arriving true).poisoned = true ∧ lockedBy lockedState ⟨.device, 0x500038⟩ 1 = some 0 ∧ lockedBy lockedState ⟨.device, 0x500040⟩ 8 = none) ∧
    ((arriving true).check = none ∧ (arriving true).poisoned = true ∧ (arriving true).space = .device) :=
  ⟨by decide +kernel, by decide +kernel, by decide +kernel, by decide +kernel, by decide +kernel, by decide +kernel, by decide +kernel⟩

/-! ### Rings, records and motifs -/

/-- A record of one kernel for one motif, read and checked. -/
def plainRecord : Record :=
  { ring := 0, number := 1, cid := 0, kind := 1, flags := 2, wait0 := 0, wait1 := 0, value0 := 0, value1 := 0, paramAddr := 0, lanes := 0
    stages := [{ image := 0x200000, header := loadedHeader false, grid := 1, input := none, created := 0, retired := 0 }], queues := []
    param := [], begun := false, done := false }

/-- The context's device and ring with nothing in memory, and motifs and records of the context. -/
def bare (ms : List Motif) (rs : List Record) (begun : Nat) : State :=
  updVdev (updRing { State.reset with motifs := ms, records := rs, nextUid := 1 } 0 fun r =>
    { r with owner := some 0, enable := true, logsize := 4, tail := 1, fetched := 1, begun := begun }) 0 fun v =>
    { v with enabled := true, ctxbase := 0x500000, ctxcount := 1, share := { v.share with ranges := [some (0, 59), none, none, none] } }

/-- A descriptor with one save slot and 32 places. -/
def plainDesc : Desc := { loadedDesc with mslots := 1, msave := 0x800000, pslots := 32 }

/-- A resident motif of the context. -/
def plainMotif (f : Strand → Strand) : Motif :=
  let m := loadedMotif 0 false
  { m with desc := plainDesc, strands := m.strands.map f }

/-- A motif whose lanes have all ended. -/
def endedMotif : Motif := { plainMotif (fun t => { t with ended := t.launched }) with uid := 9 }

/-- A pre-empted motif whose lanes are at rest. -/
def cedingMotif : Motif := { plainMotif (fun t => { t with live := t.live.map fun x => { x with wait := .event } }) with preempt := some 0 }

/-- The package with the record checked, with it begun, and with its one motif retired. -/
def checkedRec : State := bare [] [plainRecord] 0
def begunRec : State := bare [endedMotif] [{ plainRecord with begun := true }] 1
def finishedRecord : Record := { plainRecord with begun := true, stages := plainRecord.stages.map fun st => { st with created := 1, retired := 1 } }
def finishedRec : State := bare [] [finishedRecord] 1

/-- A ring's descriptor at the ends of its ranges. -/
def edgeDesc (on : Bool) : RingDesc := { base := 0xFFF000, logsize := 16, prio := 3, ctx := 0, ctl := if on then 3 else 2, rsv := 0 }

/-- The package with ring 1023 of its device. -/
def ringed : State := updRing (bare [] [] 0) 1023 fun r => { r with owner := some 0 }

/-- The package whose ring 0 has stopped. -/
def ringStopped (k : List Nat) : State := updRing (bare [] [] 0) 0 fun r => { r with stopped := true, code := 6, failed := k }

/-- The package whose ring 0 lies in no page. -/
def ringAstray : State := updRing hosted 0 fun r => { r with base := 0x500000 }

/-- How a check ends that fails. -/
def badCode : Except FrontStop (State × Record) → Option Nat
  | .error (.bad k _) => some k
  | _ => none

theorem badCode_eq {x : Except FrontStop (State × Record)} {k : Nat} (h : badCode x = some k) : ∃ s, x = .error (.bad k s) := by
  unfold badCode at h
  split at h
  · cases h
    exact ⟨_, rfl⟩
  · cases h

/-- The package whose record waits for the first completion of its ring (R184). -/
def hostedWaiting : State := { hosted with mem := writeBytes (writeBytes hosted.mem 0x310003 [0x80]) 0x310008 [1] }

/-- Whether a record checked can begin or be fetched (R188). -/
def readyNow (s : State) : Option Bool :=
  match checkRecord s 0 with
  | .ok (s1, rec) => some (recordReady (frontForget s1 0) rec)
  | .error _ => none

theorem readyNow_eq {s : State} {b : Bool} (h : readyNow s = some b) :
    ∃ s1 rec, checkRecord s 0 = .ok (s1, rec) ∧ recordReady (frontForget s1 0) rec = b := by
  unfold readyNow at h
  split at h
  · rename_i s1 rec hc
    exact ⟨s1, rec, hc, Option.some.inj h⟩
  · cases h

theorem witness_RingsAndRecords_check :
    (0 ∈ hosted.hoop ∧ ringFetches hosted (ringOf hosted 0) = true ∧ (ringOf hosted 0).fetched < (ringOf hosted 0).tail) ∧
    (∃ s1 rec, checkRecord hosted 0 = .ok (s1, rec) ∧ recordReady (frontForget s1 0) rec = true) ∧
    ∃ s1 rec, checkRecord hostedWaiting 0 = .ok (s1, rec) ∧ recordReady (frontForget s1 0) rec = false :=
  ⟨by decide +kernel, readyNow_eq (by decide +kernel), readyNow_eq (by decide +kernel)⟩

/-- The package while the frame of its ring is being formatted (R183, R219). -/
def ringFormatting : State := updVdev hosted 0 fun v => { v with fmtBusy := some (1, 2) }

/-- Whether a check waits. -/
def waitsNow (s : State) : Bool :=
  match checkRecord s 0 with
  | .error (.wait _) => true
  | _ => false

theorem waitsNow_eq {s : State} (h : waitsNow s = true) : ∃ s1, checkRecord s 0 = .error (.wait s1) := by
  unfold waitsNow at h
  split at h
  · rename_i s1 hc
    exact ⟨s1, hc⟩
  · cases h

theorem witness_RingsAndRecords_wait :
    (0 ∈ ringFormatting.hoop ∧ ringFetches ringFormatting (ringOf ringFormatting 0) = true ∧
      (ringOf ringFormatting 0).fetched < (ringOf ringFormatting 0).tail) ∧ ∃ s1, checkRecord ringFormatting 0 = .error (.wait s1) :=
  ⟨by decide +kernel, waitsNow_eq (by decide +kernel)⟩

theorem witness_RingsAndRecords_bad :
    (0 ∈ ringAstray.hoop ∧ ringFetches ringAstray (ringOf ringAstray 0) = true ∧
      (ringOf ringAstray 0).fetched < (ringOf ringAstray 0).tail) ∧ ∃ s1, checkRecord ringAstray 0 = .error (.bad 4 s1) :=
  ⟨by decide +kernel, badCode_eq (by decide +kernel)⟩

theorem witness_RingsAndRecords_begin :
    recordOf checkedRec 0 ((ringOf checkedRec 0).begun + 1) = some plainRecord ∧ (ringOf checkedRec 0).enable = true ∧
    plainRecord.begun = false ∧ canBegin checkedRec plainRecord = true ∧ (ctxOf checkedRec plainRecord.cid).stopped = false ∧
    (vdevOf checkedRec (cidVd plainRecord.cid)).migrating = 0 ∧ plainRecord.kind ≠ 3 ∧
    readParam checkedRec plainRecord = .ok (checkedRec, []) := by
  refine ⟨?_, ?_, ?_, ?_, ?_, ?_, ?_, rfl⟩ <;> decide +kernel

theorem witness_RingsAndRecords_tail :
    ((ringOf (bare [] [] 0) 0).enable = true ∧ (ringOf (bare [] [] 0) 0).owner ≠ some 1) ∧
    ((ringOf (bare [] [] 0) 0).enable = true ∧ (ringOf (bare [] [] 0) 0).owner = some 0 ∧ (ringOf (bare [] [] 0) 0).tail ≤ (17 : BitVec 64).toNat ∧ (17 : BitVec 64).toNat ≤ (ringOf (bare [] [] 0) 0).fetched + 2 ^ (ringOf (bare [] [] 0) 0).logsize) ∧
    ((ringOf (bare [] [] 0) 0).enable = true ∧ (ringOf (bare [] [] 0) 0).owner = some 0 ∧ ¬((ringOf (bare [] [] 0) 0).tail ≤ (18 : BitVec 64).toNat ∧ (18 : BitVec 64).toNat ≤ (ringOf (bare [] [] 0) 0).fetched + 2 ^ (ringOf (bare [] [] 0) 0).logsize) ∧ (ringOf (bare [] [] 0) 0).stopped = false) :=
  ⟨by decide +kernel, by decide +kernel, by decide +kernel⟩

theorem witness_RingsAndRecords_enable :
    ((ringOf ringed 1023).owner = some 0 ∧ (ringOf ringed 1023).enable = false ∧ (edgeDesc true).ctl.getLsbD 0 = true ∧ RingDesc.startable (edgeDesc true) (vdevOf ringed 0) = true) ∧
    ((ringOf (bare [] [] 0) 0).owner = some 0 ∧ (ringOf (bare [] [] 0) 0).enable = true ∧ (edgeDesc false).ctl.getLsbD 0 = false) :=
  ⟨by decide +kernel, by decide +kernel⟩

theorem witness_RingsAndRecords_resume :
    ((ringOf (ringStopped []) 0).enable = true ∧ (ringOf (ringStopped []) 0).stopped = true ∧ (ctxOf (ringStopped []) (ringCid (ringOf (ringStopped []) 0))).stopped = false ∧ (ringOf (ringStopped []) 0).failed = []) ∧
    ((ringOf (ringStopped [1]) 0).enable = true ∧ (ringOf (ringStopped [1]) 0).stopped = true ∧ (ctxOf (ringStopped [1]) (ringCid (ringOf (ringStopped [1]) 0))).stopped = false ∧ (ringOf (ringStopped [1]) 0).failed = [(ringOf (ringStopped [1]) 0).completed + 1] ∧ (ringOf (ringStopped [1]) 0).doneList = []) :=
  ⟨by decide +kernel, by decide +kernel⟩

theorem witness_RingsAndRecords_complete :
    (recordOf finishedRec 0 1 = some finishedRecord ∧ finishedRecord.begun = true ∧ finishedRecord.done = false ∧ recordOver finishedRecord = true ∧ 1 = (ringOf finishedRec 0).completed + 1 ∧ (ringOf finishedRec 0).doneList = [] ∧ finishedRecord.ring = 0 ∧ finishedRecord.number = 1 ∧ finishedRecord.flags.getLsbD 1 = true ∧ (ctxOf finishedRec finishedRecord.cid).stopped = false ∧ ∀ r ∈ finishedRec.requests, r.uid ∉ finishedRecord.writers) :=
  by decide +kernel

/-- The one stage of the record. -/
def itsStage : Stage := { image := 0x200000, header := loadedHeader false, grid := 1, input := none, created := 0, retired := 0 }

/-- The record begun. -/
def begunRecord : Record := { plainRecord with begun := true }

theorem witness_MotifLifecycle_place :
    recordOf begunRec 0 1 = some begunRecord ∧ begunRecord.stages[0]? = some itsStage ∧ descOfCtx begunRec begunRecord.cid = some plainDesc ∧
    begunRecord.begun = true ∧ (ctxOf begunRec begunRecord.cid).stopped = false ∧ (vdevOf begunRec (cidVd begunRecord.cid)).migrating = 0 ∧
    dispatchClass begunRecord itsStage = some 1 ∧ (0, 1) ∈ clusterChoices begunRec begunRecord.cid itsStage.header plainDesc ∧
    servedNext begunRec begunRecord plainDesc 0 1 = true ∧ ∃ m0, stageMotif begunRec begunRecord plainDesc 0 itsStage = some m0 := by
  refine ⟨?_, ?_, ?_, ?_, ?_, ?_, ?_, ?_, ?_, Option.isSome_iff_exists.1 ?_⟩ <;> decide +kernel

/-- The translations of the first 2 MiB of the system region and of the save region (R199, R378). -/
def withImagePages (s : State) : State :=
  let page := fun (va pa : Nat) =>
    { loadedPage with vbase := va, size := 2 ^ 21, pbase := pa, gpbase := pa, w := true, w1 := true }
  updCluster s 0 0 fun c => { c with tlb := [page 0x00FFFFFC00000000 0x600000, page 0x800000 0x800000] }

/-- The package with a motif that a cut still has to stream. -/
def unitsRec : State :=
  { bare [{ endedMotif with preempt := some 0 }] [] 1 with jobs := [{ cid := 0, epoch := 1, latest := 1, colours := [none, some { blankCut 1 true with units := [9] }], asked := [] }] }

/-- The package with a motif that has ended, with one that is pre-empted, and with that one saved. -/
def overRec : State := bare [endedMotif] [] 1
def cedingRec : State := withImagePages (bare [cedingMotif] [] 1)
def savedMotif : Saved := { slot := 0, motif := cedingMotif.asSaved, tags := [(0, 0, 4)], haltOnRestore := [], recorded := false, written := none }
def savedRec : State := { withImagePages (bare [] [] 1) with contexts := [{ cid := 0, stopped := false, saved := [savedMotif] }] }

theorem witness_MotifLifecycle_retire :
    (motifOf overRec 9 = some endedMotif ∧ (ctxOf overRec endedMotif.cid).stopped = false ∧ (∀ h ∈ (clusterOf overRec 0 0).handles, h.cid ≠ endedMotif.cid) ∧ motifOver endedMotif = true ∧ unitsHeld overRec endedMotif = false) ∧
    (motifOf unitsRec 9 = some { endedMotif with preempt := some 0 } ∧ unitsHeld unitsRec { endedMotif with preempt := some 0 } = true) :=
  ⟨by decide +kernel, by decide +kernel⟩

theorem witness_MotifLifecycle_save :
    (motifOf cedingRec 0 = some cedingMotif ∧ (ctxOf cedingRec cedingMotif.cid).stopped = false ∧ (∀ h ∈ (clusterOf cedingRec 0 0).handles, h.cid ≠ cedingMotif.cid) ∧ cedingMotif.preempt.isSome ∧ unitsStopped cedingMotif = true ∧ freeSlot cedingRec cedingMotif.cid cedingMotif.desc = some 0 ∧ unitsHeld cedingRec cedingMotif = false ∧ imageStop cedingRec (motifView cedingMotif) .write (imagePages cedingMotif 0 (saveTags cedingMotif)) = none) :=
  by decide +kernel

/-- The saved motif whose image lies in no page, one with a reserved tag, and the package where one waits (R378, R380). -/
def imagedMotif : Saved := { savedMotif with written := some cedingMotif }
def badTagMotif : Saved := { savedMotif with tags := [(0, 0, 5)] }
def restoringRec (v : Saved) : State := { bare [] [] 1 with contexts := [{ cid := 0, stopped := false, saved := [v] }] }

/-- How the reading of a saved motif's image ends: 0 it waits, 1 it is rejected, 2 the motif is loaded. -/
def reloadEnds : Reload → Nat
  | .wait _ => 0
  | .bad _ _ _ => 1
  | .ok _ _ => 2

theorem reloadEnds_wait {r : Reload} (h : reloadEnds r = 0) : ∃ s, r = .wait s := by
  cases r with
  | wait s => exact ⟨s, rfl⟩
  | bad _ _ _ => cases h
  | ok _ _ => cases h

theorem reloadEnds_bad {r : Reload} (h : reloadEnds r = 1) : ∃ d t s, r = .bad d t s := by
  cases r with
  | wait _ => cases h
  | bad d t s => exact ⟨d, t, s, rfl⟩
  | ok _ _ => cases h

theorem reloadEnds_ok {r : Reload} (h : reloadEnds r = 2) : ∃ m s, r = .ok m s := by
  cases r with
  | wait _ => cases h
  | bad _ _ _ => cases h
  | ok m s => exact ⟨m, s, rfl⟩

theorem witness_MotifLifecycle_restore :
    (∀ v ∈ [savedMotif, imagedMotif, badTagMotif], ((ctxOf (restoringRec v) (cidOf 0 0)).saved.find? fun v => v.slot == 0) = some v ∧
      (ctxOf (restoringRec v) (cidOf 0 0)).stopped = false ∧ (vdevOf (restoringRec v) 0).migrating = 0 ∧
      chooseRestored (restoringRec v) v.motif = some (0, 0)) ∧
    (∃ s1, reload (restoringRec imagedMotif) imagedMotif (0, 0) = .wait s1) ∧
    (∃ d t s1, reload (restoringRec badTagMotif) badTagMotif (0, 0) = .bad d t s1) ∧
    ∃ m s1, reload (restoringRec savedMotif) savedMotif (0, 0) = .ok m s1 :=
  ⟨by decide +kernel, reloadEnds_wait (by decide +kernel), reloadEnds_bad (by decide +kernel),
    reloadEnds_ok (by decide +kernel)⟩

/-- A strand with two live slots, a stack entry and a vector register. -/
def imageStrand : Strand :=
  let slot := fun (pc : Dword) (l : Nat) => ({ pc := pc, members := BitVec.ofNat 96 (2 ^ l), wait := .ready, held := false } : Slot)
  { (Strand.atStart 0 0 96 0x200100).setVec 255 95 [7] with live := [slot 0x200100 0, slot 0x200104 95], stack := [slot 0x200108 7] }

theorem witness_MotifLifecycle_image : (256 : Nat) ≤ 256 ∧ imageStrand.stack.length ≤ 64 ∧ imageStrand.live.length ≤ 2 ∧
    ∀ x ∈ imageStrand.live ++ imageStrand.stack, x.members ≠ 0 := by decide +kernel

theorem witness_MotifLifecycle_switch :
    ((clusterOf overRec 3 59).absent = false ∧ residents overRec 3 59 = [] ∧ (∀ h ∈ (clusterOf overRec 3 59).handles, h.cid = 5) ∧ (clusterOf overRec 3 59).ctx ≠ some 5) ∧
    ((clusterOf overRec 0 0).absent = false ∧ ∃ m ∈ residents overRec 0 0, m.cid ≠ 5) :=
  ⟨by decide +kernel, by decide +kernel⟩

/-- The package with a running motif of the context, one pre-empted at cycle 5 whose deadline has come, the same where no save slot
is free, one whose context's time is up where another waits or none, one whose motif a halted strand keeps, and one whose
cluster was emptied for a context that waits no more. -/
def runningRec : State := bare [plainMotif id] [] 1
def lateMotif : Motif := { plainMotif id with preempt := some 5 }
def lateRec : State := { bare [lateMotif] [] 1 with clock := 280005 }
def fullRec : State :=
  let image : Nat → Saved := fun i => { slot := i, motif := endedMotif, tags := [], haltOnRestore := [], recorded := false }
  { lateRec with contexts := [{ cid := 0, stopped := false, saved := (List.range lateMotif.desc.mslots).map image }] }
def slicedRec (c : Cid) : State :=
  updCluster (if c = 0 then bare [plainMotif id] [] 1 else bare [endedMotif] [begunRecord] 1) 0 0 fun k => { k with ctx := some c }
def haltedMotif : Motif := { plainMotif (fun t => { t with halted := true }) with preempt := some 5 }
def haltedRec : State := { bare [haltedMotif] [] 1 with clock := 280005 }
def emptiedRec : State :=
  updVdev (updCluster (bare [] [] 0) 0 0 fun c => { c with ctx := some 5, draining := true }) 0 fun v => { v with share := { v.share with vslice := 7 } }
def cmdOn (motif strand : Word) : CtxCmd := { ctx := 0, motif := motif, strand := strand, rsv := false }

theorem witness_ContextCommands_1 :
    (ctxBusy runningRec 0 = false ∧ cmdExists (cmdOn 0xFFFFFFFF 0xFF) runningRec 0 = true ∧ (∀ f ∈ runningRec.faults, f.failHeld = false) ∧ (ctxOf runningRec (cidOf 0 0)).stopped = false) :=
  by decide +kernel

theorem witness_ContextCommands_2 :
    (ctxBusy runningRec 0 = false ∧ cmdExists (cmdOn 0 0) runningRec 0 = true ∧ (∀ f ∈ runningRec.faults, f.failHeld = false) ∧ (ctxOf runningRec (cidOf 0 0)).stopped = false) :=
  by decide +kernel

theorem witness_ContextCommands_refused :
    (¬(ctxBusy runningRec 0 = false ∧ cmdExists (cmdOn 0 31) runningRec 0 = true)) :=
  by decide +kernel

theorem witness_ContextCommands_full :
    (motifOf fullRec 0 = some lateMotif ∧ lateMotif.preempt = some 5 ∧ freeSlot fullRec lateMotif.cid lateMotif.desc = none) :=
  by decide +kernel

theorem witness_ContextCommands_late :
    (lateMotif.halts = false ∧ motifOf lateRec 0 = some lateMotif ∧ lateMotif.preempt = some 5 ∧ 5 + lateMotif.desc.deadline ≤ lateRec.clock ∧ lateMotif.drained = false ∧ (freeSlot lateRec lateMotif.cid lateMotif.desc).isSome ∧ 5 + lateMotif.desc.drainlim ≤ lateRec.clock ∧ (strandOf lateMotif 0).map (fun u => (u.atRest, u.halted)) = some (false, false)) :=
  by decide +kernel

theorem witness_ContextCommands_halted :
    (motifOf haltedRec 0 = some haltedMotif ∧ haltedMotif.preempt = some 5 ∧ haltedMotif.halts = true) :=
  by decide +kernel

theorem witness_ContextCommands_emptied :
    ((clusterOf emptiedRec 0 0).ctx = some 5 ∧ (clusterOf emptiedRec 0 0).frozen = false ∧ (clusterOf emptiedRec 0 0).slice < (vdevOf emptiedRec (cidVd 5)).share.vslice ∧ emptied emptiedRec 0 0 = true ∧ motifWaitsFor emptiedRec 0 0 5 = false) :=
  by decide +kernel

theorem witness_ContextCommands_slice_false :
    ((clusterOf (slicedRec 0) 0 0).ctx = some 0 ∧ (clusterOf (slicedRec 0) 0 0).frozen = false ∧ (vdevOf (slicedRec 0) (cidVd 0)).share.vslice ≤ (clusterOf (slicedRec 0) 0 0).slice ∧ motifWaitsFor (slicedRec 0) 0 0 0 = false) :=
  by decide +kernel

theorem witness_ContextCommands_slice_true :
    ((clusterOf (slicedRec 5) 0 0).ctx = some 5 ∧ (clusterOf (slicedRec 5) 0 0).frozen = false ∧ (vdevOf (slicedRec 5) (cidVd 5)).share.vslice ≤ (clusterOf (slicedRec 5) 0 0).slice ∧ motifWaitsFor (slicedRec 5) 0 0 5 = true) :=
  by decide +kernel

/-- A share block at the ends of its ranges: all of the issue rate, every lane of energy borrowed, clusters 0 to 59. -/
def shareBytes : List Byte :=
  leBytes 2 65535 ++ leBytes 2 1 ++ leBytes 20 0 ++ leBytes 1 63 ++ leBytes 1 3 ++ leBytes 1 31 ++ leBytes 1 0 ++ leBytes 4 1 ++
  leBytes 4 (2 ^ 31 - 1) ++ leBytes 4 65536 ++ leBytes 2 0xBB00 ++ leBytes 6 0 ++ leBytes 16 0

/-- The package with a share block staged for device 31. -/
def staged (b : List Byte) : State := updVdev State.reset 31 fun v => { v with staging := b }

/-- The package whose device 31 has tokens of an arbiter. -/
def tokened : State := updVdev { State.reset with arbiters := [(instanceKey 4 47, ⟨[(31, 65536)], 0, 31, 0, 0⟩)] } 31 fun v =>
  { v with share := { v.share with rate := [0, 0, 0, 0, 65535, 0], depth := [0, 0, 0, 0, 2, 0] } }

/-- The same with a read request of device 31 waiting for the link. -/
def sending : State := updLink tokened 47 fun l => { l with out := [(0, 0, newPacket tokened (cidOf 31 0) 1 0 1 0)] }

/-- The package whose dies have no spare cluster, one whose in-field tests are due, and one whose dies test cluster 60. -/
def spareless : State := { State.reset with dies := State.reset.dies.map fun u => { u with spares := [] } }
def due : State := { State.reset with clock := 10 ^ 18 }
def testing : State := { State.reset with dies := State.reset.dies.map fun u => { u with testing := some 60 } }

theorem witness_SharesAndEnergy_commit :
    (shareFault (staged shareBytes) 31 (vdevOf (staged shareBytes) 31).staging = none) ∧
    (shareFault (staged (shareBytes.set 0x3F 1)) 31 (vdevOf (staged (shareBytes.set 0x3F 1)) 31).staging = some 0x3F) :=
  ⟨by decide +kernel, by decide +kernel⟩

theorem witness_SharesAndEnergy_slot :
    (47 < arbiterCount 4 ∧ (tget Arbiter.reset sending.arbiters (instanceKey 4 47)).busy = 0 ∧ (1 : Int) * 65536 ≤ min (tget 0 (tget Arbiter.reset sending.arbiters (instanceKey 4 47)).tok 31 + (offered sending 4 (tget Arbiter.reset sending.arbiters (instanceKey 4 47)) : Int) * (rateOf sending 4 31 : Int)) (((vdevOf sending 31).share.depth.getD 4 0 : Int) * 65536)) ∧
    (unitLanesOf sending 4 47 ≠ some 0 ∧ (linkOf sending 47).failed = false ∧ (headPacket sending 47 31).map packetFlits = some 1) :=
  ⟨by decide +kernel, by decide +kernel⟩

theorem witness_UnitsAndMigration_retire :
    ((clusterOf State.reset 3 59).absent = false ∧ State.reset.dies.length = 4 ∧ (dieOf State.reset 3).spares = 60 :: [61, 62, 63]) ∧
    ((clusterOf spareless 3 59).absent = false ∧ spareless.dies.length = 4 ∧ (dieOf spareless 3).spares = []) :=
  ⟨by decide +kernel, by decide +kernel⟩

theorem witness_UnitsAndMigration_rest :
    (4 < (linkOf State.reset 47).lanes ∧ 0 < (linkOf State.reset 47).lanes ∧ unitLanesOf State.reset 2 0 = none ∧ unitLanesOf State.reset 3 0 = none) ∧
    (testDue due 3 = true ∧ due.dies.length = 4 ∧ (dieOf due 3).testing = none ∧ (dieOf due 3).spares = 60 :: [61, 62, 63] ∧ nextTested due 3 = some (0, 0) ∧ testDeferred due 3 0 = false) ∧
    (testDue State.reset 3 = false) ∧
    ((dieOf testing 3).testing = some 60) :=
  ⟨by decide +kernel, by decide +kernel, by decide +kernel, by decide +kernel⟩

/-- The package whose device 0 migrates under mode 0 with clocks saved, with a motif or none, and one that arrives. -/
def leaving (ms : List Motif) : State :=
  updVdev (bare ms [] 0) 0 fun v => { v with migrating := 2, savedClock := 500, savedWall := 700, ctxPend := [0] }

theorem witness_UnitsAndMigration_migrate :
    ((vdevOf (leaving [lateMotif]) 0).share.mode = false ∧ lateMotif ∈ (leaving [lateMotif]).motifs ∧ lateMotif.uid ∈ (vdevOf (leaving [lateMotif]) 0).ctxPend ∧ lateMotif.preempt = some 5) ∧
    ((vdevOf (leaving []) 0).share.mode = false ∧ (vdevOf (leaving []) 0).savedClock ≠ 0 ∧ ∀ m ∈ (leaving []).motifs, cidVd m.cid ≠ 0) ∧
    ((vdevOf State.reset 0).share.mode = false ∧ (vdevOf State.reset 0).savedClock = 0 ∧ ∀ m ∈ State.reset.motifs, cidVd m.cid ≠ 0) ∧
    ((vdevOf (leaving [lateMotif]) 0).share.mode = false ∧ ∃ m ∈ (leaving [lateMotif]).motifs, cidVd m.cid = 0) :=
  ⟨by decide +kernel, by decide +kernel, by decide +kernel, by decide +kernel⟩

/-! ### Packets -/

/-- The package with the context's motif, a pod page, a route to itself and to chip 1, and its cut block or none. -/
def fabric (cut : Bool) : State :=
  updCluster (updVdev { bare [plainMotif id] [] 1 with mem := if cut then writeBytes State.reset.mem 0x510000 (cutBytes 0 2) else State.reset.mem } 0
    fun v => { v with accepted := 0x1FFF, cutbase := if cut then 0x510000 else 0, route := [(0, 0x803F), (1, 0x8040)] }) 0 frontCluster
    fun c => { c with tlb := [podPage] }
where
  /-- 2 MiB of the aperture from offset 0 on, at 0x200000. -/
  podPage : TlbEntry :=
    { loadedPage with pod := true, vbase := 0, size := 2 ^ 21, pbase := 0x200000, gpbase := 0x200000, w := true, w1 := true }

/-- A packet of eight bytes from chip 1 in the last usable bytes of the frame. -/
def packet (op : BitVec 8) (aop : BitVec 8) : Packet :=
  sealPacket { cid := 0, dest := 0, vc := 0, cls := false, destRsv := false, src := 1, srcRsv := 0, op := op, nlines := 1, size := 4
               addr := 0x1DFFF8, rtag := 5, tags := 0, checks := [], cut := 0, aop := aop, status := 0, hcrc := 0
               payload := leBytes 8 3 ++ leBytes 8 4 }

/-- The hardware's own accesses for the context. -/
def fabricAgent : Motif := (packetAgent (fabric false) 0).getD (loadedMotif 0 false)

/-- A put that sets and clears bits of one byte (log entry 73). -/
def marked : Packet := sealPacket { packet 3 mergeMark with size := 1, payload := [1, 2] }

theorem witness_PacketsAtTheTarget :
    (packetAgent (fabric false) 0 = some fabricAgent ∧ isPoisoned (fabric false) ⟨.device, 0x3DFFF8⟩ = false ∧ routed (fabric false) (cidVd (packet 1 0).cid) 1 = true) ∧
    ((packet 1 0).op.toNat = 1 ∧ packetValid (fabric false) (packet 1 0) = true ∧ mustWait (fabric false) 0 (packet 1 0) = false ∧ packetReady (fabric false) (packet 1 0) = true ∧ cutBlockOf (fabric false) (packet 1 0).cid = none ∧ noticeBlock (fabric false) (packet 1 0).cid = fabric false ∧ packetLocal (fabric false) (packet 1 0) = true ∧ (packet 1 0).size ≠ 0 ∧ 8 = sizeBytes (packet 1 0).size ∧ podHome (fabric false) fabricAgent (packet 1 0).addr.toNat 8 (packetAccess (packet 1 0)) = .phys ⟨.device, 0x3DFFF8⟩ fabric.podPage) ∧
    ((packet 3 0).op.toNat = 3 ∧ packetValid (fabric false) (packet 3 0) = true ∧ mustWait (fabric false) 0 (packet 3 0) = false ∧ packetReady (fabric false) (packet 3 0) = true ∧ cutBlockOf (fabric false) (packet 3 0).cid = none ∧ noticeBlock (fabric false) (packet 3 0).cid = fabric false ∧ packetLocal (fabric false) (packet 3 0) = true ∧ 8 ≤ (packet 3 0).payload.length ∧ podHome (fabric false) fabricAgent (packet 3 0).addr.toNat 8 .write = .phys ⟨.device, 0x3DFFF8⟩ fabric.podPage) ∧
    ((marked).op.toNat = 3 ∧ packetValid (fabric false) (marked) = true ∧ mustWait (fabric false) 0 (marked) = false ∧ packetReady (fabric false) (marked) = true ∧ cutBlockOf (fabric false) (marked).cid = none ∧ noticeBlock (fabric false) (marked).cid = fabric false ∧ packetLocal (fabric false) (marked) = true ∧ marked.aop = mergeMark ∧ marked.size = 1 ∧ 1 ≤ marked.payload.length ∧ podHome (fabric false) fabricAgent marked.addr.toNat 1 .write = .phys ⟨.device, 0x3DFFF8⟩ fabric.podPage) ∧
    ((packet 5 0x12).op.toNat = 5 ∧ packetValid (fabric false) (packet 5 0x12) = true ∧ mustWait (fabric false) 0 (packet 5 0x12) = false ∧ packetReady (fabric false) (packet 5 0x12) = true ∧ cutBlockOf (fabric false) (packet 5 0x12).cid = none ∧ noticeBlock (fabric false) (packet 5 0x12).cid = fabric false ∧ packetLocal (fabric false) (packet 5 0x12) = true ∧ 8 = aopWidth (packet 5 0x12)) ∧
    ((packet 7 0x10).op.toNat = 7 ∧ packetValid (fabric false) (packet 7 0x10) = true ∧ mustWait (fabric false) 0 (packet 7 0x10) = false ∧ packetReady (fabric false) (packet 7 0x10) = true ∧ cutBlockOf (fabric false) (packet 7 0x10).cid = none ∧ noticeBlock (fabric false) (packet 7 0x10).cid = fabric false ∧ packetLocal (fabric false) (packet 7 0x10) = true ∧ 8 = aopWidth (packet 7 0x10)) :=
  ⟨by decide +kernel, by decide +kernel, by decide +kernel, by decide +kernel, by decide +kernel, by decide +kernel⟩

/-- A request of the strand that waits for its answer. -/
def asking (op : Nat) : Request :=
  { rtag := 5, op := op, cid := 0, uid := 0, strand := 0, lanes := 1, slotPc := 0x200100, index := 0, again := false, link := 0
    answer := none, sent := 0 }

/-- The package with that request, 2^26 cycles after it was sent. -/
def awaiting (op : Nat) : State := { fabric false with requests := [asking op], clock := 2 ^ 26 }

theorem witness_PacketsAtTheSender :
    ((packet 2 0).status = 0 ∧ requestFor (awaiting 1) (packet 2 0).cid (packet 2 0).rtag.toNat [1] = some (asking 1) ∧ (packet 2 0).size ≠ 0) ∧
    ((packet 2 0).op.toNat = 2 ∧ packetValid (awaiting 1) (packet 2 0) = true ∧ mustWait (awaiting 1) 0 (packet 2 0) = false ∧ packetReady (awaiting 1) (packet 2 0) = true ∧ cutBlockOf (awaiting 1) (packet 2 0).cid = none ∧ noticeBlock (awaiting 1) (packet 2 0).cid = awaiting 1 ∧ packetLocal (awaiting 1) (packet 2 0) = true) ∧
    ((packet 6 0).status = 0 ∧ requestFor (awaiting 5) (packet 6 0).cid (packet 6 0).rtag.toNat [5] = some (asking 5) ∧ (packet 6 0).size ≠ 0) ∧
    ((packet 6 0).op.toNat = 6 ∧ packetValid (awaiting 5) (packet 6 0) = true ∧ mustWait (awaiting 5) 0 (packet 6 0) = false ∧ packetReady (awaiting 5) (packet 6 0) = true ∧ cutBlockOf (awaiting 5) (packet 6 0).cid = none ∧ noticeBlock (awaiting 5) (packet 6 0).cid = awaiting 5 ∧ packetLocal (awaiting 5) (packet 6 0) = true) ∧
    ((packet 4 0).status = 0 ∧ requestFor (awaiting 3) (packet 4 0).cid (packet 4 0).rtag.toNat [3, 7] = some (asking 3) ∧ (packet 4 0).size ≠ 0) ∧
    ((packet 4 0).op.toNat = 4 ∧ packetValid (awaiting 3) (packet 4 0) = true ∧ mustWait (awaiting 3) 0 (packet 4 0) = false ∧ packetReady (awaiting 3) (packet 4 0) = true ∧ cutBlockOf (awaiting 3) (packet 4 0).cid = none ∧ noticeBlock (awaiting 3) (packet 4 0).cid = awaiting 3 ∧ packetLocal (awaiting 3) (packet 4 0) = true) ∧
    (asking 1 ∈ (awaiting 1).requests ∧ (asking 1).answer = none ∧ (∀ x ∈ (awaiting 1).requests, x.rtag = (asking 1).rtag → x = asking 1) ∧ (asking 1).sent + 2 ^ 26 ≤ (awaiting 1).clock ∧ motifOf (awaiting 1) 0 = some (plainMotif id)) ∧
    (asking 3 ∈ (awaiting 3).requests ∧ (asking 3).answer = none ∧ (∀ x ∈ (awaiting 3).requests, x.rtag = (asking 3).rtag → x = asking 3) ∧ (asking 3).sent + 2 ^ 26 ≤ (awaiting 3).clock ∧ motifOf (awaiting 3) 0 = some (plainMotif id)) :=
  ⟨by decide +kernel, by decide +kernel, by decide +kernel, by decide +kernel, by decide +kernel, by decide +kernel, by decide +kernel, by decide +kernel⟩

/-- A packet for chip 1. -/
def passing : Packet := sealPacket { packet 1 0 with dest := 1 }

/-- A link with a packet queued that has not moved for 2^24 cycles, and one in its replay buffer. -/
def stalled : State :=
  { updLink (fabric false) 0 (fun l => { l with out := [(0, 0, passing)], replay := [passing] }) with
    clock := 2 ^ 24, syslog := { QBlock.reset with ctl := 0x104 } }

/-- The package with a packet of the channel waiting in the receive buffer, and one whose link has no room. -/
def behind : State := { fabric false with rxHeld := [(0, passing)] }
def full : State := updLink (fabric false) 0 fun l => { l with room := [(queueKey passing, some 0)] }

theorem witness_RoutersAndLinks :
    (packetValid (fabric false) passing = true ∧ passing.op ≠ 8 ∧ passing.op ≠ 9 ∧ cutBlockOf (fabric false) passing.cid = none ∧ packetLocal (fabric false) passing = false ∧ routed (fabric false) (cidVd (passing).cid) 1 = true ∧ mustWait (fabric false) 0 passing = false ∧ hasRoom (fabric false) passing = true ∧ noticeBlock (fabric false) passing.cid = fabric false ∧ leavesAs (linkOf (fabric false) 0) passing = [passing]) ∧
    (packetValid behind passing = true ∧ mustWait behind 0 passing = true) ∧
    (packetValid full passing = true ∧ packetLocal full passing = false ∧ hasRoom full passing = false) ∧
    (packetValid (fabric false) { packet 1 0 with hcrc := (packet 1 0).hcrc + 1 } = false) ∧
    ((∃ e ∈ (linkOf stalled 0).out, e.1 = 0 ∧ e.2.1 = 0) ∧ tget 0 (linkOf stalled 0).moved (0 * 2 + 0) + 2 ^ 24 ≤ stalled.clock ∧ stalled.syslog.enabled = true ∧ stalled.syslog.full = false) ∧
    ((linkOf stalled 0).replay ≠ [] ∧ passing ∈ (linkOf stalled 0).replay ∧ ((tget 0 (vdevOf stalled (cidVd passing.cid)).route 1).extractLsb' 6 6).toNat = 1 ∧ leavesAs (linkOf stalled 1) passing = [passing]) :=
  ⟨by decide +kernel, by decide +kernel, by decide +kernel, by decide +kernel, by decide +kernel, by decide +kernel⟩

/-- A marker of a cut, and a control packet of a kind for a cut with a value. -/
def markerPacket (n : Nat) : Packet :=
  sealPacket { packet 8 0 with nlines := 0, size := 0, addr := BitVec.ofNat 64 n, cut := 5, payload := [] }
def control (kind n v : Nat) : Packet :=
  sealPacket { packet 9 0 with nlines := 0, size := 0, addr := 0, cut := 4, payload := leBytes 4 kind ++ leBytes 4 n ++ leBytes 4 v }

/-- The package in a cut of a job of n chips, or in none. -/
def cutting (n : Nat) : State :=
  { fabric true with
    jobs := [{ cid := 0, epoch := 1, latest := 1, colours := [none, some { blankCut 1 true with nchips := n }], asked := [] }]
    requests := [asking 9] }

/-- The package whose colours are both in use. -/
def crowded : State :=
  { fabric true with jobs := [{ cid := 0, epoch := 1, latest := 2, colours := [some (blankCut 2 true), some (blankCut 1 true)], asked := [] }] }

theorem witness_CutPackets_marker :
    ((markerPacket 1).op = 8 ∧ packetValid (cutting 2) (markerPacket 1) = true ∧ cutBlockOf (cutting 2) 0 = some ⟨1, 0, 2, 0, [0x10000000, 0x20000000], 0x10000000⟩ ∧ bitAt 1 0 = true ∧ mustWait (cutting 2) 0 (markerPacket 1) = false ∧ noticeBlock (cutting 2) 0 = (cutting 2) ∧ 0 < (markerPacket 1).addr.toNat ∧ (markerPacket 1).addr.toNat ≤ 0xFFFF0000 ∧ cutOf (cutting 2) 0 (markerPacket 1).addr.toNat = some { blankCut 1 true with nchips := 2 }) ∧
    ((markerPacket 4294901760).op = 8 ∧ packetValid (fabric true) (markerPacket 4294901760) = true ∧ cutBlockOf (fabric true) 0 = some ⟨1, 0, 2, 0, [0x10000000, 0x20000000], 0x10000000⟩ ∧ bitAt 1 0 = true ∧ mustWait (fabric true) 0 (markerPacket 4294901760) = false ∧ noticeBlock (fabric true) 0 = (fabric true) ∧ 0 < (markerPacket 4294901760).addr.toNat ∧ (markerPacket 4294901760).addr.toNat ≤ 0xFFFF0000 ∧ cutOf (fabric true) 0 (markerPacket 0xFFFF0000).addr.toNat = none ∧ colourReady (fabric true) 0 (markerPacket 0xFFFF0000).addr.toNat = true) ∧
    ((markerPacket 3).op = 8 ∧ packetValid crowded (markerPacket 3) = true ∧ cutBlockOf crowded 0 = some ⟨1, 0, 2, 0, [0x10000000, 0x20000000], 0x10000000⟩ ∧ bitAt 1 0 = true ∧ mustWait crowded 0 (markerPacket 3) = false ∧ noticeBlock crowded 0 = crowded ∧ 0 < (markerPacket 3).addr.toNat ∧ (markerPacket 3).addr.toNat ≤ 0xFFFF0000 ∧ cutOf crowded 0 (markerPacket 3).addr.toNat = none ∧ colourReady crowded 0 (markerPacket 3).addr.toNat = false) :=
  ⟨by decide +kernel, by decide +kernel, by decide +kernel⟩

theorem witness_CutPackets_control :
    ((control 1 1 0).op = 9 ∧ packetValid (cutting 3) (control 1 1 0) = true ∧ mustWait (cutting 3) 0 (control 1 1 0) = false ∧ packetLocal (cutting 3) (control 1 1 0) = true ∧ fieldAt (control 1 1 0).payload 0 1 = 1 ∧ (cutBlockOf (cutting 3) (control 1 1 0).cid).isSome ∧ cutOf (cutting 3) 0 1 = some { blankCut 1 true with nchips := 3 } ∧ (0 : Nat) = ownChip (cutting 3) (cidVd 0) ∧ (control 1 1 0).src.toNat ∉ ([] : List Nat) ∧ 0 + 1 < 3) ∧
    ((control 1 1 0).op = 9 ∧ packetValid (cutting 1) (control 1 1 0) = true ∧ mustWait (cutting 1) 0 (control 1 1 0) = false ∧ packetLocal (cutting 1) (control 1 1 0) = true ∧ fieldAt (control 1 1 0).payload 0 1 = 1 ∧ (cutBlockOf (cutting 1) (control 1 1 0).cid).isSome ∧ cutOf (cutting 1) 0 1 = some { blankCut 1 true with nchips := 1 } ∧ (0 : Nat) = ownChip (cutting 1) (cidVd 0) ∧ (control 1 1 0).src.toNat ∉ ([] : List Nat) ∧ 1 ≤ 0 + 1) ∧
    ((control 2 1 0).op = 9 ∧ packetValid (cutting 2) (control 2 1 0) = true ∧ mustWait (cutting 2) 0 (control 2 1 0) = false ∧ packetLocal (cutting 2) (control 2 1 0) = true ∧ fieldAt (control 2 1 0).payload 0 1 = 2 ∧ (cutBlockOf (cutting 2) (control 2 1 0).cid).isSome ∧ cutOf (cutting 2) 0 1 = some { blankCut 1 true with nchips := 2 } ∧ (0 : Nat) = ownChip (cutting 2) (cidVd 0) ∧ (control 1 1 0).src.toNat ∉ ([] : List Nat)) ∧
    ((control 3 1 4).op = 9 ∧ packetValid (cutting 2) (control 3 1 4) = true ∧ mustWait (cutting 2) 0 (control 3 1 4) = false ∧ packetLocal (cutting 2) (control 3 1 4) = true ∧ fieldAt (control 3 1 4).payload 0 1 = 3 ∧ (cutBlockOf (cutting 2) (control 3 1 4).cid).isSome ∧ cutOf (cutting 2) 0 1 = some { blankCut 1 true with nchips := 2 } ∧ (0 : Nat) = ownChip (cutting 2) (cidVd 0) ∧ (control 1 1 0).src.toNat ∉ ([] : List Nat)) ∧
    ((control 4 0 0).op = 9 ∧ packetValid (fabric true) (control 4 0 0) = true ∧ mustWait (fabric true) 0 (control 4 0 0) = false ∧ packetLocal (fabric true) (control 4 0 0) = true ∧ fieldAt (control 4 0 0).payload 0 1 = 4 ∧ (cutBlockOf (fabric true) (control 4 0 0).cid).isSome ∧ cutBlockOf (fabric true) 0 = some ⟨1, 0, 2, 0, [0x10000000, 0x20000000], 0x10000000⟩ ∧ 0 = ownChip (fabric true) (cidVd 0) ∧ colourReady (fabric true) 0 (nextCut (jobOf (fabric true) 0).latest) = true) ∧
    ((control 5 1 1).op = 9 ∧ packetValid (cutting 2) (control 5 1 1) = true ∧ mustWait (cutting 2) 0 (control 5 1 1) = false ∧ packetLocal (cutting 2) (control 5 1 1) = true ∧ fieldAt (control 5 1 1).payload 0 1 = 5 ∧ (cutBlockOf (cutting 2) (control 5 1 1).cid).isSome ∧ requestFor (cutting 2) 0 (control 5 1 1).rtag.toNat [9] = some (asking 9)) :=
  ⟨by decide +kernel, by decide +kernel, by decide +kernel, by decide +kernel, by decide +kernel, by decide +kernel⟩

/-- A cut that still streams, and one whose engines are done, on a chip that does not coordinate; the image of one. -/
def streamingCut : Cut := { blankCut 1 true with preserved := [{ unit := ⟨.device, 0x300000⟩, va := 0, sure := true, cells := [], tags := [], mode := 1 }] }
def otherCut : Cut := { blankCut 1 true with coord := 1 }
def doubtfulCut : Cut := { streamingCut with preserved := streamingCut.preserved.map fun g => { g with sure := false } }
def cutImage : Image := { kind := 0, addr := 0x10000000, cid := 0, vchip := 0, cutid := 1, cut := blankCut 1 false }
def withJob (c : Cut) : State := { fabric true with jobs := [{ cid := 0, epoch := 1, latest := 1, colours := [none, some c], asked := [] }] }
def imaged : State := { fabric true with images := [cutImage], tier2 := writeBytes [] 0x10000000 ((blankCut 1 false).header 0 0), tier2Tags := [(0x200000, 1), (0x200001, 1)] }
def restoring (k : Nat) : State :=
  updVdev { fabric true with restores := [{ vd := 0, ctx := 0, cutid := 1, image := cutImage }] } 0 fun v => { v with rststate := k }
def restoreCmd (n : Word) : RestoreCmd := { img := 0x10000000, imgkind := 0, ctx := 0, cutid := n, rsv := false }

/-- A cut that still has a motif's units to stream. -/
def unitCut : Cut := { blankCut 1 true with units := [0] }

theorem witness_CutEnginesAndRestoration_stream :
    cutOf (withJob streamingCut) 0 1 = some streamingCut ∧ (jobOf (withJob streamingCut) 0).recording = [streamingCut] ∧
    (∃ g die, streamingCut.preserved = [g] ∧ granuleDie (withJob streamingCut) g.unit = die ∧ g.sure = true) ∧
    cutOf (withJob doubtfulCut) 0 1 = some doubtfulCut ∧ (jobOf (withJob doubtfulCut) 0).recording = [doubtfulCut] ∧
    ∃ g die, doubtfulCut.preserved = [g] ∧ granuleDie (withJob doubtfulCut) g.unit = die ∧ g.sure = false :=
  ⟨by decide +kernel, by decide +kernel, ⟨_, _, rfl, rfl, rfl⟩, by decide +kernel, by decide +kernel, _, _, rfl, rfl, rfl⟩

theorem witness_CutEnginesAndRestoration_cut :
    (cutOf (withJob unitCut) 0 1 = some unitCut ∧ (jobOf (withJob unitCut) 0).recording = [unitCut] ∧ (∀ x ∈ (jobOf (withJob unitCut) 0).recording, x.preserved = []) ∧ unitsOn (withJob unitCut) 0 0 = [plainMotif id]) ∧
    (cutOf (withJob otherCut) 0 1 = some otherCut ∧ cutBlockOf (withJob otherCut) 0 = some ⟨1, 0, 2, 0, [0x10000000, 0x20000000], 0x10000000⟩ ∧ otherCut.live = true ∧ otherCut.state = 2 ∧ preCutOver (withJob otherCut) 0 otherCut = true ∧ otherCut.preserved = [] ∧ allVisited (withJob otherCut) 0 otherCut = true ∧ otherCut.bytes + fixedBytes otherCut ≤ 0x10000000 ∧ otherCut.coord ≠ ownChip (withJob otherCut) (cidVd 0)) ∧
    ((jobOf (withJob (blankCut 1 false)) 0).colours.getD 1 none = some (blankCut 1 false) ∧ (blankCut 1 false).freed = false ∧ allVisited (withJob (blankCut 1 false)) 0 (blankCut 1 false) = true ∧ preCutOver (withJob (blankCut 1 false)) 0 (blankCut 1 false) = true) ∧
    ((blankCut 1 true).live = true ∧ 0 = cidOf 0 ((1 : BitVec 64).extractLsb' 32 11).toNat ∧ (blankCut 1 true).cutid = ((1 : BitVec 64).extractLsb' 0 32).toNat) :=
  ⟨by decide +kernel, by decide +kernel, by decide +kernel, by decide +kernel⟩

theorem witness_CutEnginesAndRestoration_command :
    ((vdevOf imaged 0).rststate ≠ 1 ∧ (vdevOf imaged 0).rststate ≠ 2 ∧ restoreFault imaged 0 (restoreCmd 1) = .ok cutImage) ∧
    (restoreFault imaged 0 (restoreCmd 2) = .error 4 ∧ restoreFault imaged 0 (restoreCmd 0xFFFF0001) = .error 3) :=
  ⟨by decide +kernel, by decide +kernel⟩

theorem witness_CutEnginesAndRestoration_restore :
    (((restoring 1).restores.find? fun r => r.vd == 0) = some { vd := 0, ctx := 0, cutid := 1, image := cutImage } ∧ (vdevOf (restoring 1) 0).rststate = 1 ∧ confirmsSet { vd := 0, ctx := 0, cutid := 1, image := cutImage } [⟨1, 1, true⟩] = true ∧ jobChips (restoring 1) { vd := 0, ctx := 0, cutid := 1, image := cutImage } ≤ 1 + 1) ∧
    ((vdevOf (restoring 2) 0).rststate = 2 ∧ descOfCtx (restoring 2) (cidOf 0 0) = some plainDesc ∧ cutImage.cut.motifs = [] ∧ cutImage.cut.saved = [] ∧ cutImage.cut.records = [] ∧ cutImage.cut.rings = [] ∧ cutImage.cut.requests = [] ∧ cutImage.cut.logs = [] ∧ cutImage.cut.sticky = [] ∧ (restoring 2).rxHeld = []) :=
  ⟨by decide +kernel, by decide +kernel⟩

/-- A firmware image that every die accepts. -/
def goodImage : FwVerdict :=
  { magic := 0x4D57464B, svn := 0, length := 0x1000000, slot := 3, rsvZero := true, keyDigest := 0, ecdsaOk := [true, true, true, true]
    lmsOk := [true, true, true, true], bodyOk := [true, true, true, true] }

theorem witness_ResetsAndFirmware :
    (imageAccepted State.reset goodImage = true) ∧
    (imageAccepted State.reset { goodImage with slot := 4 } = false) ∧
    (({ State.reset with recovery := true } : State).recovery = true ∧ imageAccepted { State.reset with recovery := true } goodImage = true) ∧
    (State.reset.recovery = false ∧ State.reset.lmsIndex < 2 ^ 20 ∧ 2 ^ 20 ≤ ({ State.reset with lmsIndex := 2 ^ 20 } : State).lmsIndex) :=
  ⟨by decide +kernel, by decide +kernel, by decide +kernel, by decide +kernel⟩

theorem witness_DeviceRegisters :
    (State.reset.recovery = false ∧ deviceBusy State.reset 0 = false ∧ deviceBusy runningRec 0 = true ∧ ∀ f ∈ State.reset.faults, f.reported = true) ∧
    (4 ≤ (0x104 : BitVec 32).toNat % 32 ∧ (0x110 : BitVec 32).toNat % 32 ≤ 16 ∧ (0x104 : BitVec 32).getLsbD 8 = true ∧ (blockOf State.reset .syslog).enabled = false) ∧
    (((0 : Word) - (blockOf State.reset .syslog).head).toNat ≤ ((blockOf State.reset .syslog).tail - (blockOf State.reset .syslog).head).toNat) ∧
    ((0x8000001F : BitVec 32).getLsbD 31 = true ∧ ∀ e ∈ State.reset.vdevs, e.1 ≠ 31 → e.2.winslice ≠ some ((0x8000001F : BitVec 32).toNat % 32)) ∧
    (8 ≤ (255 : BitVec 8).toNat ∧ (ringOf State.reset 1023).enable = false) :=
  ⟨by decide +kernel, by decide +kernel, by decide +kernel, by decide +kernel, by decide +kernel⟩

/-! ### The machine -/

/-- The loaded state whose next step is a two-word instruction or one word, and a sequencer's. -/
def longNext : State := State.reset.withFetchWord 64 0x86417100FF010010
def shortNext : State := State.reset.withFetchWord 32 0x0019F2E6
def seqNext : State := State.reset.withFetchWord 32 0xCA040001

/-- The state once the granted issue of strand 0 is counted and paid for. -/
def paidNext (s : State) : State :=
  match grantedTo (timePassed s) 0 0 with
  | some g => payQuad (countGrant { timePassed s with agenda := [] } g.1 g.2.1 g.2.2) g.1.1 g.2.1 g.2.2
  | none => s

/-- The state in which strand 0's granted slot, its first, issues. -/
def turnNext (s : State) : State :=
  match (strandAt (paidNext s) 0 0).bind Strand.grant with
  | some (u, _) => { updStrand (paidNext s) 0 0 (fun _ => u) with cur := some (.slot 0 0 0) }
  | none => s

/-- The words that the granted slot of strand 0 fetches once its stack is stored. -/
def fetchedWords (s : State) : Option (List Word) :=
  (issuerOf (turnNext s)).bind fun q =>
    match storeStack (turnNext s) q with
    | .error _ => none
    | .ok s1 =>
      match fetchWords s1 q with
      | .ok (_, ws) => some ws
      | .error _ => none

/-- The word that sequencer 0 fetches at its turn. -/
def fetchedSeq (s : State) : Option Word :=
  let turn := { timePassed s with agenda := [], cur := some (.sequencer 0) }
  (seqIssuerOf turn).bind fun z =>
    match fetchSeq turn z with
    | .ok (_, w) => some w
    | .error _ => none

theorem witness_StepRunsTheDecodedInstruction_strand :
    (longNext.agenda = [.issue 0 0] ∧ (grantedTo (timePassed longNext) 0 0).isSome = true ∧
      (motifOf (paidNext longNext) 0).isSome = true ∧ (ctxOf (paidNext longNext) 0).stopped = false ∧
      (((strandAt (paidNext longNext) 0 0).bind Strand.grant).map (·.2)) = some 0 ∧
      fetchedWords longNext = some [0xFF010010, 0x86417100] ∧ wordOp 0xFF010010 = 0xFF ∧
      ∃ i, decodeStrand [0xFF010010, 0x86417100] = .ok (i, 8)) ∧
    (grantedTo (timePassed shortNext) 0 0).isSome = true ∧ fetchedWords shortNext = some [0x0019F2E6] ∧
    wordOp 0x0019F2E6 ≠ 0xFF ∧ ∃ i, decodeStrand [0x0019F2E6] = .ok (i, 4) :=
  ⟨⟨by decide +kernel, by decide +kernel, by decide +kernel, by decide +kernel, by decide +kernel, by decide +kernel, by decide,
    .ld (some ⟨0, 1, 0, false, false, 1, 0⟩) ⟨2, 5, 98, 0⟩, by decide +kernel⟩, by decide +kernel, by decide +kernel, by decide, _, rfl⟩

theorem witness_StepRunsTheDecodedInstruction_sequencer :
    seqNext.agenda = [.sequence 0] ∧
    (seqIssuerOf { timePassed seqNext with agenda := [], cur := some (.sequencer 0) }).map
      (fun z => (z.q.ended, z.q.waits, z.q.saveHere)) = some (false, [], false) ∧
    (ctxOf (timePassed seqNext) 0).stopped = false ∧ fetchedSeq seqNext = some 0xCA040001 ∧
    decodeSeq 0xCA040001 = .ok (.kli ⟨2, 1⟩) :=
  ⟨by decide +kernel, by decide +kernel, by decide +kernel, by decide +kernel, by decide +kernel⟩

theorem witness_StepRunsTheDecodedInstruction_event :
    let s := { State.reset with agenda := [.event .hoopEvaluation] }
    let now := timePassed s
    s.agenda = [.event .hoopEvaluation] ∧ now.heldDies = [] ∧ now.recovery = false := by
  decide +kernel

theorem witness_StepRunsTheDecodedInstruction_recovery :
    let s := { State.reset with recovery := true, agenda := [.event (.shareCommit 31)] }
    let now := timePassed s
    s.agenda = [.event (.shareCommit 31)] ∧ now.heldDies = [] ∧ now.recovery = true := by
  decide +kernel

theorem witness_DecodeAfterEncode :
    (Instr.ld (some ⟨31, 7, 7, true, true, 7, 15⟩) ⟨7, 63, 127, 127⟩).shape.isSome = true ∧ (Instr.kli ⟨31, 0x1FFFF⟩).wf = true ∧
    (Instr.kli ⟨31, 0x1FFFF⟩).shape.isSome = true ∧ (Instr.loop none ⟨0, 100, 0x3FFC⟩).wf = true :=
  ⟨by decide, by decide, by decide, by decide⟩

theorem witness_StoresStayCanonical : State.reset.storesWf = true ∧ (∃ t, step shortNext = .next t) ∧ shortNext.storesWf = true := by
  refine ⟨by decide, ?_, by decide +kernel⟩
  have h : (next? shortNext).isSome = true := by decide +kernel
  unfold next? at h
  split at h
  · rename_i t ht
    exact ⟨t, ht⟩
  · cases h

theorem witness_OperandTraps :
    (∃ s q, Issues s (.and none ⟨0, 125, 96, 96⟩) q ∧ (Reg.isScalar 125 ∧ queueStops s q.m (laneCount q.act) (instrUses (.and none ⟨0, 125, 96, 96⟩)) = none ∧ (q.t.setScalars q.x.members (scalarNo 125) (wordsOf 1 0)).isSome = false ∧ q.canTrap)) ∧
    (∃ s q, Issues s (.movi none ⟨125, 0⟩) q ∧ (Reg.isScalar 125 ∧ (q.t.setScalars q.x.members (scalarNo 125) (wordsOf 1 0)).isSome = false ∧ q.canTrap)) ∧
    (∃ s q, Issues s (.ld none ⟨3, 10, 2, 127⟩) q ∧ (q.act.getLsbD 1 ∧ (q.addr 2 1 + BitVec.ofInt 64 ((127#7).toInt * 8)).toNat % 8 ≠ 0 ∧ (∀ l < 1, q.act.getLsbD l → (q.addr 2 l + BitVec.ofInt 64 ((127#7).toInt * 8)).toNat % 8 = 0) ∧ q.canTrap)) ∧
    (∃ s q, Issues s (.st none ⟨3, 10, 2, 127⟩) q ∧ (q.act.getLsbD 1 ∧ (q.addr 2 1 + BitVec.ofInt 64 ((127#7).toInt * 8)).toNat % 8 ≠ 0 ∧ (∀ l < 1, q.act.getLsbD l → (q.addr 2 l + BitVec.ofInt 64 ((127#7).toInt * 8)).toNat % 8 = 0) ∧ q.canTrap)) ∧
    (∃ s q, Issues s (.lds none ⟨3, 10, 2, 1⟩) q ∧ (q.act.getLsbD 1 ∧ (BitVec.ofInt 64 ((q.read 2 1 1 : Int) + (1#7).toInt * 8)).toNat % 8 ≠ 0 ∧ (∀ l < 1, q.act.getLsbD l → (BitVec.ofInt 64 ((q.read 2 1 l : Int) + (1#7).toInt * 8)).toNat % 8 = 0) ∧ q.canTrap)) ∧
    (∃ s q, Issues s (.sts none ⟨3, 10, 2, 1⟩) q ∧ (q.act.getLsbD 1 ∧ (BitVec.ofInt 64 ((q.read 2 1 1 : Int) + (1#7).toInt * 8)).toNat % 8 ≠ 0 ∧ (∀ l < 1, q.act.getLsbD l → (BitVec.ofInt 64 ((q.read 2 1 l : Int) + (1#7).toInt * 8)).toNat % 8 = 0) ∧ q.canTrap)) ∧
    (∃ s q, Issues s (.ldp none ⟨3, 10, 2, 1⟩) q ∧ (q.act.getLsbD 1 ∧ (BitVec.ofInt 64 ((q.read 2 1 1 : Int) + (1#7).toInt * 8)).toNat % 8 ≠ 0 ∧ (∀ l < 1, q.act.getLsbD l → (BitVec.ofInt 64 ((q.read 2 1 l : Int) + (1#7).toInt * 8)).toNat % 8 = 0) ∧ q.canTrap)) ∧
    (∃ s q, Issues s (.stp none ⟨3, 10, 2, 1⟩) q ∧ (q.act.getLsbD 1 ∧ (BitVec.ofInt 64 ((q.read 2 1 1 : Int) + (1#7).toInt * 8)).toNat % 8 ≠ 0 ∧ (∀ l < 1, q.act.getLsbD l → (BitVec.ofInt 64 ((q.read 2 1 l : Int) + (1#7).toInt * 8)).toNat % 8 = 0) ∧ q.canTrap)) :=
  ⟨⟨issuing 32 0x0A1F7060 (fun t => { t with mask := 1 }) (handled), witness (h := fun q => (Reg.isScalar 125 ∧ queueStops (issuing 32 0x0A1F7060 (fun t => { t with mask := 1 }) (handled)) q.m (laneCount q.act) (instrUses (.and none ⟨0, 125, 96, 96⟩)) = none ∧ (q.t.setScalars q.x.members (scalarNo 125) (wordsOf 1 0)).isSome = false ∧ (q.t.handler = false ∧ q.m.header.trap ≠ 0))) (by decide +kernel)⟩,
    ⟨issuing 32 0x32FA0000 (fun t => { t with mask := 1 }) (handled), witness (h := fun q => (Reg.isScalar 125 ∧ (q.t.setScalars q.x.members (scalarNo 125) (wordsOf 1 0)).isSome = false ∧ (q.t.handler = false ∧ q.m.header.trap ≠ 0))) (by decide +kernel)⟩,
    ⟨issuing 32 0x8662817F (fun t => (vec 3 [0, 0] (vec 2 [8, 4] t))) (handled), witness (h := fun q => (q.act.getLsbD 1 ∧ (q.addr 2 1 + BitVec.ofInt 64 ((127#7).toInt * 8)).toNat % 8 ≠ 0 ∧ (∀ l < 1, q.act.getLsbD l → (q.addr 2 l + BitVec.ofInt 64 ((127#7).toInt * 8)).toNat % 8 = 0) ∧ (q.t.handler = false ∧ q.m.header.trap ≠ 0))) (by decide +kernel)⟩,
    ⟨issuing 32 0x8762817F (fun t => (vec 3 [0, 0] (vec 2 [8, 4] t))) (handled), witness (h := fun q => (q.act.getLsbD 1 ∧ (q.addr 2 1 + BitVec.ofInt 64 ((127#7).toInt * 8)).toNat % 8 ≠ 0 ∧ (∀ l < 1, q.act.getLsbD l → (q.addr 2 l + BitVec.ofInt 64 ((127#7).toInt * 8)).toNat % 8 = 0) ∧ (q.t.handler = false ∧ q.m.header.trap ≠ 0))) (by decide +kernel)⟩,
    ⟨issuing 32 0x88628101 (fun t => (vec 3 [0, 0] (vec 2 [8, 4] t))) (handled), witness (h := fun q => (q.act.getLsbD 1 ∧ (BitVec.ofInt 64 ((q.read 2 1 1 : Int) + (1#7).toInt * 8)).toNat % 8 ≠ 0 ∧ (∀ l < 1, q.act.getLsbD l → (BitVec.ofInt 64 ((q.read 2 1 l : Int) + (1#7).toInt * 8)).toNat % 8 = 0) ∧ (q.t.handler = false ∧ q.m.header.trap ≠ 0))) (by decide +kernel)⟩,
    ⟨issuing 32 0x89628101 (fun t => (vec 3 [0, 0] (vec 2 [8, 4] t))) (handled), witness (h := fun q => (q.act.getLsbD 1 ∧ (BitVec.ofInt 64 ((q.read 2 1 1 : Int) + (1#7).toInt * 8)).toNat % 8 ≠ 0 ∧ (∀ l < 1, q.act.getLsbD l → (BitVec.ofInt 64 ((q.read 2 1 l : Int) + (1#7).toInt * 8)).toNat % 8 = 0) ∧ (q.t.handler = false ∧ q.m.header.trap ≠ 0))) (by decide +kernel)⟩,
    ⟨issuing 32 0x8A628101 (fun t => (vec 3 [0, 0] (vec 2 [8, 4] t))) (handled), witness (h := fun q => (q.act.getLsbD 1 ∧ (BitVec.ofInt 64 ((q.read 2 1 1 : Int) + (1#7).toInt * 8)).toNat % 8 ≠ 0 ∧ (∀ l < 1, q.act.getLsbD l → (BitVec.ofInt 64 ((q.read 2 1 l : Int) + (1#7).toInt * 8)).toNat % 8 = 0) ∧ (q.t.handler = false ∧ q.m.header.trap ≠ 0))) (by decide +kernel)⟩,
    ⟨issuing 32 0x8B628101 (fun t => (vec 3 [0, 0] (vec 2 [8, 4] t))) (handled), witness (h := fun q => (q.act.getLsbD 1 ∧ (BitVec.ofInt 64 ((q.read 2 1 1 : Int) + (1#7).toInt * 8)).toNat % 8 ≠ 0 ∧ (∀ l < 1, q.act.getLsbD l → (BitVec.ofInt 64 ((q.read 2 1 l : Int) + (1#7).toInt * 8)).toNat % 8 = 0) ∧ (q.t.handler = false ∧ q.m.header.trap ≠ 0))) (by decide +kernel)⟩⟩

end Sys2Proof.Tests
end

/-! SUPPORT. The integer functions of the model as operations on bit vectors, and from a lane by lane value to the statement
that a register instruction completes with it. -/

namespace Sys2Proof.Machine

/-! ## Lane by lane instructions -/

/-- The one register field that an instruction writes is `d`, and the instruction is none of those that reduce lanes to a
scalar (R23, R89). -/
def WritesOnly (i : Instr) (d : Reg) : Prop :=
  (i.shape.map fun e => scalarFromVector e.2.op) = some false ∧ ∃ n k, (instrUses i).filter (·.write) = [wr d n k]

/-- The write among the operands, as the laws of register instructions ask for it. -/
theorem WritesOnly.uses {i : Instr} {d : Reg} (h : WritesOnly i d) :
    ∃ e, i.shape = some e ∧ scalarFromVector e.2.op = false ∧
      ∃ u ∈ instrUses i, u.write = true ∧ u.reg = d ∧ ∀ v ∈ instrUses i, v.write = true → v.reg = u.reg := by
  obtain ⟨hop, n, k, hw⟩ := h
  obtain ⟨e, he, hop⟩ := Option.map_eq_some_iff.mp hop
  have mem : ∀ v, v ∈ [wr d n k] ↔ v ∈ instrUses i ∧ v.write = true := fun v => by rw [← hw, List.mem_filter]
  obtain ⟨hu, huw⟩ := (mem _).mp (List.mem_singleton.mpr rfl)
  exact ⟨e, he, hop, _, hu, huw, rfl, fun v hv hvw => by rw [List.mem_singleton.mp ((mem v).mpr ⟨hv, hvw⟩)]⟩

/-- A lane by lane instruction completes with the values it computes. -/
theorem computes_laneMap {i : Instr} {d : Reg} {w : Nat} {val : Iss → Nat → Nat} (h : WritesOnly i d) (hw : w ≤ 4)
    (hx : ∀ s, exec i s = runReg i (fun q => laneMap q i d w (val q)) s) : Computes i d w val := by
  obtain ⟨e, he, hop, u, hu, huw, hud, hall⟩ := h.uses
  exact computes_of_answers hx (by rw [he]; rfl) hw (answers_laneMap he hu huw hud hall hop)

/-- A lane by lane instruction completes with values that equal those it computes. -/
theorem computes_of_eq {i : Instr} {d : Reg} {w : Nat} {val val' : Iss → Nat → Nat} (h : WritesOnly i d) (hw : w ≤ 4)
    (hx : ∀ s, exec i s = runReg i (fun q => laneMap q i d w (val q)) s) (hv : ∀ q l, val q l = val' q l) :
    Computes i d w val' := by
  have e : val = val' := funext fun q => funext (hv q)
  exact e ▸ computes_laneMap h hw hx

theorem intW_le (fn : BitVec 3) : intW fn ≤ 4 := by unfold intW; split <;> omega

/-! ## Operands fit their registers -/

theorem sum_words_lt (f : Nat → Word) (w : Nat) :
    ((List.range w).map fun i => (f i).toNat * 2 ^ (32 * i)).sum < 2 ^ (32 * w) := by
  induction w with
  | zero => simp
  | succ w ih =>
    rw [List.range_succ, List.map_append, List.sum_append, Nat.mul_succ, Nat.pow_add]
    simp only [List.map_cons, List.map_nil, List.sum_cons, List.sum_nil, Nat.add_zero]
    have h : (f w).toNat * 2 ^ (32 * w) ≤ (2 ^ 32 - 1) * 2 ^ (32 * w) := Nat.mul_le_mul_right _ (by have := (f w).isLt; omega)
    omega

/-- A register operand is a number of its registers' bits (R10). -/
theorem read_lt (q : Iss) (r : Reg) {w : Nat} (l : Nat) (hw : 1 ≤ w) : q.read r w l < 2 ^ (32 * w) := by
  unfold Iss.read
  split
  · exact sum_words_lt _ w
  split
  · exact (BitVec.isLt _).trans_le (Nat.pow_le_pow_right (by omega) (by omega))
  · unfold Strand.scalars
    split
    · exact Nat.two_pow_pos _
    · exact sum_words_lt _ w

/-- The first source is one too, under any exchange of lanes (R69). -/
theorem srcA_lt (q : Iss) (r : Reg) {w : Nat} (l : Nat) (hw : 1 ≤ w) : q.srcA r w l < 2 ^ (32 * w) := by
  unfold Iss.srcA
  split
  · exact read_lt q r l hw
  · unfold Iss.readOf
    split
    · exact Nat.two_pow_pos _
    · split
      · exact read_lt q r _ hw
      · exact Nat.two_pow_pos _

/-! ## Elements -/

theorem elemAt_eq (n k v : Nat) : elemAt n k v = (elem n k v).toNat := (BitVec.toNat_ofNat ..).symm

theorem elem_zero (n v : Nat) : elem n 0 v = BitVec.ofNat n v := by simp [elem]

theorem toNat_elem_zero {n v : Nat} (h : v < 2 ^ n) : (elem n 0 v).toNat = v := by
  rw [elem_zero, BitVec.toNat_ofNat, Nat.mod_eq_of_lt h]

/-- Elements joined are the elements packed when each agrees in its bits. -/
theorem joinElems_eq_packed {n : Nat} (c : Nat) {f : Nat → Nat} {g : Nat → BitVec n} (h : ∀ k, f k % 2 ^ n = (g k).toNat) :
    joinElems n ((List.range c).map f) = packed n c g := by
  unfold packed
  induction List.range c with
  | nil => rfl
  | cons k ks ih => simp only [List.map_cons, joinElems, ih, h, Nat.mod_eq_of_lt (g k).isLt]

theorem packed_one (n : Nat) (f : Nat → BitVec n) : packed n 1 f = (f 0).toNat := by
  have h : packed n 1 f = (f 0).toNat % 2 ^ n := rfl
  rw [h, Nat.mod_eq_of_lt (f 0).isLt]

theorem perElem_eq_zipElems {ty : IntTy} {f : Nat → Nat → Nat} {g : BitVec ty.n → BitVec ty.n → BitVec ty.n} (a b : Nat)
    (h : ∀ x y : BitVec ty.n, f x.toNat y.toNat % 2 ^ ty.n = (g x y).toNat) : perElem ty f a b = zipElems ty g a b :=
  joinElems_eq_packed _ fun k => by rw [elemAt_eq, elemAt_eq, h]

/-! ## Integers and bit vectors -/

theorem wrapN_eq (n : Nat) (z : Int) : wrapN n z = (BitVec.ofInt n z).toNat := (BitVec.toNat_ofInt z).symm

theorem signed_eq (n v : Nat) : signed n v = (BitVec.ofNat n v).toInt := by
  unfold signed
  rw [BitVec.toInt_eq_toNat_cond, BitVec.toNat_ofNat]
  cases n with
  | zero => simp [Nat.mod_one]
  | succ n =>
    have h : (2 : Nat) ^ (n + 1) = 2 * 2 ^ n := by rw [Nat.pow_succ]; omega
    rw [show n + 1 - 1 = n from rfl, h]
    split <;> split <;> omega

theorem IntTy.val_eq (ty : IntTy) (v : Nat) : ty.val v = ty.int (BitVec.ofNat ty.n v) := by
  unfold IntTy.val IntTy.int
  rw [signed_eq, BitVec.toNat_ofNat]

theorem IntTy.val_elemAt (ty : IntTy) (k v : Nat) : ty.val (elemAt ty.n k v) = ty.int (elem ty.n k v) := by
  rw [IntTy.val_eq, elemAt_eq, BitVec.ofNat_toNat, BitVec.setWidth_eq]

theorem IntTy.lo_le_hi (ty : IntTy) : ty.lo ≤ ty.hi := by
  unfold IntTy.lo IntTy.hi
  have h1 := Nat.two_pow_pos (ty.n - 1)
  have h2 := Nat.two_pow_pos ty.n
  split <;> omega

theorem clampInt_eq {lo hi : Int} (h : lo ≤ hi) (z : Int) : clampInt lo hi z = max lo (min hi z) := by
  unfold clampInt
  split
  · omega
  · split <;> omega

/-- An exact result fitted to its type (R35). -/
theorem IntTy.fit_eq (ty : IntTy) (sat : Bool) (z : Int) :
    ty.fit sat z = (if sat then ty.clamp z else BitVec.ofInt ty.n z).toNat := by
  unfold IntTy.fit IntTy.clamp
  rw [wrapN_eq, clampInt_eq ty.lo_le_hi]
  cases sat <;> rfl

/-! ## Shifts -/

theorem shlN_eq (n v c : Nat) : shlN n v c = (BitVec.ofNat n v <<< c).toNat := by
  unfold shlN
  rw [BitVec.toNat_shiftLeft, BitVec.toNat_ofNat, Nat.shiftLeft_eq]
  split
  · next h =>
    obtain ⟨k, rfl⟩ := Nat.exists_eq_add_of_le h
    rw [Nat.pow_add, ← Nat.mul_assoc, Nat.mul_right_comm, Nat.mul_mod_left]
  · rw [Nat.mod_mul_mod]

theorem shrN_eq (n v c : Nat) : shrN n v c = (BitVec.ofNat n v >>> c).toNat := by
  unfold shrN
  rw [BitVec.toNat_ushiftRight, BitVec.toNat_ofNat, Nat.shiftRight_eq_div_pow]
  split
  · next h => exact (Nat.div_eq_of_lt ((Nat.mod_lt _ (Nat.two_pow_pos n)).trans_le (Nat.pow_le_pow_right (by omega) h))).symm
  · rfl

/-- An n-bit integer divided by 2^n or more is its sign. -/
theorem toInt_div_of_le {n d : Nat} (x : BitVec n) (hd : 2 ^ n ≤ d) : x.toInt / (d : Int) = if x.toInt < 0 then -1 else 0 := by
  have hlo := @BitVec.le_two_mul_toInt n x
  have hhi := @BitVec.two_mul_toInt_lt n x
  have hd' : (2 : Int) ^ n ≤ d := by exact_mod_cast hd
  split
  · exact Int.ediv_eq_neg_one_of_neg_of_le (by omega) (by omega)
  · exact Int.ediv_eq_zero_of_lt (by omega) (by omega)

/-- So the count of an arithmetic shift may be cut to the width. -/
theorem toInt_div_pow_min {n : Nat} (x : BitVec n) (c : Nat) :
    x.toInt / ((2 ^ min c n : Nat) : Int) = x.toInt / ((2 ^ c : Nat) : Int) := by
  rcases Nat.le_total c n with h | h
  · rw [Nat.min_eq_left h]
  · rw [Nat.min_eq_right h, toInt_div_of_le x (Nat.le_refl _), toInt_div_of_le x (Nat.pow_le_pow_right (by omega) h)]

theorem sraN_eq (n v c : Nat) : sraN n v c = ((BitVec.ofNat n v).sshiftRight c).toNat := by
  unfold sraN
  rw [signed_eq, wrapN_eq, ← BitVec.ofInt_toInt (x := (BitVec.ofNat n v).sshiftRight c), BitVec.toInt_sshiftRight,
    Int.shiftRight_eq_div_pow, ← toInt_div_pow_min]
  push_cast
  rfl

theorem rotlN_eq {n : Nat} (hn : 0 < n) (v c : Nat) : rotlN n v c = ((BitVec.ofNat n v).rotateLeft c).toNat := by
  unfold rotlN
  dsimp only
  rw [BitVec.toNat_rotateLeft, BitVec.toNat_ofNat, Nat.shiftLeft_eq, Nat.shiftRight_eq_div_pow, Nat.mod_mul_mod]
  obtain ⟨m, hm⟩ := Nat.exists_eq_add_of_lt (Nat.mod_lt c hn)
  generalize c % n = k at hm
  have hlow : v % 2 ^ n / 2 ^ (n - k) < 2 ^ k := by
    rw [Nat.div_lt_iff_lt_mul (Nat.two_pow_pos _), ← Nat.pow_add, show k + (n - k) = n by omega]
    exact Nat.mod_lt _ (Nat.two_pow_pos n)
  generalize v % 2 ^ n / 2 ^ (n - k) = x at hlow ⊢
  have hpow : 2 ^ n = 2 ^ k * 2 ^ (m + 1) := by rw [← Nat.pow_add, hm, Nat.add_assoc]
  have hhigh : v * 2 ^ k % 2 ^ n = 2 ^ k * (v % 2 ^ (m + 1)) := by rw [hpow, Nat.mul_comm v, Nat.mul_mod_mul_left]
  rw [hhigh, ← Nat.two_pow_add_eq_or_of_lt hlow, ← hhigh, ← Nat.mod_add_mod, Nat.mod_eq_of_lt]
  have hfit : 2 ^ k * (v % 2 ^ (m + 1) + 1) ≤ 2 ^ k * 2 ^ (m + 1) :=
    Nat.mul_le_mul_left _ (Nat.mod_lt v (Nat.two_pow_pos (m + 1)))
  rw [hhigh, hpow]
  rw [Nat.mul_succ] at hfit
  omega

/-! ## Bits -/

theorem bitAt_eq (v i : Nat) : bitAt v i = v.testBit i := by
  rw [Nat.testBit_eq_decide_div_mod_eq]; rfl

theorem getLsbD_ofNat_of_lt {n i : Nat} (v : Nat) (h : i < n) : (BitVec.ofNat n v).getLsbD i = v.testBit i := by
  rw [BitVec.getLsbD_ofNat]; simp [h]

/-- A number of 32 bits is known by its bits. -/
theorem eq_wordOfBits {v : Nat} {f : Nat → Bool} (hv : v < 2 ^ 32) (h : ∀ j < 32, v.testBit j = f j) : v = wordOfBits f := by
  refine Nat.eq_of_testBit_eq fun j => ?_
  unfold wordOfBits
  rw [BitVec.testBit_toNat, BitVec.getLsbD_ofFnLE]
  split
  · next hj => exact h j hj
  · next hj => exact Nat.testBit_lt_two_pow (hv.trans_le (Nat.pow_le_pow_right (by omega) (by omega)))

theorem popN_eq (n v : Nat) : popN n v = (List.range n).countP fun k => (BitVec.ofNat n v).getLsbD k := by
  unfold popN
  rw [← List.countP_eq_length_filter]
  refine List.countP_congr fun k hk => ?_
  rw [bitAt_eq, getLsbD_ofNat_of_lt v (List.mem_range.mp hk)]

/-- The low bits of a number as a sum of powers of two. -/
theorem sum_bits_eq_mod (v n : Nat) : (∑ i ∈ Finset.range n, if v.testBit i then 2 ^ i else 0) = v % 2 ^ n := by
  induction n with
  | zero => simp [Nat.mod_one]
  | succ n ih =>
    rw [Finset.sum_range_succ, ih, Nat.mod_pow_succ, ← Nat.toNat_testBit]
    cases v.testBit n <;> simp

theorem revN_eq (n v : Nat) : revN n v = (BitVec.ofNat n v).reverse.toNat := by
  have hsum : revN n v = ∑ i ∈ Finset.range n, if bitAt v i then 2 ^ (n - 1 - i) else 0 := rfl
  have hrev : (BitVec.ofNat n v).reverse.toNat =
      ∑ i ∈ Finset.range n, if (BitVec.ofNat n v).reverse.toNat.testBit i then 2 ^ i else 0 := by
    rw [sum_bits_eq_mod, Nat.mod_eq_of_lt (BitVec.isLt _)]
  rw [hsum, hrev, ← Finset.sum_range_reflect]
  refine Finset.sum_congr rfl fun j hj => ?_
  have hj := Finset.mem_range.mp hj
  rw [BitVec.testBit_toNat, BitVec.getLsbD_reverse, BitVec.getMsbD_eq_getLsbD, bitAt_eq,
    getLsbD_ofNat_of_lt v (by omega), show n - 1 - (n - 1 - j) = j by omega]
  simp [hj]

theorem clzN_eq {n : Nat} (v : Nat) (hn : 0 < n) : clzN n v = (BitVec.ofNat n v).clz.toNat := by
  unfold clzN
  have hx : (BitVec.ofNat n v).toNat = v % 2 ^ n := BitVec.toNat_ofNat ..
  rw [← hx]
  generalize BitVec.ofNat n v = x
  by_cases h0 : x = 0
  · rw [if_pos (by rw [h0]; rfl), BitVec.clz_eq_iff_eq_zero.mpr h0]
    simp [Nat.mod_eq_of_lt Nat.lt_two_pow_self]
  · have h0' : x.toNat ≠ 0 := fun h => h0 (BitVec.eq_of_toNat_eq h)
    have hlo := BitVec.two_pow_sub_clz_le_toNat_of_ne_zero hn h0
    have hhi := @BitVec.toNat_lt_two_pow_sub_clz n x
    have hc := BitVec.lt_def.mp (BitVec.clz_lt_iff_ne_zero.mpr h0)
    simp only [BitVec.natCast_eq_ofNat, BitVec.toNat_ofNat, Nat.mod_eq_of_lt Nat.lt_two_pow_self] at hc
    rw [if_neg h0', (Nat.log2_eq_iff h0').mpr ⟨hlo, by rwa [show n - 1 - x.clz.toNat + 1 = n - x.clz.toNat by omega]⟩]
    omega

/-! ## Bit fields -/

theorem fieldLen_bounds (l : Nat) : 1 ≤ fieldLen l ∧ fieldLen l ≤ 32 := by
  unfold fieldLen
  split <;> omega

/-- A bit field taken out with zeros above it (R95, R107). -/
theorem extractField_zero (a pos : Nat) {len : Nat} (hlen : len ≤ 32) : extractField false a pos len =
    wordOfBits fun j => decide (j < len ∧ pos + j < 32) && (BitVec.ofNat 32 a).getLsbD (pos + j) := by
  have ht : extractField false a pos len = a % 2 ^ 32 / 2 ^ pos % 2 ^ len := rfl
  rw [ht]
  refine eq_wordOfBits ((Nat.mod_lt _ (Nat.two_pow_pos len)).trans_le (Nat.pow_le_pow_right (by omega) hlen)) fun j _ => ?_
  rw [Nat.testBit_mod_two_pow, Nat.testBit_div_two_pow, Nat.testBit_mod_two_pow, BitVec.getLsbD_ofNat]
  by_cases h1 : j < len <;> by_cases h2 : pos + j < 32 <;> simp [h1, h2, Nat.add_comm j pos]

/-- A bit field taken out with its top bit above it; bits beyond the source are the source's sign (R95). -/
theorem extractField_sign (a : Nat) {pos len : Nat} (hpos : pos ≤ 31) (hlen : 1 ≤ len ∧ len ≤ 32) : extractField true a pos len =
    wordOfBits fun j => let k := min j (len - 1)
      if pos + k ≤ 31 then (BitVec.ofNat 32 a).getLsbD (pos + k) else (BitVec.ofNat 32 a).msb := by
  have ht : extractField true a pos len =
      ((BitVec.ofNat len (((BitVec.ofNat 32 a).signExtend 64).toNat / 2 ^ pos % 2 ^ len)).signExtend 32).toNat := by
    show sext32 len (wrapN 64 (signed 32 a) / 2 ^ pos % 2 ^ len) = _
    unfold sext32
    rw [wrapN_eq, wrapN_eq, signed_eq, signed_eq]
    rfl
  rw [ht]
  refine eq_wordOfBits (BitVec.isLt _) fun j hj => ?_
  have hbit : ∀ k < len, (BitVec.ofNat len (((BitVec.ofNat 32 a).signExtend 64).toNat / 2 ^ pos % 2 ^ len)).getLsbD k =
      if pos + k ≤ 31 then (BitVec.ofNat 32 a).getLsbD (pos + k) else (BitVec.ofNat 32 a).msb := by
    intro k hk
    have h64 : pos + k < 64 := by omega
    rw [getLsbD_ofNat_of_lt _ hk, Nat.testBit_mod_two_pow, Nat.testBit_div_two_pow, BitVec.testBit_toNat,
      BitVec.getLsbD_signExtend]
    simp [hk, h64, Nat.add_comm k pos, Nat.lt_succ_iff]
  rw [BitVec.testBit_toNat, BitVec.getLsbD_signExtend, BitVec.msb_eq_getLsbD_last]
  by_cases h : j < len
  · rw [if_pos h, hbit j h, Nat.min_eq_left (by omega)]
    simp [hj]
  · rw [if_neg h, hbit (len - 1) (by omega), Nat.min_eq_right (by omega)]
    simp [hj]

/-- A bit field put in (R96, R107). -/
theorem insertField_eq (old v pos len : Nat) : insertField old v pos len =
    wordOfBits fun j => if pos ≤ j ∧ j < pos + len then (BitVec.ofNat 32 v).getLsbD (j - pos) else (BitVec.ofNat 32 old).getLsbD j := by
  have hmsk : (2 ^ len - 1) * 2 ^ pos % 2 ^ 32 < 2 ^ 32 := Nat.mod_lt _ (by omega)
  have hbit : ∀ j < 32, ((2 ^ len - 1) * 2 ^ pos % 2 ^ 32).testBit j = decide (pos ≤ j ∧ j < pos + len) := by
    intro j hj
    rw [Nat.testBit_mod_two_pow, Nat.testBit_mul_two_pow, Nat.testBit_two_pow_sub_one]
    by_cases h1 : pos ≤ j <;> by_cases h2 : j < pos + len <;> simp [hj, h1] <;> omega
  unfold insertField
  simp only
  generalize (2 ^ len - 1) * 2 ^ pos % 2 ^ 32 = msk at hmsk hbit
  have hnot : (2 ^ 32 - 1 - msk) < 2 ^ 32 := by omega
  refine eq_wordOfBits (Nat.or_lt_two_pow (Nat.and_lt_two_pow _ hnot) (Nat.and_lt_two_pow _ hmsk)) fun j hj => ?_
  rw [Nat.testBit_or, Nat.testBit_and, Nat.testBit_and, hbit j hj, show 2 ^ 32 - 1 - msk = 2 ^ 32 - (msk + 1) by omega,
    Nat.testBit_two_pow_sub_succ hmsk, hbit j hj, Nat.testBit_mod_two_pow, Nat.testBit_mul_two_pow,
    getLsbD_ofNat_of_lt _ (by omega), getLsbD_ofNat_of_lt _ hj]
  by_cases h : pos ≤ j ∧ j < pos + len
  · simp [hj, h]
  · simp [hj, h]

end Sys2Proof.Machine

namespace Sys2Proof.Machine

/-! ## Logic, shifts, bit counts and bit fields (R93 to R96) -/

theorem intTy_n_pos (fn : BitVec 3) : 0 < (intTy fn).n := by
  unfold intTy
  split <;> decide

/-- An element operation of two sources completes with the elements of the operation on bit vectors (R93). -/
theorem computes_intBinary {i : Instr} {w : FmtA} (f : IntTy → Bool → Nat → Nat → Nat)
    {g : BitVec (intTy w.fn).n → BitVec (intTy w.fn).n → BitVec (intTy w.fn).n} (h : WritesOnly i w.d)
    (hx : ∀ s, exec i s = intBinary i w f s)
    (hf : ∀ sat, ∀ x y : BitVec (intTy w.fn).n, f (intTy w.fn) sat x.toNat y.toNat = (g x y).toNat) :
    Computes i w.d (intW w.fn) fun q l => zipElems (intTy w.fn) g (q.srcA w.a (intW w.fn) l) (q.read w.b (intW w.fn) l) :=
  computes_of_eq h (intW_le _) hx fun q l =>
    perElem_eq_zipElems _ _ fun x y => by rw [hf, Nat.mod_eq_of_lt (BitVec.isLt _)]

/-- A shift by the whole of b, or by its elements, completes with the shift on bit vectors (R35, R93). -/
theorem computes_intShift {i : Instr} {w : FmtA} (f : Nat → Nat → Nat → Nat)
    {g : BitVec (intTy w.fn).n → Nat → BitVec (intTy w.fn).n}
    (h : WritesOnly i w.d) (hx : ∀ s, exec i s = intShift i w f s)
    (hf : ∀ v c, f (intTy w.fn).n v c = (g (BitVec.ofNat _ v) c).toNat) :
    Computes i w.d (intW w.fn) fun q l => packed (intTy w.fn).n (intTy w.fn).count fun k =>
      g (elem (intTy w.fn).n k (q.srcA w.a (intW w.fn) l))
        (if (intTy w.fn).count = 1 then q.read w.b 1 l else (elem (intTy w.fn).n k (q.read w.b 1 l)).toNat) := by
  refine computes_of_eq h (intW_le _) hx fun q l => ?_
  dsimp only
  split
  · next hc => rw [hc, packed_one, hf, elem_zero]
  · exact joinElems_eq_packed _ fun k => by
      rw [hf, elemAt_eq, elemAt_eq, BitVec.ofNat_toNat, BitVec.setWidth_eq, Nat.mod_eq_of_lt (BitVec.isLt _)]

/-- A one-source instruction completes with the function of its first element (R94). -/
theorem computes_intUnary {i : Instr} {w : FmtA} (wd : Nat) (f : Nat → Nat → Nat) (g : BitVec (intTy w.fn).n → Nat)
    (h : WritesOnly i w.d) (hw : wd ≤ 4) (hx : ∀ s, exec i s = intUnary i w wd f s)
    (hf : ∀ v, f (intTy w.fn).n v = g (BitVec.ofNat _ v)) :
    Computes i w.d wd fun q l => g (elem (intTy w.fn).n 0 (q.srcA w.a (intW w.fn) l)) :=
  computes_of_eq h hw hx fun q l => by rw [hf, elem_zero]

theorem fieldLen_bitsAt (v : Nat) : fieldLen (bitsAt v 8 5) = if v / 256 % 32 = 0 then 32 else v / 256 % 32 := by
  unfold fieldLen bitsAt
  rw [show 2 ^ 8 = 256 from rfl, show 2 ^ 5 = 32 from rfl, Nat.mod_mod]

theorem bitsAt_pos (v : Nat) : bitsAt v 0 5 = v % 32 := by simp [bitsAt]

/-- BFE completes with the field that b names, its sign above it when fn is 0 (R95). -/
theorem computes_bfe (p : Option Pfx) (w : FmtA) : Computes (.bfe p w) w.d 1 fun q l =>
    let a := elem 32 0 (q.srcA w.a 1 l)
    let pos := q.read w.b 1 l % 32
    let len := if q.read w.b 1 l / 256 % 32 = 0 then 32 else q.read w.b 1 l / 256 % 32
    wordOfBits fun j =>
      let k := if w.fn = 0 then min j (len - 1) else j
      if len ≤ k then false else if pos + k ≤ 31 then a.getLsbD (pos + k) else w.fn == 0 && a.msb := by
  refine computes_of_eq ⟨rfl, _, _, rfl⟩ (by decide) (fun _ => rfl) fun q l => ?_
  have hlen := fieldLen_bounds (bitsAt (q.read w.b 1 l) 8 5)
  dsimp only
  rw [elem_zero, bitsAt_pos, ← fieldLen_bitsAt]
  have hpos : q.read w.b 1 l % 32 ≤ 31 := by omega
  generalize q.read w.b 1 l % 32 = pos at hpos
  generalize fieldLen (bitsAt (q.read w.b 1 l) 8 5) = len at hlen
  by_cases hfn : w.fn = 0
  · have hsgn : (w.fn == 0) = true := by simpa using hfn
    rw [hsgn, extractField_sign _ hpos hlen]
    congr 1
    funext j
    have hk : ¬len ≤ min j (len - 1) := by omega
    simp only [if_pos hfn, if_neg hk, Bool.true_and]
  · have hsgn : (w.fn == 0) = false := by simpa using hfn
    rw [hsgn, extractField_zero _ _ hlen.2]
    congr 1
    funext j
    simp only [if_neg hfn, Bool.false_and]
    by_cases h1 : len ≤ j
    · simp [h1, Nat.not_lt.mpr h1]
    · by_cases h2 : pos + j ≤ 31
      · simp [h1, h2, Nat.lt_of_not_le h1, Nat.lt_succ_of_le h2]
      · simp [h1, h2, show ¬pos + j < 32 by omega]

/-- BFI completes with b's field put into a, at the place that c names (R96). -/
theorem computes_bfi (p : Option Pfx) (w : FmtA) : Computes (.bfi p w) w.d 1 fun q l =>
    let a := elem 32 0 (q.srcA w.a 1 l)
    let b := elem 32 0 (q.read w.b 1 l)
    let c := q.read (fourth p w.d) 1 l
    let pos := c % 32
    let len := if c / 256 % 32 = 0 then 32 else c / 256 % 32
    wordOfBits fun j => if pos ≤ j ∧ j < pos + len then b.getLsbD (j - pos) else a.getLsbD j := by
  refine computes_of_eq ⟨rfl, _, _, rfl⟩ (by decide) (fun _ => rfl) fun q l => ?_
  dsimp only
  rw [elem_zero, elem_zero, bitsAt_pos, fieldLen_bitsAt, insertField_eq]

/-- Settles O2: each instruction is a lane by lane function of its operands, and the functions are those of bit vectors. -/
theorem integerLogicAndBitFields : Obligations.IntegerLogicAndBitFields := by
  refine ⟨fun p w => ?_, fun p w => ?_⟩
  · dsimp only
    refine ⟨?and, ?or, ?xor, ?andn, ?shl, ?shr, ?sra, ?rotl⟩
    case and =>
      exact computes_intBinary (fun _ _ a b => a &&& b) ⟨rfl, _, _, rfl⟩ (fun _ => rfl) fun _ x y => (BitVec.toNat_and x y).symm
    case or =>
      exact computes_intBinary (fun _ _ a b => a ||| b) ⟨rfl, _, _, rfl⟩ (fun _ => rfl) fun _ x y => (BitVec.toNat_or x y).symm
    case xor =>
      exact computes_intBinary (fun _ _ a b => a ^^^ b) ⟨rfl, _, _, rfl⟩ (fun _ => rfl) fun _ x y => (BitVec.toNat_xor x y).symm
    case andn =>
      exact computes_intBinary (fun ty _ a b => a &&& (2 ^ ty.n - 1 - b)) ⟨rfl, _, _, rfl⟩ (fun _ => rfl) fun _ x y => by
        rw [BitVec.toNat_and, BitVec.toNat_not]
    case shl => exact computes_intShift shlN ⟨rfl, _, _, rfl⟩ (fun _ => rfl) (shlN_eq _)
    case shr => exact computes_intShift shrN ⟨rfl, _, _, rfl⟩ (fun _ => rfl) (shrN_eq _)
    case sra => exact computes_intShift sraN ⟨rfl, _, _, rfl⟩ (fun _ => rfl) (sraN_eq _)
    case rotl => exact computes_intShift rotlN ⟨rfl, _, _, rfl⟩ (fun _ => rfl) (rotlN_eq (intTy_n_pos _))
  · refine ⟨?clz, ?popc, ?brev, computes_bfe p w, computes_bfi p w⟩
    case clz =>
      exact computes_intUnary 1 clzN (fun x => x.clz.toNat) ⟨rfl, _, _, rfl⟩ (by decide) (fun _ => rfl)
        fun v => clzN_eq v (intTy_n_pos _)
    case popc =>
      exact computes_intUnary 1 popN (fun x => (List.range (intTy w.fn).n).countP fun k => x.getLsbD k)
        ⟨rfl, _, _, rfl⟩ (by decide) (fun _ => rfl) (popN_eq _)
    case brev =>
      exact computes_intUnary (intW w.fn) revN (fun x => x.reverse.toNat) ⟨rfl, _, _, rfl⟩ (intW_le _) (fun _ => rfl) (revN_eq _)

end Sys2Proof.Machine

namespace Sys2Proof.Machine

/-! ## Selections, comparisons, addresses, bytes and wide arithmetic (R97 to R104, R109) -/

/-- The condition codes of R67 on numbers are those on words. -/
theorem condHolds_eq (c : BitVec 3) (a b : Nat) : condHolds c.toNat a b = Holds c (BitVec.ofNat 32 a) (BitVec.ofNat 32 b) := by
  have heq : (a % 2 ^ 32 == b % 2 ^ 32) = (BitVec.ofNat 32 a == BitVec.ofNat 32 b) := by
    rw [Bool.eq_iff_iff, beq_iff_eq, beq_iff_eq, ← BitVec.toNat_inj, BitVec.toNat_ofNat, BitVec.toNat_ofNat]
  unfold condHolds Holds
  simp only [signed_eq]
  rcases c.toNat with _ | _ | n
  · exact heq
  · exact congrArg not heq
  · rcases n with _ | _ | _ | _ | _ | _ <;> rfl

/-- The element result of CMP: all ones, 0 or 1 (R98). -/
theorem cmp_elem (n : Nat) (x y : Int) : (if x < y then 2 ^ n - 1 else if x = y then 0 else 1) % 2 ^ n =
    (BitVec.ofInt n (if x < y then -1 else if x = y then 0 else 1)).toNat := by
  split
  · rw [BitVec.ofInt_neg, BitVec.ofInt_ofNat, BitVec.neg_one_eq_allOnes, BitVec.toNat_allOnes]
    exact Nat.mod_eq_of_lt (Nat.sub_one_lt (Nat.two_pow_pos n).ne')
  · split <;> simp

/-- A byte picked by a selector of four bits from two words (R103). -/
theorem permByte_eq {a b : Nat} (ha : a < 2 ^ 32) (hb : b < 2 ^ 32) (c k : Nat) : permByte (a + 2 ^ 32 * b) c k % 2 ^ 8 =
    (let src := elem 32 0 b ++ elem 32 0 a
     let sel := elem 4 k c
     let byte := src.extractLsb' (8 * (sel.toNat % 8)) 8
     if sel.msb then (if byte.msb then 255 else 0) else byte).toNat := by
  have hsrc : a + 2 ^ 32 * b = (elem 32 0 b ++ elem 32 0 a).toNat := by
    rw [BitVec.toNat_append, toNat_elem_zero hb, toNat_elem_zero ha, Nat.shiftLeft_eq, Nat.mul_comm b,
      ← Nat.two_pow_add_eq_or_of_lt ha, Nat.add_comm]
  have hsel : bitsAt c (4 * k) 4 = (elem 4 k c).toNat := (BitVec.toNat_ofNat ..).symm
  unfold permByte
  dsimp only
  rw [hsrc, hsel, BitVec.msb_eq_decide, BitVec.msb_eq_decide]
  generalize elem 4 k c = sel
  generalize elem 32 0 b ++ elem 32 0 a = src
  have hbyte : elemAt 8 (sel.toNat % 8) src.toNat = (src.extractLsb' (8 * (sel.toNat % 8)) 8).toNat := by
    rw [BitVec.extractLsb'_toNat, Nat.shiftRight_eq_div_pow]; rfl
  rw [hbyte]
  generalize src.extractLsb' (8 * (sel.toNat % 8)) 8 = byte
  have hlt : byte.toNat < 256 := byte.isLt
  by_cases h1 : 8 ≤ sel.toNat
  · by_cases h2 : 128 ≤ byte.toNat <;> simp [h1, h2]
  · simp [h1, Nat.mod_eq_of_lt hlt]

/-- A 32-bit source as fn extends it to 64 bits (R109). -/
theorem wideVal_eq (fn : BitVec 3) (v : Nat) :
    wideVal fn v = (if fn = 0 then (elem 32 0 v).signExtend 64 else (elem 32 0 v).setWidth 64).toInt := by
  unfold wideVal
  rw [elem_zero]
  split
  · rw [BitVec.toInt_signExtend_of_le (by decide), signed_eq]
  · have hv : ((BitVec.ofNat 32 v).setWidth 64).toNat = v % 2 ^ 32 := by
      rw [BitVec.toNat_setWidth_of_le (by decide), BitVec.toNat_ofNat]
    have hlt := Nat.mod_lt v (Nat.two_pow_pos 32)
    rw [BitVec.toInt_eq_toNat_of_lt (by rw [hv]; omega), hv]

/-- An element put back from the integer it stands for. -/
theorem ofInt_int (ty : IntTy) (x : BitVec ty.n) : BitVec.ofInt ty.n (ty.int x) = x := by
  unfold IntTy.int
  split
  · exact BitVec.ofInt_toInt
  · rw [BitVec.ofInt_natCast, BitVec.ofNat_toNat, BitVec.setWidth_eq]

theorem issues_prefix {s : State} {i : Instr} {q : Iss} (h : Issues s i q) {e : Option Pfx × Shape} (hsh : i.shape = some e) :
    q.p = e.1 := by
  obtain ⟨q0, _, he⟩ := issues_issuer h
  rw [← he]
  unfold Iss.enter
  simp [hsh]

theorem Pfx.satFits_of_fits {p : Pfx} {sh : Shape} (h : p.fits sh = true) (hs : p.sat = true) : satFits sh = true := by
  unfold Pfx.fits at h
  simp only [Bool.and_eq_true] at h
  obtain ⟨⟨⟨⟨-, hsat⟩, -⟩, -⟩, -⟩ := h
  rw [hs, Bool.not_true, Bool.false_or, Bool.and_eq_true] at hsat
  exact hsat.2

/-- An instruction that issues under sat is of a type that allows it (R71). -/
theorem satFits_of_sat {s : State} {i : Instr} {q : Iss} (h : Issues s i q) {e : Option Pfx × Shape} (hsh : i.shape = some e)
    (hs : q.sat = true) : satFits e.2 = true := by
  obtain ⟨p, sh⟩ := e
  have hwf := h.wf
  unfold Instr.wf at hwf
  unfold Iss.sat at hs
  rw [issues_prefix h hsh] at hs
  rw [hsh] at hwf
  simp only [Bool.and_eq_true] at hwf
  cases p with
  | none => simp at hs
  | some p => exact Pfx.satFits_of_fits (Bool.and_eq_true_iff.mp hwf.2).2 hs

/-- LEA completes with the sum of a base and a scaled index (R100). -/
theorem computes_lea (p : Option Pfx) (w : FmtA) : Computes (.lea p w) w.d 2 fun q l =>
    (elem 64 0 (q.srcA w.a 2 l) + elem 64 0 (q.read w.b 2 l) <<< w.fn.toNat).toNat :=
  computes_of_eq ⟨rfl, _, _, rfl⟩ (by decide) (fun _ => rfl) fun q l => by
    rw [BitVec.toNat_add, BitVec.toNat_shiftLeft, Nat.shiftLeft_eq, toNat_elem_zero (srcA_lt (w := 2) q _ l (by decide)),
      toNat_elem_zero (read_lt (w := 2) q _ l (by decide)), Nat.add_mod_mod]

/-- DOT4 completes with the exact sum fitted to 32 bits (R35, R104). -/
theorem computes_dot4 (p : Option Pfx) (w : FmtA) : Computes (.dot4 p w) w.d 1 fun q l =>
    let ty := intTy w.fn
    let out : IntTy := { n := 32, count := 1, sgn := ty.sgn }
    let z := out.int (elem 32 0 (q.read (fourth p w.d) 1 l)) + ((List.range ty.count).map fun k =>
      ty.int (elem ty.n k (q.srcA w.a 1 l)) * ty.int (elem ty.n k (q.read w.b 1 l))).sum
    (if q.sat then out.clamp z else BitVec.ofInt 32 z : BitVec 32).toNat :=
  computes_of_eq ⟨rfl, _, _, rfl⟩ (by decide) (fun _ => rfl) fun q l => by
    dsimp only
    rw [IntTy.fit_eq, IntTy.val_eq, elem_zero]
    simp only [IntTy.val_elemAt]

/-- CMP completes with an element for each pair of elements compared (R98). -/
theorem computes_cmp (p : Option Pfx) (w : FmtA) : Computes (.cmp p w) w.d 1 fun q l =>
    let ty := intTy w.fn
    let out := if ty.n = 64 then 32 else ty.n
    packed out ty.count fun k =>
      let x := ty.int (elem ty.n k (q.srcA w.a (intW w.fn) l))
      let y := ty.int (elem ty.n k (q.read w.b (intW w.fn) l))
      BitVec.ofInt out (if x < y then -1 else if x = y then 0 else 1) :=
  computes_of_eq ⟨rfl, _, _, rfl⟩ (by decide) (fun _ => rfl) fun q l =>
    joinElems_eq_packed _ fun k => by
      dsimp only
      rw [IntTy.val_elemAt, IntTy.val_elemAt, cmp_elem]

/-- MADW completes with the product and c added, clamped under sat, which only the signed form takes (R35, R71, R109). -/
theorem computes_madw (p : Option Pfx) (w : FmtA) : Computes (.madw p w) w.d 2 fun q l =>
    let wide := fun (x : Word) => if w.fn = 0 then x.signExtend 64 else x.setWidth 64
    let a := wide (elem 32 0 (q.srcA w.a 1 l))
    let b := wide (elem 32 0 (q.read w.b 1 l))
    let ty := intTy (if w.fn = 0 then 2 else 3)
    let c := elem 64 0 (q.read (fourth p w.d) 2 l)
    (if q.sat then ty.clamp (a.toInt * b.toInt + c.toInt) else (a * b + c).setWidth _).toNat := by
  refine Computes_congr (by decide) (fun s q hi l => congrArg (· % _) ?_)
    (computes_laneMap ⟨rfl, _, _, rfl⟩ (by decide) fun _ => rfl)
  have hfit := satFits_of_sat hi rfl
  have hsat : (sourced s q (.madw p w)).2.sat = q.sat := by unfold Iss.sat; rw [sourced_p]
  generalize (sourced s q (.madw p w)).2 = q1 at hsat
  dsimp only
  rw [IntTy.fit_eq, wideVal_eq, wideVal_eq, IntTy.val_eq, elem_zero 64]
  have hty : intTy (if w.fn = 0 then 2 else 3) = { n := 64, count := 1, sgn := w.fn == 0 } := by
    by_cases hfn : w.fn = 0
    · rw [if_pos hfn, beq_iff_eq.mpr hfn]; rfl
    · rw [if_neg hfn, beq_eq_false_iff_ne.mpr hfn]; rfl
  rw [hty]
  cases hs : q1.sat
  · simp only [Bool.false_eq_true, if_false]
    rw [BitVec.ofInt_add, BitVec.ofInt_mul, BitVec.ofInt_toInt, BitVec.ofInt_toInt,
      ofInt_int { n := 64, count := 1, sgn := w.fn == 0 }, BitVec.setWidth_eq]
  · have hfn : w.fn = 0 := beq_iff_eq.mp (hfit (hsat.symm.trans hs))
    simp only [if_true, IntTy.int, hfn, beq_self_eq_true]

/-- Settles O3: each instruction is a lane by lane function of its operands, and the functions are those of bit vectors. -/
theorem integerSelectionsAndWideArithmetic : Obligations.IntegerSelectionsAndWideArithmetic := by
  refine ⟨fun p w => ?_, fun p w => ?_⟩
  · refine ⟨?sel, computes_cmp p w, ?setcc, computes_lea p w, ?mov, ?prmt, computes_dot4 p w⟩
    case sel => exact computes_of_eq ⟨rfl, _, _, rfl⟩ (intW_le _) (fun _ => rfl) fun q l => ite_not ..
    case setcc =>
      exact computes_of_eq ⟨rfl, _, _, rfl⟩ (by decide) (fun _ => rfl) fun q l => by rw [condHolds_eq, elem_zero, elem_zero]
    case mov => exact computes_laneMap ⟨rfl, _, _, rfl⟩ (intW_le _) fun _ => rfl
    case prmt =>
      exact computes_of_eq ⟨rfl, _, _, rfl⟩ (by decide) (fun _ => rfl) fun q l =>
        joinElems_eq_packed _ (permByte_eq (srcA_lt q _ l (by decide)) (read_lt q _ l (by decide)) _)
  · refine ⟨?mulw, computes_madw p w, ?addp⟩
    case mulw =>
      exact computes_of_eq ⟨rfl, _, _, rfl⟩ (by decide) (fun _ => rfl) fun q l => by
        rw [wideVal_eq, wideVal_eq, wrapN_eq, BitVec.ofInt_mul, BitVec.ofInt_toInt, BitVec.ofInt_toInt]
    case addp =>
      exact computes_of_eq ⟨rfl, _, _, rfl⟩ (by decide) (fun _ => rfl) fun q l => by
        rw [wideVal_eq, wrapN_eq, BitVec.ofInt_add, BitVec.ofInt_toInt, BitVec.ofInt_natCast, elem_zero 64]

end Sys2Proof.Machine

namespace Sys2Proof.Machine

/-! ## Immediates and constants (R105 to R108) -/

theorem wrapN_toInt {m n : Nat} (x : BitVec m) : wrapN n x.toInt = (x.signExtend n).toNat := wrapN_eq n _

theorem imm32_eq (w : FmtB) : imm32 w = (w.imm.signExtend 32).toNat := wrapN_toInt _

theorem toInt_imm (w : FmtB) : (w.imm.signExtend 32).toInt = w.imm.toInt := BitVec.toInt_signExtend_of_le (by decide)

theorem fit_i32 (sat : Bool) (z : Int) : i32.fit sat z = fit32 sat z := IntTy.fit_eq i32 sat z

/-- The smaller of two words (R105). -/
theorem wrapN_min (x y : Word) : wrapN 32 (if x.toInt ≤ y.toInt then x.toInt else y.toInt) = (if x.sle y then x else y).toNat := by
  rw [BitVec.sle_eq_decide]
  by_cases h : x.toInt ≤ y.toInt <;> simp [h, wrapN_toInt]

/-- The larger of two words (R105). -/
theorem wrapN_max (x y : Word) : wrapN 32 (if x.toInt ≤ y.toInt then y.toInt else x.toInt) = (if x.sle y then y else x).toNat := by
  rw [BitVec.sle_eq_decide]
  by_cases h : x.toInt ≤ y.toInt <;> simp [h, wrapN_toInt]

theorem condImm_eq (c : FmtBC) :
    BitVec.ofNat 32 (condImm c) = if 6 ≤ c.cond.toNat then c.imm.setWidth 32 else c.imm.signExtend 32 := by
  unfold condImm
  split
  · rw [BitVec.ofNat_toNat]
  · rw [wrapN_toInt, BitVec.ofNat_toNat, BitVec.setWidth_eq]

theorem fieldLen_toNat (l : BitVec 5) : fieldLen l.toNat = if l = 0 then 32 else l.toNat := by
  unfold fieldLen
  rw [Nat.mod_eq_of_lt l.isLt]
  by_cases h : l = 0
  · simp [h]
  · have h' : l.toNat ≠ 0 := fun e => h (BitVec.eq_of_toNat_eq e)
    rw [if_neg h, if_neg h']

theorem lui_value (x : BitVec 17) : x.toNat * 2 ^ 15 = (x ++ 0#15).toNat := by
  rw [BitVec.toNat_append, Nat.shiftLeft_eq]
  simp

theorem llo_value {v : Nat} (hv : v < 2 ^ 32) (x : BitVec 17) :
    v / 2 ^ 15 * 2 ^ 15 + x.toNat % 2 ^ 15 = ((elem 32 0 v).extractLsb' 15 17 ++ x.extractLsb' 0 15).toNat := by
  have hlow : x.toNat % 2 ^ 15 < 2 ^ 15 := Nat.mod_lt _ (by decide)
  have hhigh : v / 2 ^ 15 < 2 ^ 17 := by omega
  rw [BitVec.toNat_append, BitVec.extractLsb'_toNat, BitVec.extractLsb'_toNat, toNat_elem_zero hv, Nat.shiftRight_eq_div_pow,
    Nat.shiftRight_zero, Nat.mod_eq_of_lt hhigh, Nat.shiftLeft_eq, Nat.mul_comm, Nat.two_pow_add_eq_or_of_lt hlow]

/-! ## FLI: widening a value of .f16 is exact (R108, R157) -/

theorem log2_mul_two_pow {m : Nat} (hm : m ≠ 0) (j : Nat) : (m * 2 ^ j).log2 = m.log2 + j := by
  have hpos : m * 2 ^ j ≠ 0 := Nat.mul_ne_zero hm (Nat.two_pow_pos j).ne'
  rw [Nat.log2_eq_iff hpos]
  have hlo := Nat.log2_self_le hm
  have hhi := @Nat.lt_log2_self m
  constructor
  · rw [Nat.pow_add]; exact Nat.mul_le_mul_right _ hlo
  · rw [Nat.add_right_comm, Nat.pow_add]; exact Nat.mul_lt_mul_of_pos_right hhi (Nat.two_pow_pos j)

/-- A value of no more significant bits than a format has, within its normal range, is rounded to itself (R41). -/
theorem roundFin_exact {f : FFmt} (hf : f.e4m3 = false) (mode : RMode) (sat : Bool) (g : BitVec 24) (neg : Bool) {m : Nat} {e : Int}
    (hm : m ≠ 0) (hbits : m.log2 ≤ f.fbits) (hlo : f.emin ≤ topExp m e) (hhi : topExp m e ≤ f.bias) :
    (f.roundFin mode sat g neg m e).bits = f.encode neg m e := by
  obtain ⟨j, hj⟩ := Nat.exists_eq_add_of_le hbits
  have hq : topExp m e - f.fbits = e - j := by unfold topExp; omega
  have hunits : unitsOf m e (e - j) = { lo := m * 2 ^ j, rem := 0, s := 0 } := by
    unfold unitsOf
    rw [if_pos (by omega), show (e - (e - (j : Int))).toNat = j by omega]
  have hk : m * 2 ^ j ≠ 0 := Nat.mul_ne_zero hm (Nat.two_pow_pos j).ne'
  have hlog : (m * 2 ^ j).log2 = f.fbits := by rw [log2_mul_two_pow hm, hj]
  have htop : topExp (m * 2 ^ j) (e - j) = topExp m e := by unfold topExp; rw [log2_mul_two_pow hm]; push_cast; omega
  have hexc : f.exceeds (m * 2 ^ j) (e - j) = false := by
    have hlt := @Nat.lt_log2_self (m * 2 ^ j)
    rw [hlog] at hlt
    unfold FFmt.exceeds
    simp only [hf, Bool.false_eq_true, if_false]
    rw [if_pos (by omega), decide_eq_false_iff_not]
    have := Nat.le_mul_of_pos_right (2 ^ (f.fbits + 1) - 1) (Nat.two_pow_pos (((f.bias : Int) - f.fbits - (e - j)).toNat))
    omega
  have henc : f.encode neg (m * 2 ^ j) (e - j) = f.encode neg m e := by
    unfold FFmt.encode
    rw [if_neg hk, if_neg hm, htop]
    simp only [hq, hunits, if_neg (not_lt.mpr hlo)]
    simp [unitsOf]
  have hmin : ¬(e - j < f.qmin) := by unfold FFmt.qmin; omega
  unfold FFmt.roundFin
  simp only [if_neg hm, hq, if_neg hmin, hunits, Units.pick, if_true, hexc, Bool.false_eq_true, if_false, henc]

/-- What a finite encoding of .f16 holds (R36). -/
theorem unpack_f16_fin {x : Nat} {neg : Bool} {m : Nat} {e : Int} (h : f16.unpack x = .fin neg m e) :
    m.log2 ≤ 10 ∧ -24 ≤ e ∧ e ≤ 5 := by
  have hm : ∀ k : Nat, k < 2 ^ 11 → k.log2 ≤ 10 := fun k hk => by
    rcases Nat.eq_zero_or_pos k with h0 | h0
    · simp [h0]
    · exact Nat.lt_succ_iff.mp ((Nat.log2_lt h0.ne').mpr hk)
  have he := Nat.mod_lt (x / 2 ^ 10) (Nat.two_pow_pos 5)
  have hx := Nat.mod_lt x (Nat.two_pow_pos 10)
  unfold FFmt.unpack at h
  dsimp only at h
  split at h
  · rw [if_neg (by decide)] at h
    split at h <;> cases h
  · next hones =>
    have h31 : x / 2 ^ 10 % 2 ^ 5 ≠ 31 := fun h => hones ⟨h, .inl (by decide)⟩
    split at h
    · cases h
      exact ⟨hm _ (hx.trans (by decide)), by decide, by decide⟩
    · next hzero =>
      have h0 : x / 2 ^ 10 % 2 ^ 5 ≠ 0 := hzero
      cases h
      have hexp : ((x / 2 ^ f16.fbits % 2 ^ f16.ebits : Nat) : Int) - f16.bias - f16.fbits =
        ((x / 2 ^ 10 % 2 ^ 5 : Nat) : Int) - 15 - 10 := rfl
      rw [hexp]
      exact ⟨hm _ (show 2 ^ 10 + x % 2 ^ 10 < 2 ^ 11 by omega), by omega, by omega⟩

/-- A format as wide as the single and double ones holds every value of .f16: a conversion into it is exact (R157). -/
theorem convertF_f16 {f : FFmt} (hne : f16 ≠ f) (hf : f.e4m3 = false) (hbits : 10 ≤ f.fbits) (hmin : f.emin ≤ -24)
    (hmax : 15 ≤ f.bias) (g : BitVec 24) (x : Nat) : (convertF f16 f .rn false g x).bits =
      match f16.unpack x with
      | .nan _ => f.canonNaN
      | .inf neg => f.inf neg
      | .fin neg v e => if v = 0 then f.signBit neg else f.encode neg v e := by
  unfold convertF
  cases hv : f16.unpack x with
  | nan s => rfl
  | inf neg => rfl
  | fin neg m e =>
    obtain ⟨hlog, hlo, hhi⟩ := unpack_f16_fin hv
    simp only [if_neg hne, FV.toXV]
    by_cases h0 : m = 0
    · simp only [if_pos h0]; rfl
    · simp only [if_neg h0, FFmt.round]
      have hsign : decide ((if neg = true then -(m : Int) else m) < 0) = neg := by cases neg <;> simp; omega
      have habs : (if neg = true then -(m : Int) else m).natAbs = m := by cases neg <;> simp
      rw [hsign, habs]
      exact roundFin_exact hf _ _ _ _ h0 (by omega) (by unfold topExp; omega) (by unfold topExp; omega)

/-- FLI completes with a value of .f16 in the format that bit 16 chooses (R108). -/
theorem computes_fli (p : Option Pfx) (w : FmtU) : Computes (.fli p w) w.d (if w.imm.getLsbD 16 then 2 else 1) fun _ _ =>
    let f := if w.imm.getLsbD 16 then f64 else f32
    match f16.unpack (w.imm.extractLsb' 0 16).toNat with
    | .nan _ => f.canonNaN
    | .inf neg => f.inf neg
    | .fin neg v e => if v = 0 then f.signBit neg else f.encode neg v e := by
  refine computes_of_eq ⟨rfl, _, _, rfl⟩ (by split <;> decide) (fun _ => rfl) fun q l => ?_
  have himm : w.imm.toNat % 2 ^ 16 = (w.imm.extractLsb' 0 16).toNat := by
    rw [BitVec.extractLsb'_toNat, Nat.shiftRight_zero]
  dsimp only
  rw [himm]
  cases w.imm.getLsbD 16
  · exact convertF_f16 (by decide) rfl (by decide) (by decide) (by decide) 1 _
  · exact convertF_f16 (by decide) rfl (by decide) (by decide) (by decide) 1 _

/-! ## Operands that nothing stops -/

/-- Each operand of an instruction that issues is legal by itself (R77). -/
theorem use_ok {s : State} {i : Instr} {q : Iss} (h : Issues s i q) {u : Use} (hu : u ∈ instrUses i) : u.ok q.m q.t = true := by
  unfold instrUses at hu
  split at hu
  · next p sh hsh =>
    have hstop := h.operands _ hsh
    unfold operandStop at hstop
    split at hstop
    · cases hstop
    · next hbad =>
      have := List.find?_eq_none.mp hbad u hu
      simpa using this
  · cases hu

/-- A queue register stands for one register alone; any other field is a multiple of its width (R11, R16). -/
theorem use_aligned {u : Use} {m : Motif} {t : Strand} (h : u.ok m t = true) (hw : u.width ≠ 1) :
    u.reg.isQueue = false ∧ u.reg.toNat % u.width = 0 := by
  unfold Use.ok at h
  cases hq : u.reg.isQueue with
  | true => simp [hq, hw] at h
  | false =>
    simp only [hq, Bool.false_eq_true, if_false, Bool.and_eq_true, decide_eq_true_eq] at h
    exact ⟨rfl, h.2.1⟩

theorem arithTraps_zero (t : Strand) : t.arithTraps 0 = false := by
  unfold Strand.arithTraps
  simp

/-! ## LUIH -/

/-- The odd register of a pair is of the pair's kind. -/
theorem odd_kinds {d : Reg} (he : d.toNat % 2 = 0) (hq : d.isQueue = false) :
    (d + 1).isQueue = false ∧ (d + 1).isVector = d.isVector ∧ (d + 1).isScalar = d.isScalar := by
  have hd := d.isLt
  have h1 : (d + 1).toNat = d.toNat + 1 := by
    rw [BitVec.toNat_add]; exact Nat.mod_eq_of_lt (by simp; omega)
  unfold Reg.isQueue at *
  unfold Reg.isVector Reg.isScalar
  rw [h1]
  simp only [decide_eq_false_iff_not, decide_eq_decide] at *
  omega

/-- LUIH writes the odd register of its pair (R108). -/
theorem computes_luih (p : Option Pfx) {w : FmtU} (hd : w.d ≠ 96) :
    Computes (.luih p w) (w.d + 1) 1 fun _ _ => (w.imm ++ 0#15).toNat := by
  refine computes_of_answers (fun _ => rfl) rfl (by decide) fun s q hi => ?_
  have hu : wr w.d 2 ∈ instrUses (.luih p w) := List.mem_singleton.mpr rfl
  obtain ⟨hq, he⟩ : w.d.isQueue = false ∧ w.d.toNat % 2 = 0 := use_aligned (use_ok hi hu) (show 2 ≠ 1 by decide)
  obtain ⟨hq1, hv1, hs1⟩ := odd_kinds he hq
  have hall : ∀ v ∈ instrUses (.luih p w), v.write = true → v.reg = (wr w.d 2).reg :=
    fun v hv _ => by rw [List.mem_singleton.mp hv]
  obtain ⟨⟨hvec, hsc, -⟩, -⟩ := laneMap_vals hi rfl w.d hu rfl rfl hall rfl fun _ => (w.imm ++ 0#15).toNat
  have hl : (sourced s q (.luih p w)).2.lanes (.luih p w) = q.lanes (.luih p w) := by unfold Iss.lanes; rw [sourced_act]
  refine ⟨_, w.d, ?_, ⟨fun h => hvec (hv1 ▸ h), fun h => hsc (hs1 ▸ h), fun h => ?_⟩, fun h => ?_⟩
  · rw [if_neg hd, lui_value, hl]
  · rw [hq1] at h; cases h
  · rw [hq1] at h; cases h

/-- On the pair s0 LUIH writes nothing (R13, R108). -/
theorem luih_zero (p : Option Pfx) {w : FmtU} (hd : w.d = 96) :
    Effects (.luih p w) (fun _ _ => True) fun q s => putStrand s q q.t := by
  obtain ⟨d, imm⟩ := w
  subst hd
  intro s q hi _
  have hflags : q.t.fflags ||| (0 : Flags).setWidth 32 = q.t.fflags := by simp
  refine runStrand_next (regBody (.luih p ⟨96, imm⟩) _) hi rfl ?_
  show (if q.t.arithTraps 0 then _ else Except.ok (putStrand s q { q.t with fflags := q.t.fflags ||| (0 : Flags).setWidth 32 })) = _
  rw [arithTraps_zero, hflags]
  rfl

/-- An immediate form completes with the function of the word in its source (R105). -/
theorem computes_immOp {i : Instr} {w : FmtB} (f : Iss → Nat → Nat) (g : Iss → Word → Nat) (h : WritesOnly i w.d)
    (hx : ∀ s, exec i s = immOp i w f s) (hf : ∀ q, ∀ a < 2 ^ 32, f q a = g q (elem 32 0 a)) :
    Computes i w.d 1 fun q l => g q (elem 32 0 (q.srcA w.a 1 l)) :=
  computes_of_eq h (by decide) hx fun q l => hf q _ (srcA_lt q _ l (by decide))

/-- An immediate form on a pair completes with the function of the pair in its source (R105). -/
theorem computes_immPair {i : Instr} {w : FmtB} (f : Iss → Nat → Nat) (g : Iss → Dword → Nat) (h : WritesOnly i w.d)
    (hx : ∀ s, exec i s = immPair i w f s) (hf : ∀ q a, f q a = g q (elem 64 0 a)) :
    Computes i w.d 2 fun q l => g q (elem 64 0 (q.srcA w.a 2 l)) :=
  computes_of_eq h (by decide) hx fun q _ => hf q _

/-- Settles O4: each instruction is a lane by lane function of its operands; LUIH writes one register of its pair. -/
theorem immediateForms : Obligations.ImmediateForms := by
  refine ⟨fun p w => ?_, fun p c f w => ?_⟩
  · refine ⟨?addi, ?muli, ?andi, ?ori, ?xori, ?shli, ?shri, ?srai, ?rotli, ?mini, ?maxi, ?addip, ?shlp, ?shrp⟩
    case addi =>
      exact computes_immOp (fun q a => i32.fit q.sat (signed 32 a + w.imm.toInt))
        (fun q x => fit32 q.sat (x.toInt + (w.imm.signExtend 32).toInt))
        ⟨rfl, _, _, rfl⟩ (fun _ => rfl) fun q a _ => by
          rw [signed_eq, fit_i32, toInt_imm, elem_zero]
    case muli =>
      exact computes_immOp (fun q a => i32.fit q.sat (signed 32 a * w.imm.toInt))
        (fun q x => fit32 q.sat (x.toInt * (w.imm.signExtend 32).toInt))
        ⟨rfl, _, _, rfl⟩ (fun _ => rfl) fun q a _ => by
          rw [signed_eq, fit_i32, toInt_imm, elem_zero]
    case andi =>
      exact computes_immOp (fun _ a => a &&& imm32 w) (fun _ x => (x &&& w.imm.signExtend 32).toNat)
        ⟨rfl, _, _, rfl⟩ (fun _ => rfl) fun _ a ha => by
          rw [imm32_eq, BitVec.toNat_and, toNat_elem_zero ha]
    case ori =>
      exact computes_immOp (fun _ a => a ||| imm32 w) (fun _ x => (x ||| w.imm.signExtend 32).toNat)
        ⟨rfl, _, _, rfl⟩ (fun _ => rfl) fun _ a ha => by
          rw [imm32_eq, BitVec.toNat_or, toNat_elem_zero ha]
    case xori =>
      exact computes_immOp (fun _ a => a ^^^ imm32 w) (fun _ x => (x ^^^ w.imm.signExtend 32).toNat)
        ⟨rfl, _, _, rfl⟩ (fun _ => rfl) fun _ a ha => by
          rw [imm32_eq, BitVec.toNat_xor, toNat_elem_zero ha]
    case shli =>
      exact computes_immOp (fun _ a => shlN 32 a w.imm.toNat) (fun _ x => (x <<< w.imm.toNat).toNat)
        ⟨rfl, _, _, rfl⟩ (fun _ => rfl) fun _ a _ => by
          rw [shlN_eq, elem_zero]
    case shri =>
      exact computes_immOp (fun _ a => shrN 32 a w.imm.toNat) (fun _ x => (x >>> w.imm.toNat).toNat)
        ⟨rfl, _, _, rfl⟩ (fun _ => rfl) fun _ a _ => by
          rw [shrN_eq, elem_zero]
    case srai =>
      exact computes_immOp (fun _ a => sraN 32 a w.imm.toNat) (fun _ x => (x.sshiftRight w.imm.toNat).toNat)
        ⟨rfl, _, _, rfl⟩ (fun _ => rfl) fun _ a _ => by
          rw [sraN_eq, elem_zero]
    case rotli =>
      exact computes_immOp (fun _ a => rotlN 32 a w.imm.toNat) (fun _ x => (x.rotateLeft w.imm.toNat).toNat)
        ⟨rfl, _, _, rfl⟩ (fun _ => rfl) fun _ a _ => by
          rw [rotlN_eq (by decide), elem_zero]
    case mini =>
      exact computes_of_eq ⟨rfl, _, _, rfl⟩ (by decide) (fun _ => rfl) fun q l => by
        dsimp only
        rw [signed_eq, ← elem_zero, ← toInt_imm]
        exact wrapN_min _ _
    case maxi =>
      exact computes_of_eq ⟨rfl, _, _, rfl⟩ (by decide) (fun _ => rfl) fun q l => by
        dsimp only
        rw [signed_eq, ← elem_zero, ← toInt_imm]
        exact wrapN_max _ _
    case addip =>
      exact computes_of_eq ⟨rfl, _, _, rfl⟩ (by decide) (fun _ => rfl) fun q l => by
        dsimp only
        rw [signed_eq, IntTy.fit_eq, toInt_imm, elem_zero]
        rfl
    case shlp =>
      exact computes_immPair (fun _ a => shlN 64 a w.imm.toNat) (fun _ x => (x <<< w.imm.toNat).toNat)
        ⟨rfl, _, _, rfl⟩ (fun _ => rfl) fun _ a => by
          rw [shlN_eq, elem_zero]
    case shrp =>
      exact computes_immPair (fun _ a => shrN 64 a w.imm.toNat) (fun _ x => (x >>> w.imm.toNat).toNat)
        ⟨rfl, _, _, rfl⟩ (fun _ => rfl) fun _ a => by
          rw [shrN_eq, elem_zero]
  · refine ⟨?cmpi, ?setcci, ?bfei, ?bfii, ?lui, ?llo, ?movi, computes_fli p w, computes_luih p, luih_zero p⟩
    case cmpi =>
      exact computes_of_eq ⟨rfl, _, _, rfl⟩ (by decide) (fun _ => rfl) fun q l => by rw [condHolds_eq, condImm_eq, elem_zero]
    case setcci =>
      exact computes_of_eq ⟨rfl, _, _, rfl⟩ (by decide) (fun _ => rfl) fun q l => by rw [condHolds_eq, condImm_eq, elem_zero]
    case bfei =>
      exact computes_of_eq ⟨rfl, _, _, rfl⟩ (by decide) (fun _ => rfl) fun q l => by
        rw [extractField_zero _ _ (fieldLen_bounds _).2, fieldLen_toNat, elem_zero]
    case bfii =>
      exact computes_of_eq ⟨rfl, _, _, rfl⟩ (by decide) (fun _ => rfl) fun q l => by
        rw [insertField_eq, fieldLen_toNat, elem_zero, elem_zero]
    case lui => exact computes_of_eq ⟨rfl, _, _, rfl⟩ (by decide) (fun _ => rfl) fun q l => lui_value _
    case llo =>
      exact computes_of_eq ⟨rfl, _, _, rfl⟩ (by decide) (fun _ => rfl) fun q l => llo_value (read_lt q _ l (by decide)) _
    case movi => exact computes_of_eq ⟨rfl, _, _, rfl⟩ (by decide) (fun _ => rfl) fun q l => wrapN_toInt _

end Sys2Proof.Machine

namespace Sys2Proof.Machine

/-! ## Control instructions that move their slot -/

/-- A control instruction whose body answers a state completes with it. -/
theorem moves_of_ok {i : Instr} {ok : Iss → State → Prop} {effect : Iss → State → State} (body : Iss → State → Except Stop State)
    (hx : ∀ s, exec i s = runControl i body s) (hsh : i.shape.isSome)
    (h : ∀ s q, Issues s i q → ok q s → body q s = .ok (effect q s)) : Moves i ok effect :=
  fun s q hi hok => by rw [hx]; exact runControl_next body hi hsh (h s q hi hok)

/-- A control instruction whose body traps takes the trap at its own address. -/
theorem traps_of_error {i : Instr} {ok : Iss → State → Prop} {cause : Nat} {value : Iss → Word}
    (body : Iss → State → Except Stop State) (hx : ∀ s, exec i s = runControl i body s) (hsh : i.shape.isSome)
    (hc : trapCompletes cause = false)
    (h : ∀ s q, Issues s i q → ok q s → q.canTrap → body q s = .error (.trap cause (value q))) : Traps i ok cause value :=
  fun s q hi hok hcan => by rw [hx]; exact runControl_trap body hi hsh hcan hc (h s q hi hok hcan)

/-- A displacement in words is four times as many bytes (R64). -/
theorem words_displacement {n : Nat} (x : BitVec n) : x.signExtend 62 ++ (0 : BitVec 2) = 4 * x.signExtend 64 := by
  have hlow : x.signExtend 62 = (x.signExtend 64).setWidth 62 := by
    apply BitVec.eq_of_getLsbD_eq
    intro k hk
    simp only [BitVec.getLsbD_signExtend, BitVec.getLsbD_setWidth, hk, show k < 64 by omega, decide_true, Bool.true_and]
  rw [hlow]
  generalize x.signExtend 64 = y
  apply BitVec.eq_of_toNat_eq
  have hy := y.isLt
  rw [BitVec.toNat_append, BitVec.toNat_setWidth, BitVec.toNat_mul, Nat.shiftLeft_eq]
  simp
  omega

theorem targetJ_eq (q : Iss) (j : FmtJ) : targetJ q j = q.next + 4 * j.off.signExtend 64 := by
  unfold targetJ; rw [words_displacement]

theorem targetL_eq (q : Iss) (l : FmtL) : targetL q l = q.next + 4 * l.off.signExtend 64 := by
  unfold targetL; rw [words_displacement]

theorem jump_aligned {q : Iss} {s : State} {pc : Dword} (h : aligned4 pc = true) : jump q s pc = .ok (goTo q s pc) := by
  unfold jump; rw [if_pos h]

theorem jump_misaligned {q : Iss} {s : State} {pc : Dword} (h : ¬aligned4 pc = true) :
    jump q s pc = .error (.trap 3 (pc.setWidth 32)) := by
  unfold jump alignTrap; rw [if_neg h, BitVec.ofNat_toNat]

theorem int_eq (q : Iss) (r : Reg) (l : Nat) : q.int r l = (elem 32 0 (q.read r 1 l)).toInt := by
  unfold Iss.int; rw [signed_eq, elem_zero]

/-- The condition of a branch on a word (R112). -/
def Taken (fn : BitVec 3) (x : Word) : Prop :=
  match fn.toNat with
  | 0 => True
  | 1 => x = 0
  | 2 => x ≠ 0
  | 3 => x.toInt < 0
  | 4 => 0 ≤ x.toInt
  | 5 => 0 < x.toInt
  | _ => x.toInt ≤ 0

theorem toInt_eq_zero_iff {n : Nat} (x : BitVec n) : x.toInt = 0 ↔ x = 0 := by
  rw [← BitVec.toInt_inj, BitVec.ofNat_eq_ofNat, BitVec.toInt_zero]

theorem branchHolds_iff (fn : BitVec 3) (x : Word) : branchHolds fn x.toInt = true ↔ Taken fn x := by
  unfold branchHolds Taken
  rcases fn.toNat with _ | _ | _ | _ | _ | _ | n <;> simp [toInt_eq_zero_iff]

/-! ## Writes of scalars by control instructions -/

theorem filter_plain_numbered {n : Nat} {ws : List Word} (h1 : 1 ≤ n) (h2 : n + ws.length ≤ 29) :
    (numbered n ws).filter (fun e => decide (1 ≤ e.1 ∧ e.1 ≤ 28)) = numbered n ws :=
  List.filter_eq_self.mpr fun e he => by
    have := mem_numbered n ws e he
    simp; omega

/-- A write of scalars below the masks always succeeds and changes nothing else (R13). -/
theorem setScalars_plain (t : Strand) (members : LaneMask) {n : Nat} {ws : List Word} (h1 : 1 ≤ n) (h2 : n + ws.length ≤ 29) :
    t.setScalars members n ws = some { t with sregs := tsetMany 0 t.sregs (numbered n ws) } := by
  have hmask : ((numbered n ws).any fun e => decide (29 ≤ e.1)) = false := by
    rw [List.any_eq_false]
    intro e he
    have := mem_numbered n ws e he
    simp; omega
  unfold Strand.setScalars
  rw [if_neg (by omega)]
  simp only [hmask, filter_plain_numbered h1 h2, Bool.false_eq_true, if_false]

theorem withScalars_plain (q : Iss) (s : State) (r : Reg) (pos wd v : Nat) (h1 : 1 ≤ scalarNo r) (h2 : scalarNo r + wd ≤ 29) :
    withScalars q s r pos wd v =
      .ok (putStrand s q { q.t with sregs := tsetMany 0 q.t.sregs (numbered (scalarNo r) (wordsOf wd v)) }) := by
  unfold withScalars
  rw [setScalars_plain _ _ h1 (by rwa [wordsOf_length])]

theorem withScalars_word (q : Iss) (s : State) (r : Reg) (pos v : Nat) (h : 1 ≤ scalarNo r ∧ scalarNo r ≤ 28) :
    withScalars q s r pos 1 v = .ok (putStrand s q { q.t with sregs := tset 0 q.t.sregs (scalarNo r) (BitVec.ofNat 32 v) }) :=
  withScalars_plain q s r pos 1 v h.1 (by omega)

/-- A write of scalars that leaves the slot a lane. -/
theorem withScalars_keeps {q : Iss} {r : Reg} {wd v : Nat} (h : keepsLanes q r (wordsOf wd v)) (s : State) (pos : Nat) :
    withScalars q s r pos wd v = .ok (putStrand s q (withWords q r (wordsOf wd v))) := by
  unfold withScalars withWords
  obtain ⟨t, ht⟩ := Option.isSome_iff_exists.mp h
  rw [ht]
  rfl

/-- The words of an address are its halves. -/
theorem wordsOf_dword (a : Dword) : wordsOf 2 a.toNat = [a.setWidth 32, a.extractLsb' 32 32] := by
  have hhigh : BitVec.ofNat 32 (a.toNat / 2 ^ 32) = a.extractLsb' 32 32 := by
    apply BitVec.eq_of_toNat_eq
    rw [BitVec.extractLsb'_toNat, BitVec.toNat_ofNat, Nat.shiftRight_eq_div_pow]
  simp only [wordsOf, hhigh, BitVec.ofNat_toNat]

/-- The register that LOOP counts in is one of s1 to s28 (R113). -/
theorem loop_register {s : State} {p : Option Pfx} {j : FmtJ} {q : Iss} (h : Issues s (.loop p j) q) :
    1 ≤ scalarNo j.a ∧ scalarNo j.a ≤ 28 := by
  have hok := use_ok h (u := rd 1 j.a 1 (.range 1 28)) (List.mem_singleton.mpr rfl)
  unfold Use.ok RegKind.admits rd at hok
  simp only [Bool.and_eq_true, decide_eq_true_eq] at hok
  obtain ⟨⟨-, hrange⟩, -⟩ := hok
  exact hrange

/-- One less, as LOOP counts it (R113). -/
theorem loop_count (v : Nat) :
    BitVec.ofNat 32 ((v + (2 ^ 32 - 1)) % 2 ^ 32) = elem 32 0 v - 1 ∧ ((v + (2 ^ 32 - 1)) % 2 ^ 32 ≠ 0 ↔ elem 32 0 v ≠ 1) := by
  rw [elem_zero]
  constructor
  · apply BitVec.eq_of_toNat_eq
    rw [BitVec.toNat_sub]
    simp
    omega
  · rw [ne_eq, ne_eq, not_iff_not, ← BitVec.toNat_inj, BitVec.toNat_ofNat]
    simp
    omega

/-! ## Branches, loops, calls and returns (R112 to R114, R117) -/

theorem moves_bra (p : Option Pfx) (j : FmtJ) :
    Moves (.bra p j) (fun q _ => Taken j.fn (elem 32 0 (q.read j.a 1 0)) ∧ aligned4 (q.next + 4 * j.off.signExtend 64) = true)
      (fun q s => goTo q s (q.next + 4 * j.off.signExtend 64)) :=
  moves_of_ok _ (fun _ => rfl) rfl fun s q _ ⟨ht, ha⟩ => by
    rw [int_eq, if_pos ((branchHolds_iff _ _).mpr ht), targetJ_eq, jump_aligned ha]

theorem falls_bra (p : Option Pfx) (j : FmtJ) :
    Moves (.bra p j) (fun q _ => ¬Taken j.fn (elem 32 0 (q.read j.a 1 0))) (fun q s => goTo q s q.next) :=
  moves_of_ok _ (fun _ => rfl) rfl fun s q _ ht => by
    rw [int_eq, if_neg fun h => ht ((branchHolds_iff _ _).mp h)]

/-- LOOP once the count v is known: the register written, then the branch (R113). -/
theorem loop_after_count (q : Iss) (s : State) {j : FmtJ} {v : Nat} {x : Word} (hreg : 1 ≤ scalarNo j.a ∧ scalarNo j.a ≤ 28)
    (hv : BitVec.ofNat 32 v = x) :
    (withScalars q s j.a 1 1 v >>= fun s1 => if v ≠ 0 then jump q s1 (targetJ q j) else Except.ok (goTo q s1 q.next)) =
      let s1 := putStrand s q { q.t with sregs := tset 0 q.t.sregs (scalarNo j.a) x }
      if v ≠ 0 then jump q s1 (q.next + 4 * j.off.signExtend 64) else .ok (goTo q s1 q.next) := by
  rw [withScalars_word _ _ _ _ _ hreg, hv, targetJ_eq]
  rfl

theorem moves_loop (p : Option Pfx) (j : FmtJ) :
    Moves (.loop p j) (fun q _ => elem 32 0 (q.read j.a 1 0) ≠ 1 ∧ aligned4 (q.next + 4 * j.off.signExtend 64) = true)
      (fun q s => goTo q (putStrand s q
        { q.t with sregs := tset 0 q.t.sregs (scalarNo j.a) (elem 32 0 (q.read j.a 1 0) - 1) }) (q.next + 4 * j.off.signExtend 64)) :=
  moves_of_ok _ (fun _ => rfl) rfl fun s q hi ⟨hv, ha⟩ => by
    obtain ⟨hc, hz⟩ := loop_count (q.read j.a 1 0)
    exact (loop_after_count q s (loop_register hi) hc).trans ((if_pos (hz.mpr hv)).trans (jump_aligned ha))

theorem falls_loop (p : Option Pfx) (j : FmtJ) :
    Moves (.loop p j) (fun q _ => elem 32 0 (q.read j.a 1 0) = 1)
      (fun q s => goTo q (putStrand s q { q.t with sregs := tset 0 q.t.sregs (scalarNo j.a) 0 }) q.next) :=
  moves_of_ok _ (fun _ => rfl) rfl fun s q hi hv => by
    obtain ⟨hc, hz⟩ := loop_count (q.read j.a 1 0)
    have hzero : elem 32 0 (q.read j.a 1 0) - 1 = 0 := by rw [hv]; rfl
    exact (loop_after_count q s (loop_register hi) (hc.trans hzero)).trans (if_neg fun h => hz.mp h hv)

theorem moves_call (p : Option Pfx) (l : FmtL) :
    Moves (.call p l) (fun q _ => aligned4 (q.next + 4 * l.off.signExtend 64) = true) (fun q s => goTo q (putStrand s q
      { q.t with sregs := tset 0 (tset 0 q.t.sregs 26 (q.next.setWidth 32)) 27 (q.next.extractLsb' 32 32) })
      (q.next + 4 * l.off.signExtend 64)) :=
  moves_of_ok _ (fun _ => rfl) rfl fun s q hi ha => by
    dsimp only
    rw [withScalars_plain _ _ _ _ _ _ (by decide) (by decide), wordsOf_dword]
    simp only [bind, Except.bind, targetL_eq, jump_aligned ha]
    rfl

theorem moves_calli (p : Option Pfx) (w : FmtA) :
    Moves (.calli p w) (fun q _ => aligned4 (q.addr w.a 0) = true ∧ keepsLanes q w.d [q.next.setWidth 32, q.next.extractLsb' 32 32])
      (fun q s => goTo q (putStrand s q (withWords q w.d [q.next.setWidth 32, q.next.extractLsb' 32 32])) (q.addr w.a 0)) :=
  moves_of_ok _ (fun _ => rfl) rfl fun s q hi ⟨ha, hk⟩ => by
    dsimp only
    rw [← wordsOf_dword] at *
    rw [if_pos ha, withScalars_keeps hk]
    simp only [bind, Except.bind, jump_aligned ha]

/-- Settles O13: each control instruction's body answers where the slot goes, or the alignment trap of the target. -/
theorem branchesAndCalls : Obligations.BranchesAndCalls := by
  intro p j l w b
  refine ⟨moves_bra p j, falls_bra p j, moves_loop p j, falls_loop p j, moves_call p l, moves_calli p w,
    ?ret, ?jmpi, ?jmpiTraps, ?retTraps, ?getpc⟩
  case ret => exact moves_of_ok _ (fun _ => rfl) rfl fun s q _ ha => jump_aligned ha
  case jmpi =>
    intro hs
    exact moves_of_ok _ (fun _ => rfl) rfl fun s q _ ha => (if_pos hs).trans (jump_aligned ha)
  case jmpiTraps =>
    intro hs
    exact traps_of_error _ (fun _ => rfl) rfl rfl fun s q _ ha _ => (if_pos hs).trans (jump_misaligned ha)
  case retTraps => exact traps_of_error _ (fun _ => rfl) rfl rfl fun s q _ ha _ => jump_misaligned ha
  case getpc => exact computes_of_eq ⟨rfl, _, _, rfl⟩ (by decide) (fun _ => rfl) fun q _ => by rw [words_displacement]

end Sys2Proof.Machine

namespace Sys2Proof.Machine

/-! ## Traps and returns (R30, R32, R33, R118, R119) -/

/-- A trap whose instruction completes enters the handler with the next word in trappc (R30, R32). -/
theorem enters_of_trap {s : State} {i : Instr} {q : Iss} (body : Iss → State → Except Stop State) (h : Issues s i q)
    (hx : exec i s = runStrand i body s) (hsh : i.shape.isSome) (hc : q.canTrap) {cause : Nat} {value : Word}
    (ht : trapCompletes cause = true) (hb : body q s = .error (.trap cause value)) :
    exec i s = .next (ended q i (entered q cause value q.next s)) := by
  rw [hx, runStrand_stop (x := .trap cause value) body h hsh (fun _ => nofun) hb, settle_trap hc, ht]
  rfl

/-- A trap in the handler is a double trap (R33). -/
theorem settle_double {s : State} {q : Iss} (h : q.t.handler = true) (cause : Nat) (value : Word) :
    settle q s (.trap cause value) = contextError s q.m q.t.index 17 cause 0 := by
  show takeTrap s q.m q.t q.slot cause value q.pc q.next = _
  unfold takeTrap
  rw [if_pos h]

/-- A trap without a handler is a context error (R32). -/
theorem settle_handlerless {s : State} {q : Iss} (h : q.t.handler = false) (h0 : q.m.header.trap = 0) (cause : Nat) (value : Word) :
    settle q s (.trap cause value) = contextError s q.m q.t.index 16 cause 0 := by
  show takeTrap s q.m q.t q.slot cause value q.pc q.next = _
  unfold takeTrap
  rw [h, if_neg (by decide), if_pos h0]

/-- The slots of a strand that has left its handler (R33, R364). -/
theorem leaveHandler_slots (t : Strand) (slot : Nat) :
    updSlot (leaveHandler t slot) slot (fun x => { x with wait := .ready }) = { t with
      handler := false
      live := t.live.zipIdx.map fun e =>
        if e.2 = slot then { e.1 with pc := t.trappc, held := false, wait := .ready } else { e.1 with held := false }
      stack := t.stack.map fun x => { x with held := false } } := by
  have hlive : ∀ (l : List Slot) (n : Nat),
      ((((l.zipIdx n).map fun e => if e.2 = slot then { e.1 with pc := t.trappc } else e.1).map fun x =>
        { x with held := false }).zipIdx n).map (fun e => if e.2 = slot then { e.1 with wait := .ready } else e.1) =
      (l.zipIdx n).map fun e =>
        if e.2 = slot then { e.1 with pc := t.trappc, held := false, wait := .ready } else { e.1 with held := false } := by
    intro l
    induction l with
    | nil => intro n; rfl
    | cons x l ih =>
      intro n
      simp only [List.zipIdx_cons, List.map_cons, ih]
      by_cases h : n = slot <;> simp [h]
  unfold leaveHandler updSlot
  simp only [hlive t.live 0]

/-! ## The context's record (R365) -/

/-- The record of a context changed is the record that was there, changed. -/
theorem ctxOf_updCtx (s : State) (cid : Cid) (f : Ctx → Ctx) (hf : ∀ c, (f c).cid = c.cid) :
    ctxOf (updCtx s cid f) cid = f (ctxOf s cid) := by
  cases hfind : s.contexts.find? fun c => c.cid == cid with
  | some c0 =>
    have hany : s.contexts.any (fun c => c.cid == cid) = true :=
      List.any_eq_true.mpr ⟨c0, List.mem_of_find?_eq_some hfind, List.find?_some (p := fun c : Ctx => c.cid == cid) hfind⟩
    unfold updCtx
    rw [if_pos hany]
    unfold ctxOf
    simp only
    rw [find_updFirst_same _ f (fun c hc => by rw [hf]; exact hc), hfind]
    rfl
  | none =>
    have hany : ¬s.contexts.any (fun c => c.cid == cid) = true := fun h => by
      obtain ⟨c, hc, hcid⟩ := List.any_eq_true.mp h
      exact List.find?_eq_none.mp hfind c hc hcid
    have hctx : ctxOf s cid = { cid := cid, stopped := false, saved := [] } := by unfold ctxOf; rw [hfind]; rfl
    have hcid : ((f { cid := cid, stopped := false, saved := [] }).cid == cid) = true := by rw [hf]; exact beq_self_eq_true cid
    unfold updCtx
    rw [if_neg hany, hctx]
    unfold ctxOf
    simp only
    rw [List.find?_append, hfind, Option.none_or, List.find?_singleton, if_pos hcid]
    rfl

theorem ctxOf_congr {s t : State} (h : t.contexts = s.contexts) (cid : Cid) : ctxOf t cid = ctxOf s cid := by
  unfold ctxOf; rw [h]

/-- What happens to a context's strands leaves whether it is stopped. -/
theorem updCtxStrands_stopped (s : State) (cid cid' : Cid) (f : Strand → Strand) :
    (ctxOf (updCtxStrands s cid f) cid').stopped = (ctxOf s cid').stopped := by
  unfold ctxOf updCtxStrands
  simp only
  rw [List.find?_map]
  have hp : ((fun c : Ctx => c.cid == cid') ∘ fun c => if c.cid = cid then
      { c with saved := c.saved.map fun v =>
        { v with motif := if v.motif.cid = cid then { v.motif with strands := v.motif.strands.map f } else v.motif } } else c) =
      fun c => c.cid == cid' := by
    funext c
    simp only [Function.comp_apply]
    split <;> rfl
  rw [hp]
  cases s.contexts.find? fun c => c.cid == cid' with
  | none => rfl
  | some c =>
    simp only [Option.map_some, Option.getD_some]
    split <;> rfl

theorem foldl_contexts {α : Type} (f : State → α → State) (hf : ∀ s a, (f s a).contexts = s.contexts) (l : List α) (s : State) :
    (l.foldl f s).contexts = s.contexts := by
  induction l generalizing s with
  | nil => rfl
  | cons a l ih => rw [List.foldl_cons, ih, hf]

theorem sendCtrl_contexts (s : State) (cid : Cid) (chip kind cutid value rtag : Nat) :
    (sendCtrl s cid chip kind cutid value rtag).contexts = s.contexts := by
  unfold sendCtrl routePacket
  simp only
  split
  · rfl
  · exact foldl_contexts _ (fun s q => updLink_contexts _ _ _) _ _

theorem sendFail_contexts (s : State) (cid : Cid) (c : Cut) (cause : Nat) : (sendFail s cid c cause).contexts = s.contexts := by
  unfold sendFail
  split
  · exact foldl_contexts _ (fun s x => sendCtrl_contexts ..) _ _
  · exact sendCtrl_contexts ..

theorem endCut_stopped (s : State) (cid cid' : Cid) (cutid cause : Nat) :
    (ctxOf (endCut s cid cutid cause) cid').stopped = (ctxOf s cid').stopped := by
  unfold endCut wakeCut wakeCtx setEvent
  simp only
  rw [updCtxStrands_stopped, updCtxStrands_stopped]
  unfold mapCuts
  rw [ctxOf_congr (updJob_contexts ..)]

theorem failCut_stopped (s : State) (cid cid' : Cid) (cause : Nat) (p : Cut → Bool) :
    (ctxOf (failCut s cid cause p) cid').stopped = (ctxOf s cid').stopped := by
  unfold failCut
  generalize (jobOf s cid).recording.filter p = cuts
  induction cuts generalizing s with
  | nil => rfl
  | cons c cuts ih => rw [List.foldl_cons, ih, ctxOf_congr (sendFail_contexts ..), endCut_stopped]

/-- A stopped context's record says so (R365). -/
theorem stopContext_stopped (s : State) (cid : Cid) : (ctxOf (stopContext s cid) cid).stopped = true := by
  have hset : (ctxOf (updCtx s cid fun c => { c with stopped := true }) cid).stopped = true := by
    rw [ctxOf_updCtx s cid (fun c => { c with stopped := true }) fun _ => rfl]
  unfold stopContext
  refine (failCut_stopped ..).trans (Eq.trans ?_ hset)
  exact congrArg Ctx.stopped (ctxOf_congr (s := updCtx s cid fun c => { c with stopped := true }) rfl cid)

/-! ## The instructions -/

theorem effects_brk (p : Option Pfx) (w : FmtU) :
    Effects (.brk p w) (fun q _ => q.m.desc.intercept = true ∧ q.t.handler = false) fun q s =>
      updCluster (updStrand s q.m.uid q.t.index fun t => { t with halted := true }) q.m.die q.m.cluster
        fun c => { c with frozen := true } :=
  fun s q hi ⟨hint, hh⟩ => runStrand_next _ hi rfl (by rw [hint, hh]; rfl)

theorem returns_rft {s : State} {p : Option Pfx} {w : FmtA} {q : Iss} (hi : Issues s (.rft p w) q) (hh : q.t.handler = true)
    (ha : aligned4 q.t.trappc = true) :
    exec (.rft p w) s = .next (ended q (.rft p w) (putStrand s q { q.t with
      handler := false
      live := q.t.live.zipIdx.map fun e =>
        if e.2 = q.slot then { e.1 with pc := q.t.trappc, held := false, wait := .ready } else { e.1 with held := false }
      stack := q.t.stack.map fun x => { x with held := false } })) := by
  rw [← leaveHandler_slots]
  exact runControl_next _ hi rfl (by rw [hh, ha]; rfl)

/-- A return to an address that is no word's is a double trap (R33, R119). -/
theorem rft_misaligned {s : State} {p : Option Pfx} {w : FmtA} {q : Iss} (hi : Issues s (.rft p w) q) (hh : q.t.handler = true)
    (ha : ¬aligned4 q.t.trappc = true) :
    exec (.rft p w) s = .next (ended q (.rft p w) (contextError s q.m q.t.index 17 3 0)) := by
  rw [← settle_double hh 3 (BitVec.ofNat 32 q.t.trappc.toNat)]
  exact runControl_stop _ hi rfl (fun _ => nofun) (by rw [hh, Bool.eq_false_iff.mpr ha]; rfl)

theorem rft_user (p : Option Pfx) (w : FmtA) : Traps (.rft p w) (fun _ _ => True) 1 fun _ => (Instr.rft p w).mainWord :=
  traps_of_error _ (fun _ => rfl) rfl rfl fun s q _ _ hc => by rw [hc.1]; rfl

/-- A trap that the strand cannot take is a context error (R32, R33). -/
theorem trap_contextError {s : State} {p : Option Pfx} {w : FmtU} {q : Iss} (hi : Issues s (.trap p w) q) {code : Nat}
    (hc : code = 17 ∧ q.t.handler = true ∨ code = 16 ∧ q.t.handler = false ∧ q.m.header.trap = 0) :
    exec (.trap p w) s = .next (ended q (.trap p w) (contextError s q.m q.t.index code 5 0)) := by
  have hrun : exec (.trap p w) s = .next (ended q (.trap p w) (settle q s (.trap 5 (w.imm.setWidth 32)))) :=
    runStrand_stop _ hi rfl (fun _ => nofun) rfl
  rw [hrun]
  rcases hc with ⟨rfl, hh⟩ | ⟨rfl, hh, h0⟩
  · rw [settle_double hh]
  · rw [settle_handlerless hh h0]

/-- Settles O15: a trap that the strand can take enters the handler, any other is a context error. -/
theorem trapsAndReturns : Obligations.TrapsAndReturns := by
  refine ⟨fun p w => ⟨?trap, ?svc, ?brk, effects_brk p w⟩, fun p w => ⟨?ret, ?double, rft_user p w⟩, ?error⟩
  case trap => exact fun s q hi hc _ => enters_of_trap _ hi rfl rfl hc rfl rfl
  case svc => exact fun s q hi hc _ => enters_of_trap _ hi rfl rfl hc rfl rfl
  case brk => exact fun s q hi hc hint => enters_of_trap _ hi rfl rfl hc rfl (by rw [hint]; rfl)
  case ret => exact fun s q hi hh ha => returns_rft hi hh ha
  case double => exact fun s q hi hh ha => rft_misaligned hi hh ha
  case error => exact fun p w s q hi code hc => ⟨trap_contextError hi hc, stopContext_stopped s q.m.cid⟩

end Sys2Proof.Machine

namespace Sys2Proof.Machine

/-! ## Masks of lanes -/

theorem getLsbD_laneBit (k l : Nat) (h : l < 96) : (laneBit k).getLsbD l = decide (k = l) := by
  unfold laneBit
  rw [BitVec.getLsbD_ofNat, Nat.testBit_two_pow, decide_eq_true h, Bool.true_and]

/-- A lane is in the mask of a list when the list holds it. -/
theorem getLsbD_maskOf (ls : List Nat) (l : Nat) (h : l < 96) : (maskOf ls).getLsbD l = true ↔ l ∈ ls := by
  induction ls with
  | nil => simp [maskOf]
  | cons k ls ih =>
    rw [maskOf, BitVec.getLsbD_or, getLsbD_laneBit k l h, Bool.or_eq_true, decide_eq_true_eq, ih, List.mem_cons, eq_comm]

theorem mask_eq_zero_iff (m : LaneMask) : m = 0 ↔ ∀ l < 96, ¬m.getLsbD l = true := by
  constructor
  · rintro rfl l -
    simp
  · intro h
    exact BitVec.eq_of_getLsbD_eq fun l hl => by rw [Bool.eq_false_iff.mpr (h l hl)]; simp

/-! ## The issuing slot -/

/-- The issuing slot is a live slot of its strand (R131). -/
theorem issues_live {s : State} {i : Instr} {q : Iss} (h : Issues s i q) : q.t.live[q.slot]? = some q.x := by
  obtain ⟨q0, h0, rfl⟩ := issues_issuer h
  show q0.t.live[q0.slot]? = some q0.x
  unfold issuerOf at h0
  split at h0
  · simp only [Option.bind_eq_some_iff, Option.map_eq_some_iff] at h0
    obtain ⟨m, -, t, -, x, hx, rfl⟩ := h0
    exact hx
  · cases h0

/-- The active lanes are members of the slot (R21). -/
theorem issues_members {s : State} {i : Instr} {q : Iss} (h : Issues s i q) {l : Nat} (hl : q.act.getLsbD l = true) :
    q.x.members.getLsbD l = true := by
  obtain ⟨q0, h0, rfl⟩ := issues_issuer h
  have hact : q0.act.getLsbD l = true := by
    unfold Iss.enter at hl
    simp only at hl
    split at hl
    · split at hl
      · exact hl
      · rw [BitVec.getLsbD_and, Bool.and_eq_true] at hl
        exact hl.1
    · exact hl
  show q0.x.members.getLsbD l = true
  unfold issuerOf at h0
  split at h0
  · simp only [Option.bind_eq_some_iff, Option.map_eq_some_iff] at h0
    obtain ⟨m, -, t, -, x, -, rfl⟩ := h0
    rw [BitVec.getLsbD_and, Bool.and_eq_true] at hact
    exact hact.2
  · cases h0

theorem issues_active {s : State} {i : Instr} {q : Iss} (h : Issues s i q) : ∃ l, l ∈ lanesOf q.act := by
  by_contra hno
  refine h.lanes ((mask_eq_zero_iff q.act).mpr fun l hl hbit => hno ⟨l, (mem_lanesOf _ _).mpr ⟨hl, hbit⟩⟩)

/-! ## A new slot beside the issuing one (R132, R134) -/

/-- The slots of a list other than the one at a position. -/
def otherSlots (live : List Slot) (slot : Nat) : List Slot := (live.zipIdx.filter fun e => e.2 != slot).map (·.1)

/-- A slot as a split makes it (R132). -/
def youngSlot (pc : Dword) (members : LaneMask) : Slot := { pc := pc, members := members, wait := .ready, held := false }

theorem updSlot_getElem? (t : Strand) (i : Nat) (f : Slot → Slot) {x : Slot} (h : t.live[i]? = some x) :
    (updSlot t i f).live[i]? = some (f x) := by
  simp [updSlot, h]

/-- What changes one slot leaves the others. -/
theorem otherSlots_updSlot (t : Strand) (i : Nat) (f : Slot → Slot) :
    otherSlots (updSlot t i f).live i = otherSlots t.live i := by
  have hz : ∀ (l : List Slot) (n : Nat),
      (((l.zipIdx n).map fun e => if e.2 = i then f e.1 else e.1).zipIdx n |>.filter fun e => e.2 != i).map (·.1) =
        ((l.zipIdx n).filter fun e => e.2 != i).map (·.1) := by
    intro l
    induction l with
    | nil => intro n; rfl
    | cons x l ih =>
      intro n
      by_cases hn : n = i <;> simp [hn, ih]
  exact hz t.live 0

/-- A live slot is the one at the position or one of the others. -/
theorem eq_or_mem_otherSlots {live : List Slot} {slot : Nat} {x y : Slot} (h : live[slot]? = some x) (hy : y ∈ live) :
    y = x ∨ y ∈ otherSlots live slot := by
  obtain ⟨k, hk⟩ := List.mem_iff_getElem?.mp hy
  by_cases hks : k = slot
  · exact .inl (Option.some.inj (hk.symm.trans (hks ▸ h)))
  · refine .inr (List.mem_map.mpr ⟨(y, k), List.mem_filter.mpr ⟨List.mem_zipIdx_iff_getElem?.mpr hk, ?_⟩, rfl⟩)
    simpa using hks

/-- A split that the divergence stack has room for (R132, R134). -/
theorem splitOff_some {depth slot : Nat} {t : Strand} {x : Slot} (h : t.live[slot]? = some x) (pc : Dword) (members : LaneMask)
    (hroom : otherSlots t.live slot = [] ∨ t.stack.length < depth) :
    splitOff depth t slot pc members =
      some { t with live := [x, youngSlot pc members], stack := t.stack ++ otherSlots t.live slot } := by
  unfold splitOff
  rw [h]
  show (if (otherSlots t.live slot).isEmpty then _ else _) = _
  by_cases he : otherSlots t.live slot = []
  · rw [he, List.append_nil]
    rfl
  · rw [if_neg (by rwa [List.isEmpty_iff]), if_neg (by have := hroom.resolve_left he; omega)]
    rfl

/-- Splits that the divergence stack has room for keep every slot and add one for each target (R132, R170). -/
theorem splitTargets_some {depth : Nat} (more : List (Dword × LaneMask)) {slot : Nat} {t : Strand} {x : Slot}
    (h : t.live[slot]? = some x) (hroom : t.stack.length + (otherSlots t.live slot).length + more.length ≤ depth) :
    ∃ u, splitTargets depth slot more t = some u ∧ u = { t with live := u.live, stack := u.stack } ∧
      (∀ y ∈ t.live ++ t.stack, y ∈ u.live ++ u.stack) ∧ ∀ e ∈ more, youngSlot e.1 e.2 ∈ u.live ++ u.stack := by
  induction more generalizing slot t x with
  | nil => exact ⟨t, rfl, rfl, fun _ hy => hy, fun _ he => nomatch he⟩
  | cons e more ih =>
    rw [List.length_cons] at hroom
    have hsplit := splitOff_some (depth := depth) h e.1 e.2 (by
      rcases Nat.eq_zero_or_pos (otherSlots t.live slot).length with h0 | hpos
      · exact .inl (List.length_eq_zero_iff.mp h0)
      · exact .inr (by omega))
    obtain ⟨u, hu, hrest, hkeep, hnew⟩ := ih (slot := 0) (x := x)
      (t := { t with live := [x, youngSlot e.1 e.2], stack := t.stack ++ otherSlots t.live slot }) rfl (by
        show (t.stack ++ otherSlots t.live slot).length + 1 + more.length ≤ depth
        rw [List.length_append]
        omega)
    refine ⟨u, ?_, hrest, fun y hy => hkeep y ?_, fun e' he' => ?_⟩
    · unfold splitTargets
      rw [hsplit]
      exact hu
    · show y ∈ [x, youngSlot e.1 e.2] ++ (t.stack ++ otherSlots t.live slot)
      rcases List.mem_append.mp hy with hlive | hstack
      · rcases eq_or_mem_otherSlots h hlive with rfl | ho <;> simp [*]
      · simp [hstack]
    · rcases List.mem_cons.mp he' with rfl | hmore
      · exact hkeep _ (by simp)
      · exact hnew e' hmore

/-! ## BDIV (R132, R169) -/

/-- The lane condition of a divergent branch on a value (R169). -/
def Goes (fn : BitVec 3) (v : Int) : Prop :=
  match fn.toNat with
  | 0 => v ≠ 0
  | 1 => v = 0
  | 2 => v < 0
  | 3 => 0 ≤ v
  | 4 => 0 < v
  | _ => v ≤ 0

theorem divHolds_iff (fn : BitVec 3) (v : Int) : divHolds fn v = true ↔ Goes fn v := by
  unfold divHolds Goes
  rcases fn.toNat with _ | _ | _ | _ | _ | n <;> simp

/-- Whether a lane goes to the target of the branch. -/
def LaneGoes (j : FmtJ) (q : Iss) (l : Nat) : Prop := Goes j.fn (elem 32 0 (q.read j.a 1 l)).toInt

/-- The active lanes that go to the target. -/
def goingLanes (j : FmtJ) (q : Iss) : LaneMask := maskOf ((lanesOf q.act).filter fun l => divHolds j.fn (q.int j.a l))

theorem getLsbD_goingLanes (j : FmtJ) (q : Iss) {l : Nat} (h : l < 96) :
    (goingLanes j q).getLsbD l = true ↔ q.act.getLsbD l = true ∧ LaneGoes j q l := by
  unfold goingLanes LaneGoes
  rw [getLsbD_maskOf _ _ h, List.mem_filter, mem_lanesOf, and_iff_right h, int_eq, divHolds_iff]

theorem goingLanes_eq_zero_iff (j : FmtJ) (q : Iss) : goingLanes j q = 0 ↔ ∀ l ∈ lanesOf q.act, ¬LaneGoes j q l := by
  rw [mask_eq_zero_iff]
  constructor
  · intro h l hl hg
    obtain ⟨hl96, hact⟩ := (mem_lanesOf _ _).mp hl
    exact h l hl96 ((getLsbD_goingLanes j q hl96).mpr ⟨hact, hg⟩)
  · intro h l hl hbit
    obtain ⟨hact, hg⟩ := (getLsbD_goingLanes j q hl).mp hbit
    exact h l ((mem_lanesOf _ _).mpr ⟨hl, hact⟩) hg

theorem goingLanes_eq_act_iff (j : FmtJ) (q : Iss) : goingLanes j q = q.act ↔ ∀ l ∈ lanesOf q.act, LaneGoes j q l := by
  constructor
  · intro h l hl
    obtain ⟨hl96, hact⟩ := (mem_lanesOf _ _).mp hl
    exact ((getLsbD_goingLanes j q hl96).mp (h ▸ hact)).2
  · intro h
    refine BitVec.eq_of_getLsbD_eq fun l hl => Bool.eq_iff_iff.mpr ?_
    rw [getLsbD_goingLanes j q hl]
    exact and_iff_left_of_imp fun hact => h l ((mem_lanesOf _ _).mpr ⟨hl, hact⟩)

theorem falls_bdiv (p : Option Pfx) (j : FmtJ) :
    Moves (.bdiv p j) (fun q _ => ∀ l ∈ lanesOf q.act, ¬LaneGoes j q l) (fun q s => goTo q s q.next) :=
  moves_of_ok _ (fun _ => rfl) rfl fun _ q _ hno => if_pos ((goingLanes_eq_zero_iff j q).mpr hno)

theorem moves_bdiv (p : Option Pfx) (j : FmtJ) :
    Moves (.bdiv p j) (fun q _ => aligned4 (q.next + 4 * j.off.signExtend 64) = true ∧ ∀ l ∈ lanesOf q.act, LaneGoes j q l)
      (fun q s => goTo q s (q.next + 4 * j.off.signExtend 64)) :=
  moves_of_ok _ (fun _ => rfl) rfl fun s q hi ⟨ha, hall⟩ => by
    have hact := (goingLanes_eq_act_iff j q).mpr hall
    have hne : ¬goingLanes j q = 0 := hact ▸ hi.lanes
    refine (if_neg hne).trans ?_
    rw [targetJ_eq, ha]
    exact if_pos hact

/-- A divergent branch: the lanes that fall through stay in the issuing slot, those that go are in a new one (R132, R169). -/
theorem splits_bdiv {s : State} {p : Option Pfx} {j : FmtJ} {q : Iss} (hi : Issues s (.bdiv p j) q)
    (ha : aligned4 (q.next + 4 * j.off.signExtend 64) = true) (hsome : ∃ l ∈ lanesOf q.act, LaneGoes j q l)
    (hsome' : ∃ l ∈ lanesOf q.act, ¬LaneGoes j q l)
    (hroom : otherSlots q.t.live q.slot = [] ∨ q.t.stack.length < q.m.header.divstack) :
    exec (.bdiv p j) s = .next (ended q (.bdiv p j) (putStrand s q { q.t with
      live := [{ q.x with pc := q.next, members := q.x.members &&& ~~~goingLanes j q, wait := .ready },
        youngSlot (q.next + 4 * j.off.signExtend 64) (goingLanes j q)]
      stack := q.t.stack ++ otherSlots q.t.live q.slot })) := by
  have hne : ¬goingLanes j q = 0 := fun h => by
    obtain ⟨l, hl, hg⟩ := hsome
    exact (goingLanes_eq_zero_iff j q).mp h l hl hg
  have hna : ¬goingLanes j q = q.act := fun h => by
    obtain ⟨l, hl, hg⟩ := hsome'
    exact hg ((goingLanes_eq_act_iff j q).mp h l hl)
  have hsplit := splitOff_some (depth := q.m.header.divstack)
    (updSlot_getElem? q.t q.slot
      (fun x => { x with pc := q.next, members := x.members &&& ~~~goingLanes j q, wait := .ready }) (issues_live hi))
    (q.next + 4 * j.off.signExtend 64) (goingLanes j q) (by rw [otherSlots_updSlot]; exact hroom)
  rw [otherSlots_updSlot] at hsplit
  refine runControl_next _ hi rfl ((if_neg hne).trans ?_)
  rw [targetJ_eq, ha]
  refine (if_neg hna).trans ?_
  show (match splitOff q.m.header.divstack (updSlot q.t q.slot
      (fun x => { x with pc := q.next, members := x.members &&& ~~~goingLanes j q, wait := .ready })) q.slot
      (q.next + 4 * j.off.signExtend 64) (goingLanes j q) with
    | some t2 => Except.ok (putStrand s q t2)
    | none => Except.error (Stop.ctx 18 q.m.header.divstack 0)) = _
  rw [hsplit]
  rfl

/-! ## JMPI through a vector pair (R114, R170) -/

/-- The distinct targets are the targets. -/
theorem mem_distinctTargets (ls : List (Nat × Dword)) (seen : List Dword) (a : Dword) :
    a ∈ distinctTargets ls seen ↔ a ∈ seen ∨ ∃ l, (l, a) ∈ ls := by
  induction ls generalizing seen with
  | nil => simp [distinctTargets]
  | cons e ls ih =>
    obtain ⟨l, b⟩ := e
    have hseen : a ∈ (if seen.contains b then seen else seen ++ [b]) ↔ a ∈ seen ∨ a = b := by
      split
      · next h => exact ⟨.inl, fun h' => h'.elim id fun hb => by subst hb; simpa using h⟩
      · simp
    rw [distinctTargets, ih, hseen]
    constructor
    · rintro ((h | rfl) | ⟨k, hk⟩)
      · exact .inl h
      · exact .inr ⟨l, List.mem_cons_self⟩
      · exact .inr ⟨k, List.mem_cons_of_mem _ hk⟩
    · rintro (h | ⟨k, hk⟩)
      · exact .inl (.inl h)
      · rcases List.mem_cons.mp hk with heq | hk
        · cases heq; exact .inl (.inr rfl)
        · exact .inr ⟨k, hk⟩

theorem distinctTargets_length (ls : List (Nat × Dword)) (seen : List Dword) :
    (distinctTargets ls seen).length ≤ seen.length + ls.length := by
  induction ls generalizing seen with
  | nil => simp [distinctTargets]
  | cons e ls ih =>
    obtain ⟨l, b⟩ := e
    rw [distinctTargets]
    refine (ih _).trans ?_
    split
    · simp
    · simp; omega

/-- The active lanes with their targets. -/
def laneTargets (w : FmtA) (q : Iss) : List (Nat × Dword) := (lanesOf q.act).map fun l => (l, q.addr w.a l)

/-- The active lanes that name a target. -/
def lanesNaming (w : FmtA) (q : Iss) (a : Dword) : LaneMask := maskOf (((laneTargets w q).filter fun e => e.2 == a).map (·.1))

theorem mem_laneTargets {w : FmtA} {q : Iss} {l : Nat} (h : l ∈ lanesOf q.act) : (l, q.addr w.a l) ∈ laneTargets w q :=
  List.mem_map.mpr ⟨l, h, rfl⟩

theorem getLsbD_lanesNaming {w : FmtA} {q : Iss} {l : Nat} (h : l ∈ lanesOf q.act) :
    (lanesNaming w q (q.addr w.a l)).getLsbD l = true := by
  refine (getLsbD_maskOf _ _ ((mem_lanesOf _ _).mp h).1).mpr (List.mem_map.mpr ⟨(l, q.addr w.a l), ?_, rfl⟩)
  exact List.mem_filter.mpr ⟨mem_laneTargets h, beq_self_eq_true _⟩

/-- The issuing slot as it goes to the first target, with its inactive lanes (R170). -/
def toFirstTarget (w : FmtA) (q : Iss) (a : Dword) (x : Slot) : Slot :=
  { x with pc := a, members := lanesNaming w q a ||| (x.members &&& ~~~q.act), wait := .ready }

/-- The body of a jump through a vector pair, once every target is a word's (R170). -/
theorem jmpi_vector_eq {s : State} {p : Option Pfx} {w : FmtA} {q : Iss} (hi : Issues s (.jmpi p w) q) (hv : w.a.isVector = true)
    (ha : ∀ l ∈ lanesOf q.act, aligned4 (q.addr w.a l) = true) {a : Dword} {more : List Dword} {t : Strand}
    (hd : distinctTargets (laneTargets w q) [] = a :: more)
    (ht : splitTargets q.m.header.divstack q.slot (more.map fun a => (a, lanesNaming w q a))
      (updSlot q.t q.slot (toFirstTarget w q a)) = some t) :
    exec (.jmpi p w) s = .next (ended q (.jmpi p w) (putStrand s q t)) := by
  have hns : ¬w.a.isScalar = true := by
    unfold Reg.isVector at hv
    unfold Reg.isScalar
    rw [decide_eq_true_eq] at hv ⊢
    omega
  have hfind : (laneTargets w q).find? (fun e => !aligned4 e.2) = none := List.find?_eq_none.mpr fun e he => by
    obtain ⟨l, hl, rfl⟩ := List.mem_map.mp he
    simp [ha l hl]
  refine runControl_next _ hi rfl ((if_neg hns).trans ?_)
  show (match (laneTargets w q).find? (fun e => !aligned4 e.2) with
    | some e => Except.error (alignTrap e.2.toNat)
    | none => match distinctTargets (laneTargets w q) [] with
      | [] => Except.ok (goTo q s q.next)
      | t1 :: more => match splitTargets q.m.header.divstack q.slot (more.map fun a => (a, lanesNaming w q a))
          (updSlot q.t q.slot (toFirstTarget w q t1)) with
        | some t => Except.ok (putStrand s q t)
        | none => Except.error (Stop.ctx 18 q.m.header.divstack 0)) = _
  rw [hfind, hd]
  dsimp only
  rw [ht]

/-- A slot whose lanes name several targets splits into one slot for each (R170). -/
theorem splits_jmpi {s : State} {p : Option Pfx} {w : FmtA} {q : Iss} (hi : Issues s (.jmpi p w) q) (hv : w.a.isVector = true)
    (ha : ∀ l ∈ lanesOf q.act, aligned4 (q.addr w.a l) = true)
    (hfits : q.t.stack.length + (otherSlots q.t.live q.slot).length + laneCount q.act ≤ q.m.header.divstack + 1) :
    ∃ t, exec (.jmpi p w) s = .next (ended q (.jmpi p w) (putStrand s q t)) ∧
      t = { q.t with live := t.live, stack := t.stack } ∧
      ∀ l ∈ lanesOf q.act, ∃ x ∈ t.live ++ t.stack, x.members.getLsbD l = true ∧ x.pc = q.addr w.a l ∧ x.wait = .ready := by
  have htargets : ∀ l ∈ lanesOf q.act, q.addr w.a l ∈ distinctTargets (laneTargets w q) [] := fun l hl =>
    (mem_distinctTargets _ _ _).mpr (.inr ⟨l, mem_laneTargets hl⟩)
  have hlength : (distinctTargets (laneTargets w q) []).length ≤ laneCount q.act :=
    (distinctTargets_length _ _).trans (by simp [laneTargets, laneCount])
  cases hd : distinctTargets (laneTargets w q) [] with
  | nil =>
    obtain ⟨l, hl⟩ := issues_active hi
    exact absurd (htargets l hl) (by rw [hd]; exact List.not_mem_nil)
  | cons a more =>
    rw [hd, List.length_cons] at hlength
    have hfirst := updSlot_getElem? q.t q.slot (toFirstTarget w q a) (issues_live hi)
    obtain ⟨t, ht, hrest, hkeep, hnew⟩ := splitTargets_some (depth := q.m.header.divstack)
      (more.map fun a => (a, lanesNaming w q a)) hfirst (by
        rw [otherSlots_updSlot, List.length_map]
        show q.t.stack.length + _ + _ ≤ _
        omega)
    refine ⟨t, jmpi_vector_eq hi hv ha hd ht, hrest, fun l hl => ?_⟩
    rcases List.mem_cons.mp (hd ▸ htargets l hl) with heq | hmore
    · refine ⟨toFirstTarget w q a q.x, hkeep _ (List.mem_append_left _ (List.mem_of_getElem? hfirst)), ?_, heq.symm, rfl⟩
      show (lanesNaming w q a ||| (q.x.members &&& ~~~q.act)).getLsbD l = true
      rw [BitVec.getLsbD_or, ← heq, getLsbD_lanesNaming hl, Bool.true_or]
    · exact ⟨_, hnew (q.addr w.a l, lanesNaming w q (q.addr w.a l)) (List.mem_map.mpr ⟨_, hmore, rfl⟩),
        getLsbD_lanesNaming hl, rfl, rfl⟩

/-! ## JOIN (R136, R171) -/

/-- The lanes waiting at a join word are those of the slots that wait there. -/
theorem getLsbD_waitingAt (t : Strand) (word : Dword) (l : Nat) :
    (waitingAt t word).getLsbD l = true ↔ ∃ x ∈ t.live ++ t.stack, x.waitsAt word = true ∧ x.members.getLsbD l = true := by
  have hfold : ∀ (xs : List Slot) (m : LaneMask),
      (xs.foldl (fun m x => if x.waitsAt word then m ||| x.members else m) m).getLsbD l = true ↔
        m.getLsbD l = true ∨ ∃ x ∈ xs, x.waitsAt word = true ∧ x.members.getLsbD l = true := by
    intro xs
    induction xs with
    | nil => simp
    | cons x xs ih =>
      intro m
      rw [List.foldl_cons, ih]
      by_cases h : x.waitsAt word = true <;> simp [h, or_assoc]
  unfold waitingAt
  rw [hfold]
  simp

/-- A triple is covered when each of its lanes has ended, was never launched or waits at the word (R136, R171). -/
theorem joinCovered_iff (t : Strand) (word : Dword) (triple : LaneMask) :
    joinCovered t word triple = true ↔ ∀ l < 96, triple.getLsbD l = true →
      t.ended.getLsbD l = true ∨ t.launched.getLsbD l = false ∨
        ∃ x ∈ t.live ++ t.stack, x.waitsAt word = true ∧ x.members.getLsbD l = true := by
  unfold joinCovered Strand.gone
  rw [decide_eq_true_eq, mask_eq_zero_iff]
  refine forall_congr' fun l => forall_congr' fun hl => ?_
  rw [← getLsbD_waitingAt]
  simp only [BitVec.getLsbD_and, BitVec.getLsbD_or, BitVec.getLsbD_not, hl, decide_true, Bool.true_and]
  cases triple.getLsbD l <;> cases (waitingAt t word).getLsbD l <;> cases t.ended.getLsbD l <;>
    cases t.launched.getLsbD l <;> decide

/-! ## Lanes that end (R115, R128, R135, R136) -/

/-- Slots regrouped: only the slots change, and no lane is in a slot that was in none. -/
structure Regroups (t u : Strand) : Prop where
  rest : u = { t with live := u.live, stack := u.stack }
  lanes : ∀ y ∈ u.live ++ u.stack, ∀ l, y.members.getLsbD l = true → ∃ x ∈ t.live ++ t.stack, x.members.getLsbD l = true

theorem Regroups.refl (t : Strand) : Regroups t t := ⟨rfl, fun y hy _ hl => ⟨y, hy, hl⟩⟩

theorem Regroups.trans {t u v : Strand} (h : Regroups t u) (h' : Regroups u v) : Regroups t v where
  rest := by rw [h'.rest, h.rest]
  lanes := fun z hz l hl => by
    obtain ⟨y, hy, hyl⟩ := h'.lanes z hz l hl
    exact h.lanes y hy l hyl

theorem refill_regroups (t : Strand) : Regroups t (refill t) := by
  unfold refill
  split
  · exact Regroups.refl t
  · next x rest hs =>
    split
    · refine ⟨rfl, fun y hy l hl => ⟨y, ?_, hl⟩⟩
      rw [hs]
      simpa using hy
    · exact Regroups.refl t

/-- What a merge makes of a list of slots: each was there, or holds the lanes that wait at the word. -/
theorem merged_lanes {t : Strand} {word : Dword} {xs : List Slot} (hxs : ∀ x ∈ xs, x ∈ t.live ++ t.stack)
    (keep : Nat → Prop) [DecidablePred keep] {y : Slot}
    (hy : y ∈ xs.zipIdx.filterMap fun e =>
      if keep e.2 then some { e.1 with members := waitingAt t word, pc := word + 4, wait := Wait.ready }
      else if e.1.waitsAt word then none else some e.1) {l : Nat} (hl : y.members.getLsbD l = true) :
    ∃ x ∈ t.live ++ t.stack, x.members.getLsbD l = true := by
  obtain ⟨e, he, heq⟩ := List.mem_filterMap.mp hy
  split at heq
  · cases heq
    obtain ⟨x, hx, -, hxl⟩ := (getLsbD_waitingAt t word l).mp hl
    exact ⟨x, hx, hxl⟩
  · split at heq
    · cases heq
    · cases heq
      exact ⟨e.1, hxs _ (List.fst_mem_of_mem_zipIdx he), hl⟩

theorem mergeLive_regroups (t : Strand) (word : Dword) (keep : Nat) : Regroups t (mergeLive t word keep) := by
  refine Regroups.trans ⟨rfl, fun y hy l hl => ?_⟩ (refill_regroups _)
  rcases List.mem_append.mp hy with hlive | hstack
  · exact merged_lanes (fun x hx => List.mem_append_left _ hx) (fun n => n = keep) hlive hl
  · exact ⟨y, List.mem_append_right _ (List.mem_of_mem_filter hstack), hl⟩

theorem mergeStack_regroups (t : Strand) (word : Dword) : Regroups t (mergeStack t word) := by
  refine ⟨rfl, fun y hy l hl => ?_⟩
  rcases List.mem_append.mp hy with hlive | hstack
  · exact ⟨y, List.mem_append_left _ hlive, hl⟩
  · exact merged_lanes (fun x hx => List.mem_append_right _ hx)
      (fun n => some n = (t.stack.zipIdx.find? fun e => e.1.waitsAt word).map (·.2)) hstack hl

theorem mergeEnded_regroups (t : Strand) : Regroups t (mergeEnded t) := by
  unfold mergeEnded
  simp only
  split
  · exact Regroups.refl t
  · split
    · exact mergeLive_regroups ..
    · exact mergeStack_regroups ..

theorem mergeAll_regroups (n : Nat) (t : Strand) : Regroups t (mergeAll n t) := by
  induction n generalizing t with
  | zero => exact Regroups.refl t
  | succ n ih => exact (mergeEnded_regroups t).trans (ih _)

/-- A strand whose ending lanes have left their slots. -/
def stripLanes (t : Strand) (lanes : LaneMask) : Strand :=
  let strip := fun (x : Slot) => { x with members := x.members &&& ~~~lanes }
  { t with
    live := (t.live.map strip).filter fun x => decide (x.members ≠ 0)
    stack := (t.stack.map strip).filter fun x => decide (x.members ≠ 0)
    ended := t.ended ||| lanes
    mask := t.mask &&& ~~~lanes }

theorem stripLanes_lanes (t : Strand) (lanes : LaneMask) {x : Slot} (hx : x ∈ (stripLanes t lanes).live ++ (stripLanes t lanes).stack)
    {l : Nat} (hl : x.members.getLsbD l = true) : ¬lanes.getLsbD l = true := by
  have hstrip : ∃ y : Slot, { y with members := y.members &&& ~~~lanes } = x := by
    rcases List.mem_append.mp hx with h | h <;>
    · obtain ⟨y, -, hy⟩ := List.mem_map.mp (List.mem_of_mem_filter h)
      exact ⟨y, hy⟩
  obtain ⟨y, rfl⟩ := hstrip
  simp only [BitVec.getLsbD_and, BitVec.getLsbD_not, Bool.and_eq_true, Bool.not_eq_true'] at hl
  rw [hl.2.2]
  decide

/-- The slots of a strand are regrouped once its ending lanes have left them, and a strand left with held slots only leaves its
handler (R135, R136, R364). -/
theorem endLanes_eq (t : Strand) (lanes : LaneMask) : ∃ u, Regroups (stripLanes t lanes) u ∧
    (endLanes t lanes = u ∨ endLanes t lanes = { u with
      handler := false
      live := u.live.map fun x => { x with held := false }
      stack := u.stack.map fun x => { x with held := false } }) := by
  refine ⟨_, ((refill_regroups _).trans (refill_regroups _)).trans (mergeAll_regroups
    ((refill (refill (stripLanes t lanes))).live.length + (refill (refill (stripLanes t lanes))).stack.length) _), ?_⟩
  unfold endLanes
  simp only
  split
  · exact .inr rfl
  · exact .inl rfl

/-- Once lanes have ended: they count as ended, their activity bits are clear, no slot holds them (R115, R128). -/
theorem endLanes_ends (t : Strand) (lanes : LaneMask) :
    (endLanes t lanes).ended = t.ended ||| lanes ∧ (endLanes t lanes).mask = t.mask &&& ~~~lanes ∧
    (∀ x ∈ (endLanes t lanes).live ++ (endLanes t lanes).stack, ∀ l, x.members.getLsbD l = true → ¬lanes.getLsbD l = true) ∧
    endLanes t lanes = { t with
      live := (endLanes t lanes).live, stack := (endLanes t lanes).stack, ended := (endLanes t lanes).ended
      mask := (endLanes t lanes).mask, handler := (endLanes t lanes).handler, turn := (endLanes t lanes).turn } := by
  obtain ⟨u, hu, hend⟩ := endLanes_eq t lanes
  have hclear : ∀ x ∈ u.live ++ u.stack, ∀ l, x.members.getLsbD l = true → ¬lanes.getLsbD l = true := fun x hx l hl => by
    obtain ⟨y, hy, hyl⟩ := hu.lanes x hx l hl
    exact stripLanes_lanes t lanes hy hyl
  rcases hend with h | h
  · rw [h]
    exact ⟨by rw [hu.rest]; rfl, by rw [hu.rest]; rfl, hclear, by rw [hu.rest]; rfl⟩
  · rw [h]
    refine ⟨by rw [hu.rest]; rfl, by rw [hu.rest]; rfl, fun x hx l hl => ?_, by rw [hu.rest]; rfl⟩
    rw [← List.map_append] at hx
    obtain ⟨y, hy, rfl⟩ := List.mem_map.mp hx
    exact hclear y hy l hl

/-! ## EXIT, NOP and YIELD (R115, R116) -/

/-- The lanes that end with an EXIT: the active ones, or all members when none of the rest is active (R115). -/
def exitingLanes (q : Iss) : LaneMask := if q.x.members &&& ~~~q.act &&& q.t.mask = 0 then q.x.members else q.act

theorem getLsbD_exitingLanes {s : State} {i : Instr} {q : Iss} (hi : Issues s i q) {l : Nat} :
    (exitingLanes q).getLsbD l = true ↔ q.act.getLsbD l = true ∨ (q.x.members.getLsbD l = true ∧
      ∀ k < 96, q.x.members.getLsbD k = true → q.t.mask.getLsbD k = true → q.act.getLsbD k = true) := by
  have hnone : q.x.members &&& ~~~q.act &&& q.t.mask = 0 ↔
      ∀ k < 96, q.x.members.getLsbD k = true → q.t.mask.getLsbD k = true → q.act.getLsbD k = true := by
    rw [mask_eq_zero_iff]
    refine forall_congr' fun k => forall_congr' fun hk => ?_
    simp only [BitVec.getLsbD_and, BitVec.getLsbD_not, hk, decide_true, Bool.true_and]
    cases q.x.members.getLsbD k <;> cases q.act.getLsbD k <;> cases q.t.mask.getLsbD k <;> decide
  unfold exitingLanes
  rw [← hnone]
  split
  · next h => exact ⟨fun hl => .inr ⟨hl, h⟩, fun hl => hl.elim (issues_members hi) (·.1)⟩
  · next h => exact ⟨.inl, fun hl => hl.resolve_right fun hr => h hr.2⟩

theorem ends_exit {s : State} {p : Option Pfx} {w : FmtA} {q : Iss} (hi : Issues s (.exit p w) q) :
    exec (.exit p w) s = .next (ended q (.exit p w) (afterEnding (putStrand s q
      (endLanes (updSlot q.t q.slot fun x => { x with pc := q.next, wait := .ready }) (exitingLanes q))) q.m.uid q.t.index)) :=
  runControl_next _ hi rfl rfl

theorem updCluster_congr {s : State} {die k : Nat} {f g : Cluster → Cluster} (h : f (clusterOf s die k) = g (clusterOf s die k)) :
    updCluster s die k f = updCluster s die k g := by
  unfold updCluster; rw [h]

theorem join_moves (p : Option Pfx) (w : FmtA) {ok : Iss → State → Prop} (effect : Iss → Strand)
    (h : ∀ q s, ok q s →
      let t1 := updSlot q.t q.slot fun x =>
        { x with wait := .join (scalarNo w.a) (q.t.triple (scalarNo w.a)) (Instr.join p w).size }
      (if joinCovered t1 (q.next - 4) (q.t.triple (scalarNo w.a)) then mergeLive t1 (q.next - 4) q.slot else t1) = effect q) :
    Moves (.join p w) ok (fun q s => putStrand s q (effect q)) :=
  moves_of_ok _ (fun _ => rfl) rfl fun s q _ hok => congrArg (fun t => Except.ok (putStrand s q t)) (h q s hok)

theorem effects_yield (p : Option Pfx) (w : FmtA) {ok : Iss → State → Prop} (f : Iss → Cluster → Cluster)
    (h : ∀ q s, ok q s →
      let me := (q.m.uid, q.t.index)
      let c := clusterOf s q.m.die q.m.cluster
      (if c.order.contains me then { c with order := c.order.filter (fun e => e != me) ++ [me] } else c) = f q c) :
    Effects (.yield p w) ok (fun q s => updCluster s q.m.die q.m.cluster (f q)) :=
  fun s q hi hok => runStrand_next _ hi rfl (congrArg Except.ok (updCluster_congr (h q s hok)))

/-- Settles O14: splits through `splitOff`, joins through `joinCovered`, ends through `endLanes`. -/
theorem divergenceAndJoins : Obligations.DivergenceAndJoins := by
  refine ⟨fun p j w => ⟨falls_bdiv p j, moves_bdiv p j, ?bdiv, ?jmpi⟩, fun p w => ⟨?waits, ?merges, ?exit⟩,
    fun p w => ⟨?nop, ?back, ?absent⟩⟩
  case bdiv =>
    intro s q hi ha hsome hsome' hroom
    refine ⟨_, _, splits_bdiv hi ha hsome hsome' hroom, rfl, rfl, fun l hl => getLsbD_goingLanes j q hl, fun l hl => ?_⟩
    have hgo := getLsbD_goingLanes j q hl
    show (q.x.members &&& ~~~goingLanes j q).getLsbD l = true ↔
      q.x.members.getLsbD l = true ∧ ¬(q.act.getLsbD l = true ∧ LaneGoes j q l)
    rw [← hgo]
    simp [hl]
  case jmpi => exact fun hv s q hi ha hfits => splits_jmpi hi hv ha hfits
  case waits =>
    exact join_moves p w _ fun q s hno => if_neg fun h => hno ((joinCovered_iff _ _ _).mp h)
  case merges =>
    exact join_moves p w _ fun q s hc => if_pos ((joinCovered_iff _ _ _).mpr hc)
  case exit =>
    intro s q hi gone
    obtain ⟨hended, hmask, hslots, hrest⟩ := endLanes_ends
      (updSlot q.t q.slot fun x => { x with pc := q.next, wait := .ready }) (exitingLanes q)
    have hgone : ∀ l, (exitingLanes q).getLsbD l = true ↔ gone l := fun l => getLsbD_exitingLanes hi
    refine ⟨_, ends_exit hi, fun l _ => ?_, fun l hl => ?_, fun x hx l _ hxl hg => hslots x hx l hxl ((hgone l).mpr hg), hrest⟩
    · rw [hended, BitVec.getLsbD_or, Bool.or_eq_true, hgone]
      rfl
    · rw [hmask, ← hgone, BitVec.getLsbD_and, BitVec.getLsbD_not, decide_eq_true hl, Bool.true_and, Bool.and_eq_true,
        Bool.not_eq_true', Bool.not_eq_true]
      rfl
  case nop => exact fun s q hi _ => runStrand_next _ hi rfl rfl
  case back =>
    exact effects_yield p w (fun q c => { c with order := c.order.filter (· != (q.m.uid, q.t.index)) ++ [(q.m.uid, q.t.index)] })
      fun q s hin => if_pos (List.contains_iff_mem.mpr hin)
  case absent =>
    exact effects_yield p w (fun _ c => c) fun q s hout => if_neg fun h => hout (List.contains_iff_mem.mp h)

end Sys2Proof.Machine

namespace Sys2Proof.Machine

/-! ## Operands of the cross-lane instructions -/

/-- Each operand of an instruction that issues is of the kind that its position takes (R77). -/
theorem use_admits {s : State} {i : Instr} {q : Iss} (h : Issues s i q) {u : Use} (hu : u ∈ instrUses i) :
    u.kind.admits u.reg = true := by
  have hok := use_ok h hu
  unfold Use.ok at hok
  exact (Bool.and_eq_true_iff.mp hok).1

theorem not_isQueue_of_isScalar {r : Reg} (h : r.isScalar = true) : r.isQueue = false :=
  Bool.eq_false_iff.mpr fun hq => Bool.eq_false_iff.mp (isQueue_not_scalar hq) h

theorem not_isQueue_of_isVector {r : Reg} (h : r.isVector = true) : r.isQueue = false :=
  Bool.eq_false_iff.mpr fun hq => Bool.eq_false_iff.mp (isQueue_not_vector hq) h

/-- Sources none of which is a queue register pop nothing. -/
theorem queueSources_none {us : List Use} (h : ∀ u ∈ us, u.write = false → u.reg.isQueue = false) : queueSources us = [] :=
  List.filter_eq_nil_iff.mpr fun u hu => by
    cases hw : u.write with
    | true => simp
    | false => simp [h u hu hw]

/-- Beside a scalar destination no queue register is a source (R145). -/
theorem popsQueue_of_scalar_dest {s : State} {i : Instr} {q : Iss} (h : Issues s i q) {u : Use} (hu : u ∈ instrUses i)
    (hw : u.write = true) (hs : u.reg.isScalar = true) : popsQueue i = false := by
  unfold instrUses at hu
  split at hu
  · next p sh hsh =>
    have hclash : scalarClash sh.op (shapeUses p sh) = none := by
      have hstop := h.operands _ hsh
      unfold operandStop at hstop
      split at hstop
      · cases hstop
      · split at hstop
        · cases hstop
        · exact Option.map_eq_none_iff.mp hstop
    have hno : ∀ v ∈ shapeUses p sh, v.write = false → v.reg.isQueue = false := fun v hv hvw => by
      have hu' := List.find?_eq_none.mp hclash u hu
      rw [hw, hs, Bool.true_and, Bool.true_and, Bool.not_eq_true, List.any_eq_false] at hu'
      have hv' := hu' v hv
      rw [hvw, Bool.not_false, Bool.true_and, Bool.or_eq_true, not_or] at hv'
      exact Bool.eq_false_iff.mpr hv'.1
    unfold popsQueue instrUses
    rw [hsh]
    simp only [queueSources_none hno]
    rfl
  · cases hu

/-- Operands none of which is a queue register neither trap nor wait for one (R145). -/
theorem queueStops_none {us : List Use} (h : ∀ u ∈ us, u.reg.isQueue = false) (s : State) (m : Motif) (n : Nat) :
    queueStops s m n us = none := by
  unfold queueStops
  refine List.findSome?_eq_none_iff.mpr fun u hu => ?_
  have hmem : u ∈ us := (List.mem_append.mp hu).elim (fun h => (List.mem_filter.mp h).1) fun h => (List.mem_filter.mp h).1
  unfold queueStop
  rw [h u hmem]
  rfl

/-! ## Results written once, or in every active lane (R165) -/

/-- The one value of a scalar destination. -/
theorem laneVals_scalar (q : Iss) {d : Reg} (hd : d.isScalar = true) (val : Nat → Nat) : laneVals q d val [(0, val 0)] :=
  ⟨fun h => absurd hd (Bool.eq_false_iff.mp (isVector_not_scalar h)), fun _ => ⟨[], rfl⟩,
    fun h => absurd h (Bool.eq_false_iff.mp (not_isQueue_of_isScalar hd))⟩

/-- A value broadcast answers that value, written once to a scalar and in the active lanes of any other destination. -/
theorem answers_broadcast (i : Instr) (d : Reg) (w : Nat) (v : Iss → Nat) (flags : Iss → Flags)
    (gens : Iss → List (Nat × BitVec 24)) :
    Answers i (fun q => .ok (broadcast q d w (v q) (flags q) (gens q))) d w (fun q _ => v q) flags gens := by
  intro s q _
  refine ⟨_, d, rfl, ?_⟩
  rw [sourced_act]
  cases hd : d.isScalar with
  | true =>
    rw [not_perLaneReg_of_scalar hd, if_neg (by decide)]
    exact ⟨laneVals_scalar q hd _, fun h => absurd h (Bool.eq_false_iff.mp (not_isQueue_of_isScalar hd))⟩
  | false =>
    rw [perLaneReg_of_not_scalar hd, if_pos rfl]
    exact ⟨⟨fun _ => rfl, fun h => absurd h (Bool.eq_false_iff.mp hd), fun _ => rfl⟩, fun _ => by rw [List.map_map]; rfl⟩

/-! ## Scalars written by an instruction that pops nothing -/

theorem setScalars_rest {t u : Strand} {members : LaneMask} {n : Nat} {ws : List Word}
    (h : t.setScalars members n ws = some u) : u = { t with sregs := u.sregs, mask := u.mask } := by
  by_cases hpair : n = 0 ∧ ws.length = 2
  · unfold Strand.setScalars at h
    rw [if_pos hpair] at h
    cases h
    rfl
  · obtain ⟨-, -, hrest, -⟩ := setScalars_spec t u members n ws h hpair
    exact hrest

/-- An instruction whose body writes scalars from registers, none of them a queue, completes with the values written. -/
theorem computes_withScalars {i : Instr} {d : Reg} {w : Nat} {val : Iss → Nat → Nat} (body : Iss → State → Except Stop State)
    (hx : ∀ s, exec i s = runStrand i body s) (hsh : i.shape.isSome) (hw : w ≤ 4)
    (hd : ∀ s q, Issues s i q → d.isScalar = true ∧ popsQueue i = false)
    (hb : ∀ q s, body q s = withScalars q s d 0 w (val q 0)) : Computes i d w val := by
  intro s q hi _
  obtain ⟨hds, hpop⟩ := hd s q hi
  have hdq := not_isQueue_of_isScalar hds
  have hcount : poppedCount s q i = q.t.lastPop := by
    have hnone : (popSources (instrUses i) s q).2.2 = none := by
      rw [← Option.not_isSome_iff_eq_none, popSources_isSome]
      exact Bool.eq_false_iff.mp hpop
    unfold poppedCount
    rw [hnone]
    rfl
  rw [sourced_none s q i hpop]
  intro q' _ hkeep
  obtain ⟨u, hu⟩ := Option.isSome_iff_exists.mp (hkeep hds)
  have hrest := setScalars_rest hu
  refine ⟨u, ?_, setScalars_wrote q q.t u d w (val q) hds rfl rfl rfl rfl hu hw, ?_, ?_, ?_⟩
  · rw [hx, runStrand_next body hi hsh (s' := putStrand s q u)]
    · simp [delivered, hpop, hdq, sourced_none s q i hpop]
    · rw [hb]
      unfold withScalars
      rw [hu]
  · rw [hrest]; simp
  · rw [hrest]; rfl
  · rw [hrest, hcount]

/-! ## One lane's vector registers written -/

/-- A vector register after values have gone to some of the active lanes (R69, R89). -/
theorem vreg_writeVec (t : Strand) {act : LaneMask} (z : Bool) (r w : Nat) (val : Nat → Nat) {ls : List Nat}
    (hls : ∀ l ∈ ls, l < 96 ∧ act.getLsbD l = true) (r' : Nat) {l' : Nat} (hl' : l' < 96) :
    (t.writeVec act z r w (ls.map fun l => (l, val l))).vreg r' l' =
      if r ≤ r' ∧ r' < r + w then
        (if l' ∈ ls then BitVec.ofNat 32 (val l' / 2 ^ (32 * (r' - r)))
         else if z ∧ ¬act.getLsbD l' then 0 else t.vreg r' l')
      else t.vreg r' l' := by
  have hvals : (ls.foldl (fun t l => t.setVec r l (wordsOf w (val l))) t).vreg r' l' =
      if l' ∈ ls ∧ r ≤ r' ∧ r' - r < w then BitVec.ofNat 32 (val l' / 2 ^ (32 * (r' - r))) else t.vreg r' l' := by
    rw [vreg_foldVec r w _ (fun l => wordsOf_length w (val l)) ls (fun l hl => (hls l hl).1) t r' l' hl']
    simp only [wordsOf_getElem, dite_eq_ite]
  have hzeros : ∀ t : Strand, (((List.range 96).filter fun l => !act.getLsbD l).foldl
      (fun t l => t.setVec r l (List.replicate w 0)) t).vreg r' l' =
      if act.getLsbD l' = false ∧ r ≤ r' ∧ r' - r < w then 0 else t.vreg r' l' := fun t => by
    rw [vreg_foldVec r w (fun _ => List.replicate w 0) (fun _ => List.length_replicate) _
      (fun l hl => List.mem_range.mp (List.mem_filter.mp hl).1) t r' l' hl']
    simp only [List.mem_filter, List.mem_range, hl', true_and, Bool.not_eq_true', List.getElem_replicate, dite_eq_ite]
  have hin : r ≤ r' ∧ r' < r + w ↔ r ≤ r' ∧ r' - r < w := by omega
  have hidle : act.getLsbD l' = false → l' ∉ ls := fun ha hl => Bool.eq_false_iff.mp ha (hls l' hl).2
  unfold Strand.writeVec
  simp only [List.foldl_map, hin]
  cases z with
  | false =>
    rw [if_neg (by decide), hvals]
    by_cases hr : r ≤ r' ∧ r' - r < w <;> simp [hr]
  | true =>
    rw [if_pos rfl, hzeros, hvals]
    cases ha : act.getLsbD l' with
    | false => by_cases hr : r ≤ r' ∧ r' - r < w <;> simp [hr, hidle ha]
    | true => by_cases hr : r ≤ r' ∧ r' - r < w <;> simp [hr]

theorem writeVec_rest (t : Strand) (act : LaneMask) (z : Bool) (r w : Nat) (val : Nat → Nat) (ls : List Nat) :
    t.writeVec act z r w (ls.map fun l => (l, val l)) =
      { t with vregs := (t.writeVec act z r w (ls.map fun l => (l, val l))).vregs } := by
  unfold Strand.writeVec
  simp only [List.foldl_map]
  cases z with
  | false => exact foldVec_rest r (fun l => wordsOf w (val l)) ls t
  | true =>
    simp only [if_true]
    rw [foldVec_rest r (fun _ => List.replicate w 0), foldVec_rest r (fun l => wordsOf w (val l)) ls t]

/-- A register instruction without queue operands whose result goes to a vector leaves the strand with that write alone. -/
theorem regBody_vector {s : State} {i : Instr} {q : Iss} {f : Iss → Except Stop RegOut} {d : Reg} {w : Nat}
    {vals : List (Nat × Nat)} (hq : ∀ u ∈ instrUses i, u.reg.isQueue = false) (hd : d.isVector = true)
    (hf : f q = .ok { dst := d, width := w, vals := vals }) :
    regBody i f q s = .ok (putStrand s q (q.t.writeVec q.act q.z (q.t.wb + d.toNat) w vals)) := by
  have hsources := queueSources_none fun u hu _ => hq u hu
  have hpop : popSources (instrUses i) s q = (s, q, none) := by unfold popSources; rw [hsources]; rfl
  have hdq := not_isQueue_of_isVector hd
  have ht : ({ ((q.t.setGens []).raise 0) with lastPop := q.t.lastPop } : Strand) = q.t := by
    simp [raise_rest, Strand.setGens]
  unfold regBody
  simp only [queueStops_none hq, hpop, hf, Option.map_none, Option.getD_none, ht, Iss.write, hd, if_true, arithTraps_zero,
    Bool.false_eq_true, if_false, Option.isSome_none, hdq]

/-! ## Lanes by number (R102, R163, R164) -/

/-- The lane that a number computed exactly names (R163). -/
def laneAt (x : Int) : Option Nat := if 0 ≤ x ∧ x < 96 then some x.toNat else none

theorem laneAt_natCast (n : Nat) : laneAt n = if n < 96 then some n else none := by
  unfold laneAt
  by_cases h : n < 96
  · rw [if_pos (by omega), if_pos h, Int.toNat_natCast]
  · rw [if_neg (by omega), if_neg h]

theorem laneAt_neg {x : Int} (h : x < 0) : laneAt x = none := if_neg (by omega)

/-- A lane named by number delivers its register; no lane, and one never launched, delivers 0 (R163). -/
theorem readOf_laneAt (q : Iss) (r : Reg) (k : Nat) (x : Int) : q.readOf r k (laneAt x) =
    if 0 ≤ x ∧ x < 96 ∧ q.t.launched.getLsbD x.toNat then q.read r k x.toNat else 0 := by
  unfold laneAt Iss.readOf
  by_cases hx : 0 ≤ x ∧ x < 96
  · rw [if_pos hx]
    by_cases hl : q.t.launched.getLsbD x.toNat = true
    · simp only [if_pos hl, if_pos (⟨hx.1, hx.2, hl⟩ : 0 ≤ x ∧ x < 96 ∧ _)]
    · simp only [if_neg hl, if_neg fun h : 0 ≤ x ∧ x < 96 ∧ _ => hl h.2.2]
  · rw [if_neg hx, if_neg fun h => hx ⟨h.1, h.2.1⟩]

/-- The number that SHFL names in a lane, exact (R164). -/
def shflNumber (fn : BitVec 3) (l b : Nat) : Int :=
  match fn.toNat with
  | 0 => b
  | 1 => l - b
  | 2 => l + b
  | 3 => (l ^^^ b : Nat)
  | _ => 32 * (l / 32) + b % 32

theorem shflLane_eq (fn : BitVec 3) (l b : Nat) : shflLane fn l b = laneAt (shflNumber fn l b) := by
  unfold shflLane shflNumber
  rcases fn.toNat with _ | _ | _ | _ | n
  · exact (laneAt_natCast b).symm
  · by_cases h : b ≤ l
    · have hsub : (l : Int) - b = (l - b : Nat) := by omega
      simp only [Nat.zero_add, if_pos h, hsub, laneAt_natCast]
      rfl
    · simp only [Nat.zero_add, if_neg h]
      exact (laneAt_neg (by omega)).symm
  · exact (laneAt_natCast (l + b)).symm
  · exact (laneAt_natCast (l ^^^ b)).symm
  · exact (laneAt_natCast (32 * (l / 32) + b % 32)).symm

/-- READLANE completes with what the lane named by the scalar b delivers (R102, R163). -/
theorem computes_readlane (p : Option Pfx) (w : FmtA) : Computes (.readlane p w) w.d (intW w.fn) fun q _ =>
    q.readOf w.a (intW w.fn) (laneAt (q.read w.b 1 0)) := by
  refine computes_of_answers (fun _ => rfl) rfl (intW_le _) fun s q hi => ?_
  have hd : w.d.isScalar = true := use_admits hi (u := wr w.d (intW w.fn) .scalar) List.mem_cons_self
  refine ⟨_, w.d, ?_, laneVals_scalar q hd _, fun h => absurd h (Bool.eq_false_iff.mp (not_isQueue_of_isScalar hd))⟩
  rw [laneAt_natCast]

/-- SHFL completes with what the lane that each lane names delivers (R163, R164). -/
theorem computes_shfl (p : Option Pfx) (w : FmtA) : Computes (.shfl p w) w.d 1 fun q l =>
    q.readOf w.a 1 (laneAt (shflNumber w.fn l (q.read w.b 1 l))) :=
  computes_of_eq ⟨rfl, _, _, rfl⟩ (by decide) (fun _ => rfl) fun q l => by rw [shflLane_eq]

/-- The lane that WRITELANE writes, where it is active (R102). -/
def writtenLanes (q : Iss) (b : Reg) : List Nat :=
  if q.read b 1 0 < 96 ∧ q.act.getLsbD (q.read b 1 0) then [q.read b 1 0] else []

theorem mem_writtenLanes {q : Iss} {b : Reg} {l : Nat} (hl : l < 96) :
    l ∈ writtenLanes q b ↔ l = q.read b 1 0 ∧ q.act.getLsbD l = true := by
  unfold writtenLanes
  split
  · next h =>
    rw [List.mem_singleton]
    exact ⟨fun e => ⟨e, e ▸ h.2⟩, fun e => e.1⟩
  · next h =>
    refine iff_of_false List.not_mem_nil ?_
    rintro ⟨rfl, ha⟩
    exact h ⟨hl, ha⟩

theorem writtenLanes_active {q : Iss} {b : Reg} {l : Nat} (h : l ∈ writtenLanes q b) : l < 96 ∧ q.act.getLsbD l = true := by
  unfold writtenLanes at h
  split at h
  · next hi => rw [List.mem_singleton.mp h]; exact hi
  · cases h

/-- The strand after WRITELANE (R102). -/
def laneWritten (q : Iss) (w : FmtA) : Strand :=
  q.t.writeVec q.act q.z (q.t.wb + w.d.toNat) (intW w.fn)
    ((writtenLanes q w.b).map fun l => (l, q.read w.a (intW w.fn) 0))

theorem exec_writelane {s : State} {p : Option Pfx} {w : FmtA} {q : Iss} (h : Issues s (.writelane p w) q) :
    exec (.writelane p w) s = .next (retire q (.writelane p w) (putStrand s q (laneWritten q w))) := by
  have huses : instrUses (.writelane p w) =
    [wr w.d (intW w.fn) .vector, rd 1 w.a (intW w.fn) .scalar, rd 2 w.b 1 .scalar] := rfl
  have hkind : ∀ u ∈ instrUses (.writelane p w), u.kind.admits u.reg = true := fun u hu => use_admits h hu
  simp only [huses, List.forall_mem_cons] at hkind
  obtain ⟨hd, ha, hb, -⟩ := hkind
  have hq : ∀ u ∈ instrUses (.writelane p w), u.reg.isQueue = false := by
    simp only [huses, List.forall_mem_cons]
    exact ⟨not_isQueue_of_isVector hd, not_isQueue_of_isScalar ha, not_isQueue_of_isScalar hb, by simp⟩
  refine runStrand_next _ h rfl (regBody_vector hq hd ?_)
  unfold writtenLanes
  dsimp only
  split <;> rfl

/-! ## Votes, ballots and matches (R165, R166, R168) -/

/-- What VOTE finds of the values of some lanes (R165). -/
def voteHolds (fn : BitVec 3) (xs : List Nat) (f : Nat → Nat) : Bool :=
  match fn.toNat with
  | 0 => ∀ l ∈ xs, f l ≠ 0
  | 1 => ∃ l ∈ xs, f l ≠ 0
  | _ => ∀ l ∈ xs, ∀ k ∈ xs, f l = f k

/-- All values equal the first one when any two are equal. -/
theorem all_eq_head_iff (xs : List Nat) (f : Nat → Nat) :
    (xs.map f).all (· == (xs.map f).headD 0) = true ↔ ∀ l ∈ xs, ∀ k ∈ xs, f l = f k := by
  cases xs with
  | nil => simp
  | cons x xs =>
    simp only [List.all_eq_true, List.forall_mem_map, beq_iff_eq]
    show (∀ l ∈ x :: xs, f l = f x) ↔ _
    exact ⟨fun h l hl k hk => (h l hl).trans (h k hk).symm, fun h l hl => h l hl x List.mem_cons_self⟩

/-- VOTE completes with 1 where the vote holds, broadcast (R165). -/
theorem computes_vote (p : Option Pfx) (w : FmtA) : Computes (.vote p w) w.d 1 fun q _ =>
    if voteHolds w.fn (lanesOf q.act) (q.read w.a 1) then 1 else 0 := by
  refine Computes_congr (by decide) (fun s q _ l => congrArg (· % _) ?_)
    (computes_of_answers (fun _ => rfl) rfl (by decide) (answers_broadcast _ w.d 1 _ (fun _ => 0) fun _ => []))
  generalize (sourced s q (.vote p w)).2 = q1
  rw [Bool.toNat, Bool.cond_eq_ite]
  refine if_congr ?_ rfl rfl
  unfold voteHolds
  rcases w.fn.toNat with _ | _ | n
  · simp
  · simp
  · exact (all_eq_head_iff _ _).trans decide_eq_true_iff.symm

/-- The image of the active lanes that a test picks, bit by bit (R69, R166). -/
theorem maskOf_filter (m : LaneMask) (p : Nat → Bool) :
    maskOf ((lanesOf m).filter p) = BitVec.ofFnLE (n := 96) fun l => m.getLsbD l.val && p l.val := by
  refine BitVec.eq_of_getLsbD_eq fun l hl => ?_
  rw [BitVec.getLsbD_ofFnLE, dif_pos hl, Bool.eq_iff_iff, getLsbD_maskOf _ l hl, List.mem_filter, mem_lanesOf, Bool.and_eq_true,
    and_iff_right hl]

/-- BALLOT writes a triple of general scalars, or the masks (R128, R166). -/
theorem computes_ballot (p : Option Pfx) (w : FmtA) (h : scalarNo w.d ≤ 26 ∨ scalarNo w.d = 29) :
    Computes (.ballot p w) w.d 3 fun q _ =>
      (BitVec.ofFnLE (n := 96) fun l => q.act.getLsbD l.val && q.read w.a 1 l.val != 0).toNat := by
  refine computes_withScalars _ (fun _ => rfl) rfl (by decide) (fun s q hi => ?_) fun q s => ?_
  · have hu : wr w.d 1 (.range 1 29) ∈ instrUses (.ballot p w) := List.mem_cons_self
    have hd : w.d.isScalar = true := (Bool.and_eq_true_iff.mp (use_admits hi hu)).1
    exact ⟨hd, popsQueue_of_scalar_dest hi hu rfl hd⟩
  · dsimp only
    rw [if_neg (by omega), maskOf_filter]

/-- BALLOT on a triple that would cross from the general scalars into the masks traps (R166). -/
theorem traps_ballot (p : Option Pfx) (w : FmtA) (h : 26 < scalarNo w.d ∧ scalarNo w.d ≠ 29) :
    Traps (.ballot p w) (fun _ _ => True) 2 fun _ => BitVec.ofNat 32 w.d.toNat :=
  fun _ _ hi _ hc => runStrand_trap _ hi rfl hc rfl (if_pos h)

/-- The lowest lane of a group and how many it holds, from the lanes paired with their values. -/
theorem filter_paired (xs : List Nat) (f : Nat → Nat) (x : Nat) :
    ((xs.map fun l => (l, f l)).filter fun e => e.2 == x).map (·.1) = xs.filter fun l => f l == x := by
  rw [List.filter_map, List.map_map]
  exact List.map_id _

/-- MATCH completes with the lowest lane of each lane's group and the group's size (R168). -/
theorem computes_match (p : Option Pfx) (w : FmtA) : Computes (.match p w) w.d 1 fun q l =>
    let k := if w.fn = 1 then 2 else 1
    let same := (lanesOf q.act).filter fun j => q.read w.a k j == q.read w.a k l
    same.headD 0 + 2 ^ 8 * same.length :=
  computes_of_eq ⟨rfl, _, _, rfl⟩ (by decide) (fun _ => rfl) fun q l => by
    dsimp only
    rw [← List.length_map (f := fun e : Nat × Nat => e.1), filter_paired]
    rfl

/-- Settles O5: reads by number go through `laneAt`, votes through `broadcast`, ballots through `withScalars`. -/
theorem laneExchange : Obligations.LaneExchange := by
  intro p w
  refine ⟨?readlane, ?writelane, ?shfl, computes_vote p w, computes_ballot p w, traps_ballot p w, computes_match p w⟩
  case readlane =>
    simpa only [readOf_laneAt] using computes_readlane p w
  case shfl =>
    have h := computes_shfl p w
    simp only [readOf_laneAt] at h
    exact h
  case writelane =>
    refine fun s q hi => ⟨laneWritten q w, exec_writelane hi, writeVec_rest _ _ _ _ _ _ _, fun r l hl => ?_⟩
    have h := vreg_writeVec q.t q.z (q.t.wb + w.d.toNat) (intW w.fn) (fun _ => q.read w.a (intW w.fn) 0)
      (fun l => writtenLanes_active (q := q) (b := w.b)) r hl
    simp only [mem_writtenLanes hl] at h
    exact h

end Sys2Proof.Machine

namespace Sys2Proof.Machine

/-! ## The issuing sequencer -/

/-- What is done to the first element that passes a test depends on that element alone. -/
theorem updFirst_congr {α : Type} {p : α → Bool} {f g : α → α} {x : α} (hfg : f x = g x) {l : List α} (hx : l.find? p = some x) :
    updFirst p f l = updFirst p g l := by
  induction l with
  | nil => rfl
  | cons y l ih =>
    by_cases hy : p y = true
    · obtain rfl : y = x := by simpa [hy] using hx
      simp [updFirst, hy, hfg]
    · simp [updFirst, hy, ih (by simpa [hy] using hx)]

theorem updFirst_id {α : Type} (p : α → Bool) {f : α → α} (h : ∀ x, f x = x) (l : List α) : updFirst p f l = l := by
  induction l with
  | nil => rfl
  | cons x l ih => rw [updFirst, h, ih, ite_self]

/-- The issuing sequencer is that of the motif that the state holds under its number. -/
theorem seqIssuerOf_some {s : State} {z : SeqIss} (h : seqIssuerOf s = some z) :
    motifOf s z.m.uid = some z.m ∧ z.m.seq = some z.q := by
  unfold seqIssuerOf at h
  split at h
  · next uid _ =>
    obtain ⟨m, hm, hq⟩ := Option.bind_eq_some_iff.mp h
    obtain ⟨q, hseq, rfl⟩ := Option.map_eq_some_iff.mp hq
    obtain rfl : m.uid = uid := by simpa using List.find?_some hm
    exact ⟨hm, hseq⟩
  · cases h

/-- A change of the issuing sequencer depends on it as it stands alone. -/
theorem updSeq_congr {s : State} {i : Instr} {z : SeqIss} (h : SeqIssues s i z) {f g : Sequencer → Sequencer} (hfg : f z.q = g z.q) :
    updSeq s z.m.uid f = updSeq s z.m.uid g := by
  obtain ⟨hm, hseq⟩ := seqIssuerOf_some h.issuer
  unfold updSeq updMotif
  rw [updFirst_congr _ hm]
  simp only [hseq, Option.map_some, hfg]

theorem updSeq_id (s : State) (uid : Nat) : updSeq s uid (fun q => q) = s := by
  unfold updSeq updMotif
  rw [updFirst_id _ fun m => by rw [Option.map_id']]

/-- A sequencer instruction whose body changes its sequencer alone leaves it so, at the next word (R323). -/
theorem runSeq_leaves {s : State} {i : Instr} {z : SeqIss} (body : SeqIss → State → Except SeqStop State) (h : SeqIssues s i z)
    (f : Sequencer → Sequencer) (hb : body z s = .ok (updSeq s z.m.uid f)) : runSeq i body s = .next (seqLeft z (f z.q) s) := by
  rw [runSeq_does body h f hb, seqLeft]
  exact congrArg (fun t => Host.Outcome.next (elapse t 1)) (updSeq_congr h rfl)

/-- A sequencer instruction that moves its sequencer leaves it where its body put it (R323, R327). -/
theorem runSeqControl_leaves {s : State} {i : Instr} {z : SeqIss} (body : SeqIss → State → Except SeqStop State) (h : SeqIssues s i z)
    (f : Sequencer → Sequencer) (hb : body z s = .ok (updSeq s z.m.uid f)) : runSeqControl i body s =
      .next (elapse (updSeq s z.m.uid fun _ => { f z.q with wait := false, waits := [] }) 1) := by
  unfold runSeqControl seqStep
  simp only [h.issuer, h.running, h.features, hb, Bool.false_eq_true, if_false, if_true, updSeq_twice]
  exact congrArg (fun t => Host.Outcome.next (elapse t 1)) (updSeq_congr h rfl)

/-- A sequencer instruction that would move its sequencer and faults stops it (R324). -/
theorem runSeqControl_faults {s : State} {i : Instr} {z : SeqIss} (body : SeqIss → State → Except SeqStop State) (h : SeqIssues s i z)
    {code detail : Nat} {rows : List Nat} (hb : body z s = .error (.fault code detail rows)) :
    runSeqControl i body s = .next (elapse (seqFaultAt s z.m z.off code detail rows z.q.work) 1) := by
  unfold runSeqControl seqStep
  simp only [h.issuer, h.running, h.features, hb, Bool.false_eq_true, if_false]

/-! ## k registers (R322) -/

theorem kreg_setK (q : Sequencer) (d : Nat) (v : Dword) (n : Nat) :
    (q.setK d v).kreg n = if n = d ∧ n ≠ 0 then v else q.kreg n := by
  unfold Sequencer.setK
  by_cases hd : d = 0
  · rw [if_pos hd, if_neg fun h => h.2 (h.1.trans hd)]
  · simp only [if_neg hd, Sequencer.kreg, tget_tset]
    by_cases hn : n = 0 <;> simp [hn]

theorem setK_rest (q : Sequencer) (d : Nat) (v : Dword) : q.setK d v = { q with k := (q.setK d v).k } := by
  unfold Sequencer.setK
  split <;> rfl

/-- The first field of a word that names no k register. -/
def firstOther (rs : List Reg) : Option Reg := rs.find? fun r => decide (32 ≤ r.toNat)

theorem kField_of_lt {r : Reg} (h : r.toNat < 32) : kField r = .ok r.toNat := if_pos h

theorem kField_of_ge {r : Reg} (h : 32 ≤ r.toNat) : kField r = .error (.fault 2 r.toNat []) := if_neg (by omega)

/-- A body that reads its fields in order faults at the first that names no k register. -/
theorem kField_bind_faults {r n : Reg} {rs : List Reg} {k : Nat → Except SeqStop State} (h : firstOther (r :: rs) = some n)
    (hk : firstOther rs = some n → k r.toNat = .error (.fault 2 n.toNat [])) :
    (kField r >>= k) = .error (.fault 2 n.toNat []) := by
  unfold firstOther at h
  by_cases hr : r.toNat < 32
  · rw [kField_of_lt hr]
    exact hk (by simpa [firstOther, hr] using h)
  · obtain rfl : r = n := by simpa [show 32 ≤ r.toNat by omega] using h
    rw [kField_of_ge (by omega)]
    rfl

/-! ## Instructions that write a k register (R326) -/

/-- What the body of such an instruction does with the fields `rs`: it writes `f` of its sequencer to `d` when they all name k
registers, and faults at the first that does not. -/
structure WritesK (body : SeqIss → State → Except SeqStop State) (rs : List Reg) (d : Reg) (f : Sequencer → Dword) : Prop where
  writes : ∀ z s, (∀ r ∈ rs, r.toNat < 32) → body z s = .ok (updSeq s z.m.uid fun q => q.setK d.toNat (f q))
  faults : ∀ z s n, firstOther rs = some n → body z s = .error (.fault 2 n.toNat [])

theorem WritesK.computes {i : Instr} {body : SeqIss → State → Except SeqStop State} {rs : List Reg} {d : Reg}
    {f : Sequencer → Dword} (hb : WritesK body rs d f) (hx : ∀ s, exec i s = runSeq i body s) :
    SeqComputes i rs d fun z => f z.q := fun s z hi hrs =>
  ⟨z.q.setK d.toNat (f z.q), (hx s).trans (runSeq_leaves body hi _ (hb.writes z s hrs)), setK_rest _ _ _,
    kreg_setK _ _ _⟩

theorem WritesK.seqFaults {i : Instr} {body : SeqIss → State → Except SeqStop State} {rs : List Reg} {d n : Reg}
    {f : Sequencer → Dword} (hb : WritesK body rs d f) (hx : ∀ s, exec i s = runSeq i body s) (hn : firstOther rs = some n) :
    SeqFaults i (fun _ _ => True) 2 fun _ => n.toNat := fun s z hi _ =>
  (hx s).trans (runSeq_faults body hi (hb.faults z s n hn))

theorem kBinary_writesK (f : Dword → Dword → Dword) (w : FmtA) :
    WritesK (kBinary f w) [w.d, w.a, w.b] w.d fun q => f (q.kreg w.a.toNat) (q.kreg w.b.toNat) where
  writes z s h := by
    simp only [List.forall_mem_cons] at h
    obtain ⟨hd, ha, hb, -⟩ := h
    unfold kBinary
    rw [kField_of_lt hd, kField_of_lt ha, kField_of_lt hb]
    rfl
  faults z s n h := kField_bind_faults h fun h => kField_bind_faults h fun h => kField_bind_faults h nofun

theorem kBinary_computes {i : Instr} {f : Dword → Dword → Dword} {w : FmtA} (hx : ∀ s, exec i s = runSeq i (kBinary f w) s) :
    SeqComputes i [w.d, w.a, w.b] w.d fun z => f (z.q.kreg w.a.toNat) (z.q.kreg w.b.toNat) :=
  (kBinary_writesK f w).computes hx

/-- The body of KADDI (R326). -/
theorem kaddi_writesK (w : FmtB) :
    ∃ body, (∀ s, exec (.kaddi w) s = runSeq (.kaddi w) body s) ∧
      WritesK body [w.d, w.a] w.d fun q => q.kreg w.a.toNat + w.imm.signExtend 64 :=
  ⟨_, fun _ => rfl, {
    writes := fun z s h => by
      simp only [List.forall_mem_cons] at h
      obtain ⟨hd, ha, -⟩ := h
      rw [kField_of_lt hd, kField_of_lt ha]
      rfl
    faults := fun z s n h => kField_bind_faults h fun h => kField_bind_faults h nofun }⟩

/-- The body of KLI (R326). -/
theorem kli_writesK (w : FmtU) :
    ∃ body, (∀ s, exec (.kli w) s = runSeq (.kli w) body s) ∧ WritesK body [w.d] w.d fun _ => w.imm.signExtend 64 :=
  ⟨_, fun _ => rfl, {
    writes := fun z s h => by
      rw [kField_of_lt (h w.d List.mem_cons_self)]
      rfl
    faults := fun z s n h => kField_bind_faults h nofun }⟩

/-- A shift whose count is 64 or more leaves 0 (R326). -/
theorem kshl_value (a b : Dword) : (if 64 ≤ b.toNat then 0 else a <<< b.toNat) = a <<< b.toNat := by
  split
  · next h => exact (BitVec.shiftLeft_eq_zero h).symm
  · rfl

/-! ## KBRA (R327) -/

/-- The condition of KBRA on a signed value (R112, R327). -/
def Branches (fn : BitVec 3) (v : Int) : Prop :=
  match fn.toNat with
  | 0 => True
  | 1 => v = 0
  | 2 => v ≠ 0
  | 3 => v < 0
  | 4 => 0 ≤ v
  | 5 => 0 < v
  | _ => v ≤ 0

theorem branchHolds_iff_branches (fn : BitVec 3) (v : Int) : branchHolds fn v = true ↔ Branches fn v := by
  unfold branchHolds Branches
  rcases fn.toNat with _ | _ | _ | _ | _ | _ | n <;> simp

/-- The number of the word after KBRA, before it wraps to 32 bits. -/
def kbraNext (j : FmtJ) (z : SeqIss) : Int :=
  z.off + 4 + if branchHolds j.fn (z.q.kreg j.a.toNat).toInt then 4 * j.off.toInt else 0

theorem exec_kbra {s : State} {j : FmtJ} {z : SeqIss} (h : SeqIssues s (.kbra j) z) (ha : j.fn = 0 ∨ j.a.toNat < 32) :
    exec (.kbra j) s = .next (elapse (updSeq s z.m.uid fun _ =>
      { z.q with pc := (kbraNext j z % 2 ^ 32).toNat, wait := false, waits := [] }) 1) := by
  refine runSeqControl_leaves _ h (fun q => { q with pc := wrapN 32 (kbraNext j z) }) ?_
  unfold kbraNext branchHolds
  by_cases hfn : j.fn = 0
  · rw [if_pos hfn, hfn]
    rfl
  · rw [if_neg hfn, kField_of_lt (ha.resolve_left hfn)]
    refine congrArg (fun b : Bool => Except.ok (updSeq s z.m.uid fun q =>
      { q with pc := wrapN 32 (z.off + 4 + if b then 4 * j.off.toInt else 0) })) ?_
    generalize (z.q.kreg j.a.toNat).toInt = v
    generalize j.fn.toNat = n
    match n with
    | 2 => exact decide_not
    | 0 | 1 | 3 | 4 | 5 | _ + 6 => rfl

theorem kbra_faults (j : FmtJ) : SeqFaults (.kbra j) (fun _ _ => j.fn ≠ 0 ∧ 32 ≤ j.a.toNat) 2 fun _ => j.a.toNat := by
  rintro s z hi ⟨hfn, ha⟩
  refine runSeqControl_faults _ hi ?_
  rw [if_neg hfn, kField_of_ge ha]
  rfl

/-! ## KEND and MYIELD (R329) -/

theorem kend_does (w : FmtA) : SeqDoes (.kend w) (fun _ _ => True) fun z => { z.q with ended := true } :=
  fun _ _ hi _ => runSeq_leaves _ hi (fun q => { q with ended := true }) rfl

theorem myield_does (w : FmtA) :
    SeqDoes (.myield w) (fun _ _ => True) fun z => { z.q with saveHere := z.q.saveHere || z.m.preempt.isSome } := by
  intro s z hi _
  refine runSeq_leaves _ hi (fun q => { q with saveHere := q.saveHere || z.m.preempt.isSome }) ?_
  cases z.m.preempt.isSome
  · simp [updSeq_id]
  · simp

/-- Settles O33: each word's body writes one k register, moves the sequencer or changes one field of it, and a field that names
no k register faults before any of that. -/
theorem sequencerArithmetic : Obligations.SequencerArithmetic := by
  intro w b u j
  obtain ⟨_, hkaddi, waddi⟩ := kaddi_writesK b
  obtain ⟨_, hkli, wli⟩ := kli_writesK u
  refine ⟨kBinary_computes fun _ => rfl, kBinary_computes fun _ => rfl, kBinary_computes fun _ => rfl,
    kBinary_computes fun _ => rfl, kBinary_computes fun _ => rfl, ?kshl, waddi.computes hkaddi, wli.computes hkli, ?fields,
    kbra_faults j, ?kbra, kend_does w, myield_does w⟩
  case kshl => simpa only [kshl_value] using kBinary_computes (i := .kshl w) fun _ => rfl
  case fields =>
    intro i rs n hmem hn
    simp only [List.mem_cons, Prod.mk.injEq, List.not_mem_nil, or_false] at hmem
    obtain ⟨rfl, rfl⟩ | ⟨rfl, rfl⟩ | ⟨rfl, rfl⟩ | ⟨rfl, rfl⟩ | ⟨rfl, rfl⟩ | ⟨rfl, rfl⟩ | ⟨rfl, rfl⟩ | ⟨rfl, rfl⟩ := hmem
    iterate 6 exact (kBinary_writesK _ w).seqFaults (fun _ => rfl) hn
    · exact waddi.seqFaults hkaddi hn
    · exact wli.seqFaults hkli hn
  case kbra =>
    intro s z hi ha
    have hx := exec_kbra hi ha
    refine ⟨fun ht => ?_, fun ht => ?_⟩
    · rw [kbraNext, if_pos ((branchHolds_iff_branches _ _).mpr ht)] at hx
      exact hx
    · rw [kbraNext, if_neg fun h => ht ((branchHolds_iff_branches _ _).mp h), add_zero] at hx
      exact hx

end Sys2Proof.Machine

namespace Sys2Proof.Machine

/-! ## SNAP reads the cut block (R284, R431, R455) -/

/-- A completed issue leaves the lines' stored tags. -/
@[simp] theorem retire_tags (q : Iss) (i : Instr) (s : State) : (retire q i s).tags = s.tags := by
  unfold retire afterIssue advance
  split
  · dsimp only
    split <;> simp
  · rfl

/-- One word goes to a scalar register below the masks, whatever else the state holds (R13). -/
theorem putDest_word {d : Reg} (hd : d.isScalar = true) (hn : 1 ≤ scalarNo d ∧ scalarNo d ≤ 28) (s : State) (q : Iss) (v : Nat) :
    putDest s q { dst := d, width := 1, vals := [(0, v)] } = .ok (putStrand s q
      { strandNow s q with sregs := tset 0 (strandNow s q).sregs (scalarNo d) (BitVec.ofNat 32 v) }) := by
  have hvector : d.isVector = false := by
    by_contra h
    simp [isVector_not_scalar (Bool.eq_true_of_not_eq_false h)] at hd
  have hset := setScalars_plain (strandNow s q) q.x.members hn.1 (ws := wordsOf 1 v) (by rw [wordsOf_length]; omega)
  unfold putDest Iss.write
  simp only [hvector, not_isQueue_of_isScalar hd, hset, Bool.false_eq_true, if_false]
  rfl

/-- SNAP of a context with the right to cuts and no cut block answers 0xFFFFFFFF in the state that the read of the block leaves.
That is not always the state before it: an error in the block's line is found by this read. -/
theorem exec_snap_noBlock {p : Option Pfx} {w : FmtA} {s : State} {q : Iss} (h : Issues s (.snap p w) q)
    (hright : q.m.desc.cutRight = true) (hblock : cutBlockOf (noticeBlock s q.m.cid) q.m.cid = none)
    (hd : w.d.isScalar = true) (hn : 1 ≤ scalarNo w.d ∧ scalarNo w.d ≤ 28) :
    let s1 := noticeBlock s q.m.cid
    exec (.snap p w) s = .next (retire q (.snap p w) (putStrand s1 q
      { strandNow s1 q with sregs := tset 0 (strandNow s1 q).sregs (scalarNo w.d) 0xFFFFFFFF })) := by
  refine runStrand_next _ h rfl ?_
  simp only [hright, hblock, Bool.not_true, Bool.false_eq_true, if_false]
  exact putDest_word hd hn _ q 0xFFFFFFFF

/-- `snap s6`. -/
def snapS6 : Instr := .snap none ⟨0, 102, 0, 0⟩

/-- A strand about to issue `snap s6` for a context with the right to cuts. The line of its cut block, at 0x510000, holds an
uncorrectable error that nothing has found yet (R283, R284). -/
def snapOverError : State :=
  let s := updMotif (State.reset.withFetchWord 32 0xAD198000) 0 fun m => { m with desc := { m.desc with cutRight := true } }
  { updVdev s 0 fun v => { v with cutbase := 0x510000 } with
    latent := [({ space := .device, addr := 0x510000 }, 1)], cur := some (.slot 0 0 0) }

/-- The issue of that strand. -/
def snapOverErrorIssue : Iss := ((issuerOf snapOverError).get (by decide)).enter snapS6

theorem snapOverErrorIssue_cid : snapOverErrorIssue.m.cid = 0 := rfl

theorem snapOverError_issues : Issues snapOverError snapS6 snapOverErrorIssue where
  wf := by decide
  slot := rfl
  lanes := by decide
  features := by decide
  place := by decide
  operands := by decide
  status := by decide

/-- An error in the cut block's line leaves the context without a cut block, before the read and after it (R214, R431). -/
theorem snapOverError_noBlock :
    cutBlockOf snapOverError 0 = none ∧ cutBlockOf (noticeBlock snapOverError 0) 0 = none := by
  decide

/-- The read finds the error and poisons the line (R284). -/
theorem snapOverError_tags :
    tget 1 snapOverError.tags (0x510000 / 128) = 1 ∧ tget 1 (noticeBlock snapOverError 0).tags (0x510000 / 128) = 15 := by
  decide

/-- Refutes O38: in its first clause SNAP changes nothing but d, whatever stands in the line of the cut block. SNAP reads the
block, so an uncorrectable error there is found and the line is poisoned: its stored tag becomes 15. -/
theorem not_snapshots : ¬ Obligations.Snapshots := by
  intro hall
  have hsnap := (hall none ⟨0, 102, 0, 0⟩ snapOverError snapOverErrorIssue).1 snapOverError_issues
  have hclaim := hsnap.1 (.inr snapOverError_noBlock.1) (by unfold keepsLanes; decide)
  have hruns := exec_snap_noBlock snapOverError_issues rfl snapOverError_noBlock.2 rfl (by decide)
  have hstates := Host.Outcome.next.inj (hclaim.symm.trans hruns)
  have htags : snapOverError.tags = (noticeBlock snapOverError 0).tags := by
    simpa [putStrand, snapOverErrorIssue_cid] using congrArg State.tags hstates
  obtain ⟨hbefore, hafter⟩ := snapOverError_tags
  rw [htags, hafter] at hbefore
  exact absurd hbefore (by decide)

end Sys2Proof.Machine
